-- ==== Sys2Proof/Word.lean ====
section
/-! DEFINITION. The word types of the LUM-A128 register map, and their plainest arithmetic.
Registers are 32 bits wide unless a table says otherwise (R6); structures are bytes (R3). -/

namespace Sys2Proof

/-- One byte of a host structure (R3). -/
abbrev Byte := BitVec 8

/-- One 32-bit register (R6). -/
abbrev Word := BitVec 32

/-- A 64-bit value: a timebase count, a host address, a command sequence number. -/
abbrev DWord := BitVec 64

end Sys2Proof
end

