-- ==== Sys2Proof/Syntax.lean ====
section
/-! DEFINITION. The commands of the LUM-A128: one constructor per row of the opcode table, with the operands the outside world
gives it. A queue is 0 to 7, an event queue 0 to 3, a group 0 to 31, a channel 0 to 127, a quad 0 to 31, a DMA channel 0 to 31. -/

namespace Sys2Proof

/-- A bulk table read from host memory (R299): its bytes, or none when the host read ended in an error (R286). -/
abbrev Table := Option (List Byte)

/-- The analogue input of one channel over a run of its samples (R50, R55, R58): the lead's samples from the one taken at `State.now`
`start` on, each as V(IN_P) − V(IN_N) in mV at its sampling instant. What the analogue circuit adds to it (noise, the mismatch of the
sub-converter that takes the sample, its trims) is part of the voltage (notes/assumptions/9.md). -/
structure Feed where
  ch : Nat
  start : Nat
  samples : List Rat
  deriving DecidableEq, Repr, Inhabited

/-- What the estimator hardware measures on one spare over a window (R91, R92): converter behind the lead 0 to 3, spare 64 or 65, the
rms difference between the shadowed position's corrected output and the spare's in LSB, the residual of each against the position's
neighbours, the codes the spare converted, and the offset (LSB), gain (ppm) and skew (fs) it is left with. -/
structure SpareIn where
  conv : Nat
  spare : Nat
  rms : Rat := 0
  posResid : Rat := 0
  spareResid : Rat := 0
  codes : List Int := []
  resid : Rat × Rat × Rat := (0, 0, 0)
  deriving DecidableEq, Repr, Inhabited

/-- A rising edge of the calibration pulse as a channel's corrected samples show it (R95): the lead's sample before the crossing, counted
from the edge's launch, and the four corrected samples about the crossing in 1/16 LSB. -/
structure SkewEdge where
  at_ : Int := 0
  a : Int := 0
  b : Int := 0
  c : Int := 0
  d : Int := 0
  deriving DecidableEq, Repr, Inhabited

/-- What foreground calibration finds for one sub-converter (R75): channel 0 to 3 of the quad, sub-converter 0 to 65, its skew trim, its
gain and offset trims for the four ranges, and what the estimator is left with: offset in LSB, gain in ppm, skew in fs, bandwidth. -/
structure FgResult where
  i : Nat
  sub : Nat
  skew : Int := 0
  gain : List Int := [0, 0, 0, 0]
  offset : List Int := [0, 0, 0, 0]
  est : Rat × Rat × Rat × Rat := (0, 0, 0, 0)
  deriving DecidableEq, Repr, Inhabited

/-- Phase comparisons in a row that showed one error (R216): the error in ps, at how many phase-detector edges. -/
structure PdRun where
  err : Rat
  edges : Nat := 1
  deriving DecidableEq, Repr, Inhabited

/-- The inputs of an estimator window (R74, R92): the analogue inputs since the last row that carried them, and what the spares show. -/
structure WindowIn where
  feeds : List Feed := []
  spares : List SpareIn := []
  deriving DecidableEq, Repr, Inhabited

/-- The outcome of foreground calibration (R75): the sub-converters that failed, by channel 0 to 3 of the quad and sub-converter 0 to 65,
and what it found for the others. -/
structure FgIn where
  fails : List (Nat × Nat) := []
  results : List FgResult := []
  deriving DecidableEq, Repr, Inhabited

/-- The end of a lock (R216, R223): phase-detector periods since the gate, and the comparisons since the last row that carried them. -/
structure LockIn where
  periods : Nat := 0
  cmps : List PdRun := []
  deriving DecidableEq, Repr, Inhabited

/-- The widest lane count (log2) and the highest rate that a sink's DPCD allows (R398). -/
structure DpSink where
  lanes : Nat := 0
  rate : Nat := 0
  deriving DecidableEq, Repr, Inhabited

/-- A micro-trap condition of the table of R286. -/
inductive TrapCond where
  /-- Corrected ECC error in the control store or a scratch register, at this address. -/
  | corrected (addr : Nat)
  | bulkReadError
  | noReply
  | abortAll
  | uncorrectable
  /-- The handler in the newest frame ends and the frame is restored. -/
  | handlerEnd
  deriving DecidableEq, Repr, Inhabited

/-- What a read of Reservoir meets in the stacks (R162): blocks whose code corrected an error (block address, stack), blocks rebuilt
from parity (block address, stack), and blocks that cannot be read or rebuilt. -/
structure EccReport where
  corrected : List (Nat × Nat) := []
  rebuilt : List (Nat × Nat) := []
  lost : List Nat := []
  deriving DecidableEq, Repr, Inhabited

/-- How one response of a DMA read or stripe write ended (R336, R349). -/
inductive RespStatus where
  | ok (data : List Byte) (ecc : EccReport)
  /-- UR, CA or a poisoned TLP (HOST_RD). -/
  | hostError
  /-- A Reservoir block that cannot be read or rebuilt (RSV_LOST). -/
  | lost
  /-- A stripe write to the program area failed (RSV_WR). -/
  | writeError
  deriving DecidableEq, Repr, Inhabited

/-- Which outstanding request of a channel a response answers. -/
inductive DmaReq where
  /-- The oldest fetch of instruction i. -/
  | fetch (i : Nat)
  | load
  | flush
  /-- The oldest read burst of the k-th MOVE in flight. -/
  | move (k : Nat)
  /-- The oldest Reservoir write burst of the k-th MOVE in flight. -/
  | write (k : Nat)
  deriving DecidableEq, Repr, Inhabited

/-- A host write to a configuration-space field the manual names (R357 to R365, R375). -/
inductive CfgField where
  | msixEnable | funcMask | pmeEn | pmeStatusClear | mps | mrrs | extTag | tag10 | cplTimeout
  | ecrcGen | ecrcChk | ptmEn | busMaster | memSpace | bar0 | bar2 | uieMask | aerClear
  /-- AER's uncorrectable mask and severity, its correctable mask, and the error reporting enables (R374). -/
  | aerMask | aerSev | corMask | errEn
  /-- ASPM Control, and the enables of L1.1 (R357, R364). -/
  | aspm | l1sub
  deriving DecidableEq, Repr, Inhabited

/-- The target of a register write (R6, R366). -/
inductive RegTarget where
  /-- BAR0 offset. -/
  | bar0 (addr : Nat)
  | cfg (f : CfgField)
  /-- No register but the host's message that turns the link off, into L2/L3 Ready (R365). -/
  | turnOff
  deriving DecidableEq, Repr, Inhabited

/-- Whose host read ran into the completion timeout (R363). -/
inductive TimeoutReq where
  | dma (c : Nat) (r : DmaReq)
  /-- The entry fetch of a submission queue. -/
  | fetch (q : Nat)
  /-- The bulk-table read of a queue's command. -/
  | table (q : Nat)
  deriving DecidableEq, Repr, Inhabited

/-- Errors of R374's table that a received TLP or DLLP can show. -/
inductive TlpError where
  /-- Receiver Error, Bad TLP, Bad DLLP, Replay Timer Timeout, Replay Num Rollover: the row's bit 0 to 4, and the lane. -/
  | correctable (bit lane : Nat)
  | poisonedWrite
  | poisonedCpl
  /-- A request outside both BARs; a non-posted one has a completion (R374). -/
  | unsupported (posted : Bool)
  | unexpectedCpl
  | ecrc
  /-- Malformed TLP, Receiver Overflow, Flow Control Protocol Error, Data Link Protocol Error: 0 to 3. -/
  | protocol (k : Nat)
  deriving DecidableEq, Repr, Inhabited

/-- What the Basic Flash Parameter Table of boot flash shows (R436): each supported read's instruction and dummy clocks. -/
structure Sfdp where
  /-- The device needs 4-byte addresses. -/
  fourByte : Bool := false
  read111 : Nat × Nat := (0x0B, 8)
  read114 : Option (Nat × Nat) := none
  read144 : Option (Nat × Nat) := none
  /-- The quad modes need no quad-enable write, or the quad-enable bit already reads set. -/
  quadReady : Bool := false
  deriving DecidableEq, Repr, Inhabited

/-- TAP instructions of R459 and R461. -/
inductive TapIns where
  | bypass | sample | extest | idcode | clamp | highz | extestPulse | extestTrain
  /-- Read-only scan of a domain, OPEN_USER and above. -/
  | scanRead (d : Nat)
  /-- Scan write, halt and single-step, OPEN_VENDOR. -/
  | scanWrite (d : Nat) | halt | step
  deriving DecidableEq, Repr, Inhabited

/-- What happens on the TAP pins (R461). -/
inductive TapAct where
  | trst
  | update (i : TapIns)
  deriving DecidableEq, Repr, Inhabited

/-- The commands and events of the part, row by row of the opcode table. -/
inductive Instr where
  | nop (q : Nat)
  | identify (q : Nat)
  | getStatus (q : Nat)
  | recoverReport (q : Nat) (writeOk : Bool)
  | stageWrite (q : Nat) (tbl : Table)
  | commitApply (q : Nat)
  | commitDiscard (q : Nat)
  | readConfig (q : Nat) (writeOk : Bool)
  | setSampleRate (q : Nat)
  | setReference (q : Nat) (jumpNow : Int)
  | clockOutputConfig (q : Nat)
  | phaseStep (q : Nat)
  | channelConfig (q : Nat)
  | delayTableLoad (q : Nat) (tbl : Table)
  | filterBankLoad (q : Nat) (tbl : Table)
  | triggerProgram (q : Nat) (tbl : Table)
  | arm (q : Nat)
  | forceTrigger (q : Nat)
  | stop (q : Nat)
  | abort (q : Nat)
  | streamStart (q : Nat)
  | streamStop (q : Nat)
  | recordRelease (q : Nat)
  | recordQuery (q : Nat) (writeOk : Bool)
  | pondConfig (q : Nat)
  | soundingConfig (q : Nat) (tbl : Table)
  | calControl (q : Nat)
  | calReport (q : Nat) (writeOk : Bool)
  | skewMeasure (q : Nat)
  | beaconConfig (q : Nat) (tbl : Table)
  | beaconMeasure (q : Nat)
  | timeSetMap (q : Nat)
  | timeSetLoad (q : Nat)
  | timeSetManual (q : Nat)
  | displayConfig (q : Nat) (tbl : Table)
  /-- `aux`: the bytes the sink gave, or none when AUX failed three attempts. -/
  | edidRead (q : Nat) (aux : Option (List Byte)) (writeOk : Bool)
  | lampFrameWrite (q : Nat) (tbl : Table)
  | lampConfig (q : Nat) (tbl : Table)
  | monitorScanConfig (q : Nat) (tbl : Table)
  | monitorReadLast (q : Nat)
  | monitorReadUrgent (q : Nat)
  | powerState (q : Nat)
  | domainControl (q : Nat)
  | keyProvisionWrite (q : Nat) (tbl : Table)
  | keyProvisionErase (q : Nat)
  /-- `nonce`: 16 bytes drawn from the on-die random source. -/
  | debugChallenge (q : Nat) (nonce : List Byte)
  | debugResponse (q : Nat) (tbl : Table)
  | alarmPolicy (q : Nat)
  | attestDevice (q : Nat) (writeOk : Bool)
  | attestRecord (q : Nat) (writeOk : Bool)
  | errorRead (q : Nat) (writeOk : Bool)
  | errorAck (q : Nat)
  | controlStoreInfo (q : Nat)
  | badOpcode (q : Nat)
  | duplicateCommand (q : Nat)
  | sqTailWrite (q : Nat) (v : Word)
  /-- Per queue, the packets the reads returned in ring order, or none for a read error. -/
  | sqFetch (reads : List (Nat × Option (List (List Byte))))
  | cqHeadWrite (q : Nat) (v : Word)
  | qEnable (q : Nat) (v : Word)
  | qDisable (q : Nat) (v : Word)
  | qResume (q : Nat) (v : Word)
  | clearErr (q : Nat) (v : Word)
  | eqEnable (e : Nat) (v : Word)
  | eqDisable (e : Nat) (v : Word)
  | eqResume (e : Nat) (v : Word)
  | eqHeadWrite (e : Nat) (v : Word)
  | cqPost (q : Nat)
  | eventPost (e : Nat)
  | latchedWritesApply
  | abortAll (v : Word)
  | microTrap (k : Nat) (c : TrapCond)
  | blockReplyTimeout (q : Nat)
  | lockstepMismatch
  | sequencerSelfTestDone (aPass bPass : Bool)
  | requeuedExecute (q : Nat)
  /-- Copy 0 A, 1 B; cause 0 ECC, 1 domain. -/
  | journalCopyFail (copy cause : Nat)
  | journalBRebuild
  | tbNowLoRead
  | errEntryRepeatRead (n : Nat)
  | registerWrite (t : RegTarget) (v : DWord) (be : BitVec 4)
  | irqMaskWrite (c : Nat) (v : Word)
  | glbIrqMaskWrite (v : Word)
  | msixUnmask (v : Nat)
  | imgBell (v : Word)
  | bar2Read (off len : Nat) (ecc : EccReport)
  | bar2Write (off : Nat)
  | dmaEnable (c : Nat) (v : Word)
  | dmaDisable (c : Nat) (v : Word)
  | dmaStoppingEnd (c : Nat)
  | dmaPause (c : Nat) (v : Word)
  | dmaUnpause (c : Nat) (v : Word)
  | creditAdd (c : Nat) (v : Word)
  | dmaMove (c : Nat)
  | dmaLoop (c : Nat)
  | dmaWaitSeg (c : Nat)
  | dmaWaitCredit (c : Nat)
  | dmaWaitTb (c : Nat)
  | dmaWaitResume (c : Nat)
  | dmaSignalHalf (c : Nat)
  | dmaSignalFull (c : Nat)
  | dmaSignalRelease (c : Nat)
  | dmaLoadImm (c : Nat)
  | dmaLoadAdd (c : Nat)
  | dmaLoadMem (c : Nat)
  | dmaLoadShl (c : Nat)
  | dmaFence (c : Nat)
  | dmaEnd (c : Nat)
  | dmaBadInstr (c : Nat)
  | dmaBurstResponse (c : Nat) (r : DmaReq) (st : RespStatus)
  | completionTimeout (r : TimeoutReq)
  | flr
  | hotReset
  | d3hotEnter
  | d0Return
  /-- Cause 0 error rate, 1 lock. -/
  | laneFault (lane cause : Nat)
  /-- Master time in ns, and how long ago in Ts/4,096 the instant it refers to lies. -/
  | ptmDialog (ns : DWord) (ago : Nat)
  | coldReset
  | resetNAssert
  | perstNAssert
  /-- The pin released (true RESET_N), what boot flash shows of itself (none without valid SFDP), and what it holds at the two places of
  the boot configuration. -/
  | resetRelease (resetN : Bool) (flash : Option Sfdp) (copies : List Byte × List Byte)
  /-- The bytes of the image, or none for a read error. -/
  | imageVerified (img : Table)
  | startupPhaseDone (ms : Nat)
  | startupPhaseOverrun (ms : Nat)
  | domainRampDone
  | heartbeatTimeout (d : Nat)
  | domainRestartOn (d : Nat)
  /-- Phase-detector periods from gate to release (R223), and the comparisons since the last row that carried them (R216). -/
  | lockDeclared (x : LockIn)
  | springGate
  /-- The comparisons since the last row that carried them. -/
  | lossOfLock (cmps : List PdRun)
  /-- Cause 0 no edge, 1 frequency. -/
  | refLost (cause : Nat)
  /-- The jump in ps. -/
  | refReturn (jump : Int)
  | slewDone
  | freeRunRelock
  | dividerBoundary
  /-- 0 VCO, 1 short period, 2 oscillator. -/
  | clockMonitorAlarm (what : Nat)
  | tbWrap
  /-- `State.now` stamp of the edge at the input, in Ts/4,096, and whether the edge rises. -/
  | ppsInEdge (stamp : Nat) (rise : Bool)
  | ppsMissing
  | timeSetTimeout (q : Nat)
  | ppsOutPulse
  | beaconFrameSend (p : Nat)
  /-- The 32 characters, and the K28.5 edge in Ts/65,536 of TB_COUNT. -/
  | beaconFrameReceive (p : Nat) (frame : List Byte) (edge : Nat)
  | portDown (p : Nat)
  | portSelfTest (p : Nat) (pass : Bool) (result : Nat)
  | arrMeasured (p : Nat)
  | beaconMeasureDone (writeOk : Bool)
  /-- Input 0 or 1, time in Ts/4,096 of `State.now`, direction. -/
  | trigInTransition (input t : Nat) (rise : Bool)
  /-- `feeds`: the analogue inputs since the last row that carried them; the logic decides up to the stamp `upTo`, where it may go so far. -/
  | triggerDecision (g : Nat) (feeds : List Feed) (upTo : Nat)
  | trigOutTimedEdge (out : Nat)
  | sequenceTimeout (g : Nat)
  | acqBoundary (u : Nat)
  | fadeEnd (n : Nat)
  | postFillEnd (g : Nat) (feeds : List Feed)
  | segmentComplete (g : Nat)
  | waitFullEnd (g : Nat)
  | streamFrameEnd (g : Nat) (feeds : List Feed)
  | avgWriteoutDone (g : Nat)
  | mapClearDone (n : Nat)
  | decayPassStart (n : Nat)
  | stackFailure (k cause : Nat)
  | rebuildDone
  | estimatorWindowEnd (n : Nat) (w : WindowIn)
  | trimTick
  | foregroundCalDone (q : Nat) (found : FgIn)
  | quadStart (q : Nat)
  /-- Per channel, the pulse edges its corrected samples show; a channel that is not listed shows none. -/
  | skewMeasureDone (res : List (Nat × List SkewEdge)) (writeOk : Bool)
  | frameBoundary
  | line0Flip
  | rasterPassDone
  | lineUnderrun
  | fetchUrgent (enter : Bool)
  | dpTrain (k : Nat)
  /-- What the sink allows, and whether each configuration tried, in its order, passed clock recovery and equalisation; one past the list's
  end did not. -/
  | dpTrainEnd (k : Nat) (sink : DpSink) (tries : List Bool)
  | hpdLow (k : Nat)
  | hpdIrq (k : Nat)
  | dpRetry (k : Nat)
  | dpSelfTest (k : Nat) (pass : Bool) (result : Nat)
  /-- Findings of the row's 24 lamp colours: 0 none, 1 OK, 2 OPEN, 3 SHORT. -/
  | lampRowSlot (findings : List Nat)
  | lampFrameBoundary
  | lampSyncEdge
  | lampDiagSubframe (findings : List Nat)
  | buoyScanStart
  | buoyConversionDone (code : Nat)
  | ageingGate (input count : Nat)
  | railComparatorTrip (d : Nat)
  | tempComparatorCheck (out : Bool)
  | lidSenseHigh
  | zeroiseEraseDone
  | vendorUnlockEraseDone
  | keystoreError (slot : Nat)
  | challengeExpiry
  | acceptanceOpens (g : Nat)
  /-- `feeds`: the analogue inputs of a ROLL acquisition's members up to its end. -/
  | acquisitionEnded (g : Nat) (feeds : List Feed)
  | receiverLosesAlignment (p : Nat)
  | uncorrectableStateError (d : Nat)
  | vddAonReturn
  | tapAccess (a : TapAct)
  | receivedTlpError (e : TlpError)
  | pcieLinkUp (gen width : Nat) (flit : Bool)
  deriving DecidableEq, Repr, Inhabited

end Sys2Proof
end

