-- ==== Sys2Proof/Config.lean ====
section
/-! DEFINITION. What one part fixes for good, and the values the manual leaves open.
Every constant here is opaque and has no body: no proof can see its value (notes/assumptions/3.md, 74.md). -/

namespace Sys2Proof.Config

/-- DIE_ID, the unique die number from fuses (R303). -/
opaque dieId : BitVec 64
/-- SVN_FLOOR as fused in production (R453, R469). -/
opaque fusedSvnFloor : BitVec 6
/-- SHA-384 digest of Psikan's image-signing key, held in fuses (R451). -/
opaque signKeyDigest : List Byte
/-- The Psikan vendor-debug public key, held in full in fuses (R457). -/
opaque vendorKey : List Byte
/-- The public part of the transport key pair, TPK (R454, R469). -/
opaque transportPub : List Byte
/-- The private part of the transport key pair (R454). -/
opaque transportKey : List Byte
/-- Spare rows each stack has when it leaves production (R188, R191); fewer than 1,024 count as 1,024 (R497). -/
opaque spareRows : Nat → BitVec 16

/-- SHA-384 (R451, R454, R462); the manual names the function and does not define it. -/
opaque sha384 : List Byte → List Byte
/-- ECDSA verification over P-384 with SHA-384: public key, digest, signature (chapter 19). -/
opaque p384Verify : List Byte → List Byte → List Byte → Bool
/-- The public key of a P-384 private scalar (R454). -/
opaque p384Pub : List Byte → List Byte
/-- A point of the curve, as R455 requires of a public key. -/
opaque p384PointOk : List Byte → Bool
/-- A scalar in 1 to n − 1 (R455). -/
opaque p384ScalarOk : List Byte → Bool
/-- A P-384 signature: private scalar, digest, and the number of the random draw it uses (R462). -/
opaque p384Sign : List Byte → List Byte → Nat → List Byte
/-- The shared X coordinate of an ECDH exchange: public key, private scalar (R455). -/
opaque ecdhX : List Byte → List Byte → List Byte
/-- AES-256-GCM opening: key, nonce, additional data, ciphertext, tag; none when the tag fails (R455). -/
opaque gcmOpen : List Byte → List Byte → List Byte → List Byte → List Byte → Option (List Byte)

/-- A free value: whatever the hardware shows where the manual calls a value undefined or states none.
The argument is a counter of the state, advanced at each use. -/
opaque freeNat : Nat → Nat
/-- A free byte, as `freeNat`. -/
opaque freeByte : Nat → Byte
/-- A free integer, as `freeNat`. -/
opaque freeInt : Nat → Int
/-- A free choice between two behaviours, as `freeNat`. -/
opaque freeBool : Nat → Bool

/-- The code of an ageing gate (R416): input 62 or 63, the count, and the CODE of the die temperature. The manual gives no formula for
the correction to 85 °C, and the production count is the part's. -/
opaque ageingCode : Nat → Nat → Nat → Int

/-- Words of a correction set that the manual gives no rule for (R79, R320): set key, position, byte offset 0 to 39 of the record. -/
opaque calCoef : Nat → Nat → Nat → Byte
/-- The bandwidth-mismatch estimate of R76, for which the manual gives no formula: c1 of the positions, the new skews, c2bar, position. -/
opaque bwNew : List Rat → List Rat → Rat → Nat → Rat
/-- The estimates that a dithered update gives, which the manual describes without a formula (R88): draw, quantity, position. -/
opaque ditherEst : Nat → Nat → Nat → Rat
/-- What a residual of the bandwidth estimate does to a tone at 0.47 of the sample rate, real and imaginary part of its factor less 1
(R76, R84): the manual gives the estimate no formula, and so none for its effect. -/
opaque bwTone : Rat → Rat × Rat
/-- The step of the 31-bit dither LFSR, whose feedback the manual does not give (R88). -/
opaque ditherNext : Nat → Nat
/-- Dither in LSB between two chips: the bits of the chip before and of this one, and the time since the chip began in Ts/4 (R88). -/
opaque ditherEdge : Bool → Bool → Nat → Rat
/-- The calibration pulse network's voltage in mV at a channel's sample (R51, R95): channel, sample number. -/
opaque calNetwork : Nat → Nat → Rat
/-- A path's production residual in fs (R95): channel. -/
opaque prodResidual : Nat → Rat
/-- Tap k of the fractional filter at a phase of 65,536 other than 0 (R106). -/
opaque fracTap : Nat → Nat → Rat
/-- Stripes that a rebuild writes in one superframe (R189): number of the rebuild, superframe. The manual gives its greatest pace. -/
opaque rebuildPace : Nat → Nat → Nat
/-- What the bulk FIFO holds from before a channel began to produce (R106, R120): channel, number of the sample. -/
opaque stale : Nat → Int → Int

end Sys2Proof.Config
end

