-- ==== Sys2Proof/Machine/Bits.lean ====
section
/-! DEFINITION. Bit-field, byte-order, counter and list helpers shared by every block.
R3 fixes little-endian order for every structure; R6 and the register tables fix the bit fields. -/

namespace Sys2Proof.Machine

/-- Field [msb:lsb] of a number (bit 0 is the least significant bit). -/
def fld (w msb lsb : Nat) : Nat := (w >>> lsb) % 2 ^ (msb + 1 - lsb)

/-- Bit n of a number. -/
def bit (w n : Nat) : Bool := w.testBit n

/-- A Boolean as a register bit. -/
def b2n (b : Bool) : Nat := if b then 1 else 0

/-- A number with field [msb:lsb] replaced by v. -/
def setFld (w msb lsb v : Nat) : Nat :=
  w - fld w msb lsb * 2 ^ lsb + (v % 2 ^ (msb + 1 - lsb)) * 2 ^ lsb

/-- Bits msb down to lsb set: the mask of a field. -/
def maskOf (msb lsb : Nat) : Nat := (2 ^ (msb + 1 - lsb) - 1) * 2 ^ lsb

/-- The two's complement value of an n-bit number. -/
def sgn (n w : Nat) : Int := if 2 ^ n ≤ 2 * (w % 2 ^ n) then (w % 2 ^ n : Nat) - (2 ^ n : Nat) else (w % 2 ^ n : Nat)

/-- An integer as an n-bit two's complement number. -/
def unsgn (n : Nat) (i : Int) : Nat := (i % (2 ^ n : Nat)).toNat

/-- An integer clamped to [lo, hi]. -/
def clampI (lo hi i : Int) : Int := max lo (min hi i)

/-- A counter that saturates at `top` after adding k. -/
def satAdd (top c k : Nat) : Nat := min top (c + k)

/-- The little-endian number a list of bytes spells (R3). -/
def leNat : List Byte → Nat
  | [] => 0
  | b :: bs => b.toNat + 256 * leNat bs

/-- A number as n little-endian bytes (R3). -/
def leBytes : Nat → Nat → List Byte
  | 0, _ => []
  | n + 1, v => BitVec.ofNat 8 v :: leBytes n (v / 256)

/-- `n` zero bytes (R5: reserved bytes of a produced structure are 0). -/
def zeros (n : Nat) : List Byte := List.replicate n 0

/-- The unsigned field of `size` bytes at byte offset `off` of a structure. -/
def rd (bs : List Byte) (off size : Nat) : Nat := leNat ((bs.drop off).take size)

/-- A structure padded with zero bytes, or cut, to n bytes. -/
def padTo (n : Nat) (bs : List Byte) : List Byte := (bs ++ zeros (n - bs.length)).take n

/-- Spans of `State.now`, newest first: where each begins, and where it ended unless it still runs. -/
abbrev Spans := List (Nat × Option Nat)
/-- A span begins at t, unless one runs. -/
def Spans.start (xs : Spans) (t : Nat) : Spans :=
  match xs with
  | (_, none) :: _ => xs
  | _ => (t, none) :: xs
/-- The span that runs ends at t. -/
def Spans.stop (xs : Spans) (t : Nat) : Spans :=
  match xs with
  | (a, none) :: rest => (a, some t) :: rest
  | _ => xs
/-- Some instant from lo/g to hi/g lies in a span. -/
def Spans.meet (xs : Spans) (g : Nat) (lo hi : Int) : Bool :=
  xs.any (fun r => (r.1 * g : Int) ≤ hi && (match r.2 with | none => true | some e => decide (lo < e * g)))

/-- Element i of a bank, with the bank's default outside it. -/
def nth {α : Type} [Inhabited α] (xs : List α) (i : Nat) : α := xs.getD i default

/-- The bank with element i changed by f; unchanged where i is outside it. -/
def upd {α : Type} (xs : List α) (i : Nat) (f : α → α) : List α := xs.modify i f

/-- The numbers i < n with p i, in ascending order. -/
def allBelow (n : Nat) (p : Nat → Bool) : List Nat := (List.range n).filter p

/-- The bit mask whose bit i is p i, for i < n. -/
def maskBelow (n : Nat) (p : Nat → Bool) : Nat :=
  (allBelow n p).foldl (fun m i => m + 2 ^ i) 0

/-- Ceiling division. -/
def cdiv (a b : Nat) : Nat := (a + b - 1) / b

/-- The bytes `data` cut into words of four, each a register value. -/
def wordsOf : List Byte → List Nat
  | a :: b :: c :: d :: rest => leNat [a, b, c, d] :: wordsOf rest
  | _ => []

/-- One step of the reflected CRC-32 shift register of R111. -/
def crcBit (c : Nat) : Nat := if c % 2 = 1 then (c / 2) ^^^ 0xEDB88320 else c / 2

/-- One byte through the reflected CRC-32 of R111. -/
def crcByte (c : Nat) (b : Byte) : Nat :=
  crcBit (crcBit (crcBit (crcBit (crcBit (crcBit (crcBit (crcBit (c ^^^ b.toNat))))))))

/-- CRC-32 of a string of bytes with the parameters of R111. -/
def crc32 (bs : List Byte) : Nat := (bs.foldl crcByte 0xFFFFFFFF) ^^^ 0xFFFFFFFF

end Sys2Proof.Machine
end

