-- ==== Sys2Proof/Machine/AcqState.lean ====
section
/-! DEFINITION. State of the front ends, converters (chapter 3, R46 to R72) and background calibration
(chapter 4, R73 to R103). SH fields lie in `State.cfg`; here stand the status registers and the state the chapters name. -/

namespace Sys2Proof.Machine

/-- One quad's status (R72 QUAD_STAT, R75). POWERED is PDq's state and GANG_ACTIVE the active GANG. -/
structure Quad where
  /-- QUAD_STAT.READY. -/
  ready : Bool := false
  /-- Foreground calibration runs (R75). -/
  fgRun : Bool := false
  /-- READY rose and the start of R62 has not yet happened. -/
  startDue : Bool := false
  deriving DecidableEq, Repr, Inhabited

/-- One converter sample (R50): its code and whether it was overrange. -/
structure Conv where
  code : Int := 0
  ovr : Bool := false
  deriving DecidableEq, Repr, Inhabited

/-- The converter samples of a channel that the model has been given, in one unbroken run (R55, R58): the number of the first, counting
the lead's samples from `State.now` 0, and the samples. -/
structure Stream where
  first : Nat := 0
  xs : List Conv := []
  deriving DecidableEq, Repr, Inhabited

/-- The number after the last sample of a stream. -/
def Stream.end_ (x : Stream) : Nat := x.first + x.xs.length

/-- One channel's converter and its status (R72). -/
structure AcqCh where
  /-- `State.now` from which the channel's present, or last, stream of samples runs (R52, R59, R67). -/
  liveAt : Nat := 0
  /-- `State.now` at which it stopped; none while the converters behind the channel run. -/
  deadAt : Option Nat := some 0
  stream : Stream := {}
  /-- `State.now` at which the present counting period began (R72). -/
  period : Nat := 0
  ovrCnt : Nat := 0
  /-- To what time, in Ts/4, the latest overrange sample makes those after it overrange (R53); and what one before the present stream does
  to the samples of it; 0 where there has been none. -/
  ovrLast : Nat := 0
  ovrEnd : Nat := 0
  /-- End of the converter invalid window in `State.now` time (R62, R63); 0 when none has opened. -/
  invEnd : Nat := 0
  /-- Every window opened, from and to, newest first (R62, R74). -/
  windows : List (Nat × Nat) := []
  /-- When SKEW_MEASURE selected the calibration network (R95, R97). -/
  calSpans : Spans := []
  max : Int := -2048
  min : Int := 2047
  clampCnt : Nat := 0
  /-- The clamp is engaged (R53). -/
  clamp : Bool := false
  deriving DecidableEq, Repr, Inhabited

/-- CAL_STATE (R85, R103). -/
inductive CalSt where
  | cold | acquiring | tracking | starved | frozen
  deriving DecidableEq, Repr, Inhabited

/-- The register code of a CAL_STATE (R103). -/
def CalSt.code : CalSt → Nat
  | .cold => 0 | .acquiring => 1 | .tracking => 2 | .starved => 3 | .frozen => 4

/-- The analogue trims of one sub-converter: skew, and gain and offset for each of the four ranges (R77). -/
structure Trims where
  skew : Int := 0
  gain : List Int := [0, 0, 0, 0]
  offset : List Int := [0, 0, 0, 0]
  deriving DecidableEq, Repr, Inhabited

/-- One position of a correction set (R320): the trims it assumes, the sub-converter that serves it, and the estimates it corrects:
offset in LSB, gain in ppm, skew in fs, bandwidth (R76, R84). -/
structure SetPos where
  trimSkew : Int := 0
  trimGain : Int := 0
  trimOffset : Int := 0
  sub : Nat := 0
  off : Rat := 0
  gain : Rat := 0
  skew : Rat := 0
  bw : Rat := 0
  deriving DecidableEq, Repr, Inhabited

/-- A correction set (R79, R320). The manual gives no rule that computes its coefficients: they are the free values
`Config.calCoef key …` of the set's own key. -/
structure CorrSet where
  unit : Nat := 32
  epoch : Nat := 0
  p : Nat := 64
  gang : Nat := 0
  range : Nat := 3
  dither : Bool := false
  nInt : Nat := 0
  nFrac : Nat := 0
  spareMap : Nat := 0
  skewCorr : Int := 0
  appliedTb : BitVec 64 := 0
  pos : List SetPos := []
  key : Nat := 0
  deriving DecidableEq, Repr, Inhabited

/-- A spare sub-converter, SC64 or SC65 (R91 to R94, R103). -/
structure Spare where
  pos : Nat := 0
  inService : Bool := false
  retired : Bool := false
  shadow : Nat := 0
  /-- Counted windows since it began to shadow its position (R91). -/
  windows : Nat := 0
  /-- The failing position it is assigned to (R93). -/
  assigned : Option Nat := none
  /-- Consecutive counted windows of disagreement (R92). -/
  disagree : Nat := 0
  /-- Consecutive counted windows with the skew, gain or offset trim at the end of its range, and with an offset, gain or skew residual
  outside the outlier limit (R92). -/
  exhaust : List Nat := [0, 0, 0]
  outlier : List Nat := [0, 0, 0]
  deriving DecidableEq, Repr, Inhabited

/-- One channel's calibration (R73 to R103). What concerns a position of the channel's own converter, 0 to 63, is held here whatever its
GANG; the estimates and the figures of a pooled path are the lead's, by position of its interleave. -/
structure CalCh where
  st : CalSt := .cold
  ditherOn : Bool := false
  /-- `State.now` at which dither last turned on. -/
  ditherAt : Nat := 0
  /-- AUTO's latches (R89): the channel entered STARVED with dither off; 64 clean windows passed with dither on. -/
  ditherAsk : Bool := false
  ditherDone : Bool := false
  /-- End of the last estimator window evaluated, in `State.now`. -/
  winDone : Nat := 0
  starveCause : Nat := 0
  limitHold : Bool := false
  ready : Option CorrSet := none
  active : Option CorrSet := none
  /-- The system region's copy of the active set and of SKEW_CORR (R102). -/
  copySet : Option CorrSet := none
  copyCorr : Int := 0
  /-- The last 16 applied sets, newest first (R83). -/
  history : List CorrSet := []
  noSpare : Bool := false
  /-- Figures of R84, as their registers code them. -/
  spurEst : Int := 0
  skewResid : Nat := 0xFFFF
  offsetResid : Nat := 0xFFFF
  gainResid : Nat := 0xFFFF
  /-- SKEW_CORR in fs. -/
  skewCorr : Int := 0
  sc64 : Spare := {}
  sc65 : Spare := { shadow := 32 }
  /-- Positions of the converter judged failing and not yet substituted, with R92's criterion (R93). -/
  failing : List (Nat × Nat) := []
  /-- Positions of the converter for which NONE_LEFT was posted (R94). -/
  noneLeft : List Nat := []
  /-- When a position of the converter was failing and not yet substituted, or NONE_LEFT stood (R93, POS_FAIL). -/
  failSpans : Spans := []
  /-- Sub-converters powered down and recorded in PD49 (R93, R18). -/
  failedSubs : List Nat := []
  winCnt : Nat := 0
  starveCnt : Nat := 0
  lastTemp : Int := 0
  /-- Estimates in physical units per position: offset in LSB, gain in ppm, skew in fs, bandwidth (R76). -/
  estOff : List Rat := List.replicate 64 0
  estGain : List Rat := List.replicate 64 0
  estSkew : List Rat := List.replicate 64 0
  estBw : List Rat := List.replicate 64 0
  /-- Trims of SC00 to SC65 (R77). -/
  trims : List Trims := List.replicate 66 {}
  /-- Runs of consecutive counted windows (R74, R85, R89). -/
  runGood : Nat := 0
  runBad : Nat := 0
  runStarved : Nat := 0
  runNotStarved : Nat := 0
  runClean : Nat := 0
  /-- Counted windows since a set was last prepared (R79). -/
  sincePrep : Nat := 0
  /-- Counted windows gathered toward a dithered update (R88, 16 per update). -/
  ditherWin : Nat := 0
  /-- Run of each trim at the end of its range (R92), by 3 × position + 0 skew, 1 gain, 2 offset. -/
  runExhaust : List (Nat × Nat) := []
  /-- Run of each residual as an outlier (R92), by 3 × position + 0 offset, 1 gain, 2 skew. -/
  runOutlier : List (Nat × Nat) := []
  /-- Positions of the converter suspect in a recent window, with the counted windows left of 64 (R91). -/
  suspect : List (Nat × Nat) := []
  deriving DecidableEq, Repr, Inhabited

/-- A SKEW_MEASURE in progress (R95): its queue, journal index, mask, pulse count and start. -/
structure SkewRun where
  /-- Journal index of the command; none for the one start-up runs. -/
  cmd : Option Nat := none
  mask : Nat := 0
  n : Nat := 65536
  buf : Nat := 0
  len : Nat := 0
  tag : Option Nat := none
  deriving DecidableEq, Repr, Inhabited

/-- Acquisition front end and calibration as a whole. -/
structure Acq where
  quads : List Quad := List.replicate 32 {}
  ch : List AcqCh := List.replicate 128 {}
  cal : List CalCh := List.replicate 128 {}
  /-- Calibration epoch number of units 0 to 32, kept in PD49 (R81). -/
  unitEpoch : List Nat := List.replicate 33 0
  /-- The SKEW_MEASURE that runs (R95). -/
  skew : Option SkewRun := none
  deriving DecidableEq, Repr, Inhabited

end Sys2Proof.Machine
end

