-- ==== Sys2Proof/Machine/BuoyState.lean ====
section
/-! DEFINITION. State of the Buoy housekeeping monitor (chapter 17, R415 to R423). -/

namespace Sys2Proof.Machine

/-- BUOY_STAT.STATE (R423). -/
inductive BuoySt where
  | idle | scanning | urgent
  deriving DecidableEq, Repr, Inhabited

/-- The register code of Buoy's state (R423). -/
def BuoySt.code : BuoySt → Nat
  | .idle => 0 | .scanning => 1 | .urgent => 2

/-- One input's last result (R417, R423). -/
structure BuoyRes where
  code : Nat := 0
  stale : Bool := true
  value : Int := 0
  tb : BitVec 64 := 0
  /-- `State.now` of the conversion, for the 100 ms age of R407. -/
  at_ : Nat := 0
  deriving DecidableEq, Repr, Inhabited

/-- One input's window (R415, R423). -/
structure BuoyLim where
  lo : Nat := 0
  hi : Nat := 4095
  en : Bool := false
  fixed : Bool := false
  deriving DecidableEq, Repr, Inhabited

/-- Nominal voltage of PDd's rail in mV (R424). -/
def nominalMv (d : Nat) : Nat :=
  if d < 32 then 1200 else if d < 37 then 750 else if d < 42 then 1100 else if d = 42 then 1200
  else if d = 43 then 750 else if d = 44 then 900 else if d = 45 then 750 else if d = 46 then 900
  else if d = 47 then 1800 else if d = 48 then 1200 else 750

/-- The window an input has at reset (R415, R423): nominal ±5 % for a rail, codes 304 to 3,024 for the die, open and off otherwise. -/
def buoyLimReset (i : Nat) : BuoyLim :=
  if i < 50 then
    { lo := cdiv (nominalMv i * 95 * 4096) (2400 * 100), hi := nominalMv i * 105 * 4096 / (2400 * 100), en := true, fixed := true }
  else if i = 50 then { lo := 304, hi := 3024, en := true, fixed := true }
  else {}

/-- Buoy (R415 to R423). -/
structure Buoy where
  run : Bool := false
  lowPower : Bool := false
  period : Nat := 1000
  /-- Scan mask; bits 0 to 50 always read 1. -/
  mask : Nat := 0x7FFFFFFFFFFFF
  st : BuoySt := .idle
  input : Nat := 0
  scanCnt : Nat := 0
  urgDrop : Nat := 0
  scanLate : Nat := 0
  limNow : Nat := 0
  limLatch : Nat := 0
  res : List BuoyRes := List.replicate 64 {}
  /-- The last result a scan gave each input, which a dropped urgent request returns (R324). -/
  scanned : List BuoyRes := List.replicate 64 {}
  lim : List BuoyLim := (List.range 64).map buoyLimReset
  /-- Consecutive judged conversions of each input that were out of window, to 2 (R419, R420). -/
  outRun : List Nat := List.replicate 64 0
  /-- Inputs the running scan has still to convert, the one converting first. -/
  scan : List Nat := []
  /-- The windows of the running scan: new settings apply from the next one (R323). -/
  scanLim : List BuoyLim := []
  /-- Inputs of urgent requests waiting or converting, with the journal index of the command, in order of arrival (R418). -/
  urgents : List (Nat × Nat) := []
  /-- A scan fell due while one ran or during an urgent conversion (R417, R418). -/
  due : Bool := false
  /-- Codes of the last completed 1 s gates of inputs 62 and 63 (R416). -/
  gates : List Nat := [2048, 2048]
  deriving DecidableEq, Repr, Inhabited

end Sys2Proof.Machine
end

