-- ==== Sys2Proof/Machine/ClkState.lean ====
section
/-! DEFINITION. State of Spring (chapter 9, R212 to R236), of the timebase and of Beacon (chapter 10, R237 to R264).
The OUT registers are SH fields of unit 35 in `State.cfg`. -/

namespace Sys2Proof.Machine

/-- SPR_STAT.STATE (R236). -/
inductive SprSt where
  | start | locked | holdover | relock | slewing | freeRun | lpLock
  deriving DecidableEq, Repr, Inhabited

/-- The register code of Spring's state (R236). -/
def SprSt.code : SprSt → Nat
  | .start => 0 | .locked => 1 | .holdover => 2 | .relock => 3 | .slewing => 4 | .freeRun => 5 | .lpLock => 6

/-- Where a relock stands (R220). -/
inductive Relock where
  /-- Step 1: the feedback is buffered, the gate has not come. -/
  | buffered
  /-- Step 2 to step 4: the core runs from the oscillator. -/
  | gated
  deriving DecidableEq, Repr, Inhabited

/-- What is done with a returning reference's jump (R226). -/
inductive ReturnAct where
  | slew | step
  deriving DecidableEq, Repr, Inhabited

/-- One CLK_OUT's divider (R232, R233): the phase it had at `State.now` `since`, from which it walks to the active PHASE. -/
structure ClkOut where
  phase : Nat := 0
  since : Nat := 0
  /-- A gate holds it low, its walk standing where `phase` says. -/
  gated : Bool := false
  deriving DecidableEq, Repr, Inhabited

/-- Spring (R212 to R236). -/
structure Spring where
  st : SprSt := .start
  refOk : Bool := false
  lock : Bool := false
  /-- Consecutive good, and bad, phase comparisons (R216). -/
  good : Nat := 0
  bad : Nat := 0
  outHeld : Bool := false
  fallback : Bool := false
  jumpValid : Bool := false
  fmt : Nat := 3
  rdiv : Nat := 1
  retMode : Nat := 0
  nInt : Nat := 2048
  nFrac : Nat := 0
  lockWin : Nat := 2
  lockCnt : Nat := 1024
  slewRate : Nat := 10
  /-- REF_FREQ.REF_HZ, the measured frequency. -/
  refHz : Nat := 0
  /-- The nominal reference frequency (R310, R437). -/
  nomHz : Nat := 10000000
  /-- JUMP in ps. -/
  jump : Int := 0
  jumpTb : BitVec 64 := 0
  /-- Offset still to slew, in fs; SLEW_REMAIN reads it in ps. -/
  slewFs : Int := 0
  /-- `State.now` at which `slewFs` was left to slew. -/
  slewAt : Nat := 0
  /-- What is slewed holds a remainder of Beacon's, which runs at 5,000 ps/s while no group is armed or streaming (R253). -/
  slewFast : Bool := false
  /-- When Spring was in SLEWING (R226, TB_SLEW). -/
  slewSpans : Spans := []
  /-- What REF_RETURN_MODE or RETURN_ACTION does with the jump, in ps, once the loop has locked in frequency (R226): pending until then. -/
  ret : Option (ReturnAct × Int) := none
  /-- PHASE_OFS in fs. -/
  phaseOfs : Int := 0
  refLostCnt : Nat := 0
  relockCnt : Nat := 0
  relock : Option Relock := none
  /-- Settings buffered at step 1 of a relock and loaded at its gate: FORMAT, RDIV, N_INT, N_FRAC, nominal reference in Hz. -/
  next : Option (Nat × Nat × Nat × Nat × Nat) := none
  holdOutputs : Bool := false
  /-- The TAG that the LOCK event at the release carries (R220, R269). -/
  relockTag : Option Nat := none
  /-- TB_COUNT at the gate. -/
  gateTb : BitVec 64 := 0
  /-- `State.now` of the last loss of lock (R218). -/
  lossAt : Option Nat := none
  /-- A FATAL loss of lock keeps Spring in holdover until a command or reset (R218). -/
  stuck : Bool := false
  outs : List ClkOut := List.replicate 4 {}
  deriving DecidableEq, Repr, Inhabited

/-- The timebase, PPS, PTM and quiet windows (R237 to R244, R260, R263). -/
structure Tb where
  count : BitVec 64 := 0
  /-- TB_COUNT counts: a first lock or FREE_RUN has come (R237), and no relock holds the core at its gate (R223). -/
  counting : Bool := false
  epoch : Nat := 0
  latchHi : BitVec 32 := 0
  latchEpoch : Nat := 0
  /-- Each armed or streaming group's old numbering: what to add to TB_COUNT (R226), and its epoch. -/
  grpOfs : List Int := List.replicate 32 0
  grpEpoch : List (Option Nat) := List.replicate 32 none
  /-- `State.now` of the steps made, newest first, the last two (R258). -/
  steps : List Nat := []
  /-- TB_COUNT less `State.now` before each step and gate, newest first, and the `State.now` until which it stood (R55, R58). -/
  bases : List (Nat × Int) := []
  ppsEn : Bool := false
  ppsEdge : Nat := 0
  ppsTol : Nat := 1024
  ppsFrac : Nat := 0
  ppsInt : Nat := 0
  ppsLast : BitVec 64 := 0
  ppsLastFrac : Nat := 0
  ppsEdges : Nat := 0
  ppsBad : Nat := 0
  /-- The last stamp in Ts/4,096 of `State.now` (R240). -/
  ppsPrev : Option Nat := none
  anchorTb : BitVec 64 := 0
  anchorFrac : Nat := 0
  anchorValid : Bool := false
  fromBeacon : Bool := false
  anchorSec : BitVec 64 := 0
  outMode : Nat := 0
  outPol : Nat := 0
  outQuiet : Bool := true
  outWidth : Nat := 64000
  /-- PPS_OUT_DLY in Ts/64. -/
  outDly : Int := 0
  outPeriod : Nat := 0
  /-- The last PPS_OUT pulse started: its instant in Ts/64 of `State.now`, so that no step of TB_COUNT moves it. -/
  ppsPulse : Option Int := none
  /-- `State.now` of the last wrap of TB_COUNT (R237). -/
  wrapAt : Option Nat := none
  ptmEn : Bool := false
  ptmInt : Nat := 1000
  ptmNs : BitVec 64 := 0
  ptmTb : BitVec 64 := 0
  ptmFrac : Nat := 0
  ptmSeq : Nat := 0
  qwOrigin : BitVec 64 := 0
  qwPeriod : Nat := 0
  qwLen : Nat := 0
  deriving DecidableEq, Repr, Inhabited

/-- LINK of a Beacon port (R246). -/
inductive BcnLink where
  | disabled | training | up | down | failed | rateMismatch
  deriving DecidableEq, Repr, Inhabited

/-- The register code of a LINK state (R264). -/
def BcnLink.code : BcnLink → Nat
  | .disabled => 0 | .training => 1 | .up => 2 | .down => 3 | .failed => 4 | .rateMismatch => 5

/-- One event on a shared line (R257): time in Ts/4,096 of TB_COUNT in the unit's numbering. -/
structure BevEvent where
  line : Nat := 0
  seq : Nat := 0
  origin : Nat := 0
  t : Int := 0
  /-- `State.now` from which Beacon has it (R155, step 5). -/
  from_ : Nat := 0
  deriving DecidableEq, Repr, Inhabited

/-- An anchor carried in a payload (R245, R255). -/
structure Anchor where
  tb : BitVec 64 := 0
  frac : Nat := 0
  valid : Bool := false
  sec : BitVec 64 := 0
  deriving DecidableEq, Repr, Inhabited

/-- One Beacon port (R245 to R249, R264). -/
structure BcnPort where
  en : Bool := false
  quiet : Bool := true
  qwGate : Bool := false
  /-- ASYM in fs. -/
  asym : Int := 0
  link : BcnLink := .disabled
  peerMv : Bool := false
  peerHops : Nat := 15
  peerId : Nat := 0
  peerUpHere : Bool := false
  gated : Bool := false
  /-- RTT, ARR and D_IN in Ts/65,536. -/
  rtt : Int := 0
  arr : Int := 0
  dIn : Int := 0
  crcErr : Nat := 0
  lossCnt : Nat := 0
  /-- Out of service until a cold reset, kept in PD49 (R18, R246). -/
  failed : Bool := false
  /-- Consecutive valid frames while TRAINING. -/
  validRun : Nat := 0
  /-- Sum and number of arrival differences in the running measurement (R248). -/
  accSum : Int := 0
  accN : Nat := 0
  /-- Sequence number, result and frames of the last own measurement. -/
  measSeq : Nat := 0
  measN : Nat := 0
  /-- Slot boundary (FRAME_TB) of the last ARR, for R247; none before the first. -/
  arrTb : Option Nat := none
  overRun : Nat := 0
  underRun : Nat := 0
  /-- Words of the payload message being received, by PAY_SEQ. -/
  rxWords : List Nat := List.replicate 16 0
  rxMask : Nat := 0
  /-- The full FRAME_TB of the last valid frame (R248). -/
  rxTb : Nat := 0
  /-- The peer's last complete result: sequence number and ARR. -/
  peerSeq : Nat := 0
  peerArr : Int := 0
  /-- The pair of results that now stand here has been solved (R248). -/
  solved : Bool := false
  theta : Int := 0
  /-- Whole Ts by which this unit's count has stepped since θ was measured. -/
  moved : Int := 0
  /-- The timebase has been corrected for θ. -/
  used : Bool := false
  peerAnchor : Anchor := {}
  /-- Next PAY_SEQ to send, and the payload message being sent. -/
  txSeq : Nat := 0
  txWords : List Nat := List.replicate 16 0
  /-- Events waiting to be sent, at most 64 (R258). -/
  queue : List BevEvent := []
  /-- The last frame sent, 32 characters. -/
  txFrame : List Byte := []
  /-- A quiet window has just ended: the next slot sends K28.5 only (R260). -/
  resync : Bool := false
  deriving DecidableEq, Repr, Inhabited

/-- A BEACON_MEASURE in progress (R250). -/
structure BcnMeas where
  cmd : Nat := 0
  mask : Nat := 0
  left : Nat := 0
  action : Nat := 0
  shift : Nat := 18
  /-- Sequence number of each port's last result before the command: its measurement is a later one. -/
  before : List Nat := []
  deriving DecidableEq, Repr, Inhabited

/-- Beacon (R245 to R264). -/
structure Bcn where
  unitId : Nat := 0
  role : Nat := 0
  track : Bool := false
  deadband : Nat := 50
  measShift : Nat := 18
  aligned : Bool := false
  upPort : Option Nat := none
  hops : Nat := 15
  /-- θ in Ts/65,536. -/
  theta : Int := 0
  meas : Option BcnMeas := none
  evDrop : Nat := 0
  evDup : Nat := 0
  ports : List BcnPort := List.replicate 4 {}
  /-- SEQ of the next event this unit originates on each line (R257). -/
  evSeq : List Nat := List.replicate 8 0
  /-- Events accepted, newest first: (origin, line, seq); R258 looks at the last 16 from one origin. -/
  seen : List (Nat × Nat × Nat) := []
  deriving DecidableEq, Repr, Inhabited

end Sys2Proof.Machine
end

