-- ==== Sys2Proof/Machine/CpState.lean ====
section
/-! DEFINITION. State of the command processor: queues, event queues, journal copies, micro-threads,
the sequencer pair and the recovery report (chapter 11, R265 to R297, R498), and of the commit units (chapter 2, R20 to R45). -/

namespace Sys2Proof.Machine

/-- A command packet of 64 bytes (R266). -/
abbrev Packet := List Byte

/-- Q_STAT.STATE (R297). -/
inductive QState where
  | disabled | running | suspended | overrun | fetchError | draining
  deriving DecidableEq, Repr, Inhabited

/-- The register code of a queue state (R297). -/
def QState.code : QState → Nat
  | .disabled => 0 | .running => 1 | .suspended => 2 | .overrun => 3 | .fetchError => 4 | .draining => 5

/-- The state of a journal entry (R281). -/
inductive JState where
  | accepted | executing | done | requeued | notExecuted
  deriving DecidableEq, Repr, Inhabited

/-- What an entry's final completion waits for (R34, R288, R302). -/
inductive Wait where
  /-- COMMIT APPLY: generation `gen` of unit `unit` must apply (R34). -/
  | commit (unit gen : Nat)
  /-- SET_SAMPLE_RATE or a relocking SET_REFERENCE: the gate of R220. -/
  | gate
  /-- FORCE_TRIGGER with WAIT 1 on group g (R149). -/
  | force (g : Nat)
  /-- STOP or ABORT of group g: the acquisition must have ended (R316). -/
  | ending (g : Nat)
  /-- SKEW_MEASURE (R95). -/
  | skew
  /-- BEACON_MEASURE (R250). -/
  | beacon
  /-- TIME_SET MAP: the next PPS_IN edge (R241). -/
  | timeMap
  /-- TIME_SET LOAD: the next PPS_IN edge (R241). -/
  | timeLoad
  /-- POWER_STATE: the transition must end, or (started false) a running transition must end first (R434). -/
  | power (started : Bool)
  /-- DOMAIN_CONTROL: every ramp must have ended (R326). -/
  | domains
  /-- DEBUG_RESPONSE at level 2: the erase of the key store (R459). -/
  | erase
  /-- MONITOR_READ URGENT: the conversion of this input (R418). -/
  | convert (input : Nat)
  /-- Any other block's reply. -/
  | block
  deriving DecidableEq, Repr, Inhabited

/-- One journal entry (R281). -/
structure JEntry where
  /-- Global journal index (R269). -/
  idx : Nat := 0
  queue : Nat := 0
  pkt : Packet := []
  st : JState := .accepted
  /-- Final status (R330). -/
  status : Nat := 0
  /-- RESULT, 16 bytes. -/
  result : List Byte := zeros 16
  /-- What the command, once begun, still waits for. -/
  wait : Option Wait := none
  /-- The final completion may be posted. -/
  finalDue : Bool := false
  /-- The final completion has been posted (R281). -/
  posted : Bool := false
  /-- CQ count the final completion was posted at. -/
  cqPos : BitVec 32 := 0
  /-- RESULT of an ACCEPTED interim completion still to be posted (R268). -/
  acceptedDue : Option (List Byte) := none
  /-- A ROLLED_BACK_REQUEUED interim completion is still to be posted (R291). -/
  rollbackDue : Bool := false
  /-- Completions of this entry carry RECOVERED (R291). -/
  recovered : Bool := false
  /-- Accepted with a SEQUENCE not greater than LAST_SEQ (R270). -/
  dup : Bool := false
  /-- The command has locked a thread once (R287). -/
  lockedOnce : Bool := false
  /-- The outcome a recovery gave the entry: 0 DONE, 1 ROLLED_BACK_REQUEUED, 2 NOT_EXECUTED_RESET (R293). -/
  outcome : Option Nat := none
  deriving DecidableEq, Repr, Inhabited

/-- One submission and completion queue pair (R265, R266, R297). -/
structure Queue where
  sqBase : BitVec 64 := 0
  cqBase : BitVec 64 := 0
  /-- Q_CTL.ENABLE. -/
  enable : Bool := false
  /-- Q_CTL.CQ_IRQ_EN. -/
  irqEn : Bool := false
  /-- log2 of the SQ entries. -/
  sqSize : Nat := 4
  /-- log2 of the CQ entries. -/
  cqSize : Nat := 5
  sqTail : BitVec 32 := 0
  cqHead : BitVec 32 := 0
  sqHead : BitVec 32 := 0
  cqTail : BitVec 32 := 0
  st : QState := .disabled
  lastSeq : BitVec 64 := 0
  overrunCnt : Nat := 0
  dupCnt : Nat := 0
  /-- The newest doorbell write held while the queue is SUSPENDED (R295). -/
  heldTail : Option (BitVec 32) := none
  /-- The refused tails of QUEUE_OVERRUN completions still to be posted, oldest first (R271). -/
  overrunDue : List (BitVec 32) := []
  deriving DecidableEq, Repr, Inhabited

/-- One event record, before PHASE and the EQ number are put on it (R277). -/
structure Event where
  type : Nat := 0
  source : Nat := 0
  /-- TAG under EVENT_ON_DONE. -/
  tag : Option Nat := none
  /-- Events of its EQ were lost just before it: LOST_BEFORE (R277). -/
  lostBefore : Bool := false
  seq : Nat := 0
  tb : BitVec 64 := 0
  payload : List Byte := zeros 16
  deriving DecidableEq, Repr, Inhabited

/-- EQ_STAT.STATE (R297). -/
inductive EqSt where
  | disabled | running | suspended
  deriving DecidableEq, Repr, Inhabited

/-- The register code of an EQ state (R297). -/
def EqSt.code : EqSt → Nat
  | .disabled => 0 | .running => 1 | .suspended => 2

/-- One event queue (R265, R280, R297). -/
structure EventQueue where
  base : BitVec 64 := 0
  enable : Bool := false
  irqEn : Bool := false
  size : Nat := 5
  head : BitVec 32 := 0
  tail : BitVec 32 := 0
  st : EqSt := .disabled
  /-- EQ_LOST. -/
  lost : Nat := 0
  /-- Events held, oldest first, at most 256. -/
  held : List Event := []
  /-- Events raised for this EQ so far, modulo 65,536; kept in PD49 (R280). -/
  evtSeq : Nat := 0
  /-- Events were lost since the last one the EQ took: the next it takes carries LOST_BEFORE (R277, R280). -/
  lostFlag : Bool := false
  deriving DecidableEq, Repr, Inhabited

/-- What a trap frame saves (R286): micro-PC, 16 scratch registers, four loop counters and flags. -/
structure Frame where
  microPc : Nat := 0
  scratch : List Nat := List.replicate 16 0
  loops : List Nat := List.replicate 4 0
  flags : Nat := 0
  deriving DecidableEq, Repr, Inhabited

/-- THREAD_STAT code of a thread (R297). -/
inductive ThreadSt where
  | idle | run | wait | trap1 | trap2 | locked
  deriving DecidableEq, Repr, Inhabited

/-- The register code of a thread state (R297). -/
def ThreadSt.code : ThreadSt → Nat
  | .idle => 0 | .run => 1 | .wait => 2 | .trap1 => 3 | .trap2 => 4 | .locked => 5

/-- One micro-thread with its two trap frames (R284, R286, R287). -/
structure Thread where
  st : ThreadSt := .idle
  /-- The live micro-state. -/
  cur : Frame := default
  /-- Saved frames, newest first, at most two. -/
  frames : List Frame := []
  deriving DecidableEq, Repr, Inhabited

/-- CP_STAT.STATE (R297). -/
inductive CpSt where
  | stopped | verifying | recovering | running | restarting
  deriving DecidableEq, Repr, Inhabited

/-- The register code of the command processor's state (R297). -/
def CpSt.code : CpSt → Nat
  | .stopped => 0 | .verifying => 1 | .recovering => 2 | .running => 3 | .restarting => 4

/-- One entry of a recovery report (R293). -/
structure RepEntry where
  seq : Nat := 0
  queue : Nat := 0
  opcode : Nat := 0
  tag : Nat := 0
  outcome : Nat := 0
  posted : Bool := false
  owed : Bool := false
  status : Nat := 0
  idx : Nat := 0
  deriving DecidableEq, Repr, Inhabited

/-- The report of the most recent recovery (R293). -/
structure Report where
  num : Nat := 0
  kind : Nat := 0
  tb : BitVec 64 := 0
  unitMask : Nat := 0
  entries : List RepEntry := []
  deriving DecidableEq, Repr, Inhabited

/-- A control-store image in force (R303, R452). -/
structure Image where
  version : Nat := 0
  words : Nat := 0
  /-- 0 boot flash, 1 host. -/
  source : Nat := 0
  /-- SHA-384 digest, 48 bytes. -/
  digest : List Byte := []
  deriving DecidableEq, Repr, Inhabited

/-- A pending engine restart: what started it (R289). -/
structure Restart where
  /-- RECOVERY KIND to report: 4 ENGINE, 5 DOMAIN. -/
  kind : Nat := 4
  domain : Nat := 0xFF
  /-- A lockstep mismatch started it (R285). -/
  mismatch : Bool := false
  deriving DecidableEq, Repr, Inhabited

/-- One group whose acquisition or stream a reset ended: group, ACQ_NUM, FREED, KEPT (R292). -/
structure EndedGroup where
  g : Nat := 0
  acqNum : Nat := 0
  freed : Nat := 0
  kept : Nat := 0
  deriving DecidableEq, Repr, Inhabited

/-- What a cold or warm reset leaves for the recovery of its start-up (R44, R292). -/
structure PendRec where
  kind : Nat := 0
  unitMask : Nat := 0
  eventsLost : Nat := 0
  ended : List EndedGroup := []
  deriving DecidableEq, Repr, Inhabited

/-- The command processor (R265 to R297). -/
structure Cp where
  st : CpSt := .stopped
  /-- CP_STAT.LOCKSTEP. -/
  lockstep : Bool := false
  /-- Sequencer A, B retired (R285), kept in PD49. -/
  retiredA : Bool := false
  retiredB : Bool := false
  queues : List Queue := List.replicate 8 {}
  eqs : List EventQueue := List.replicate 4 {}
  /-- Journal copy A, in PD49, in index order (R281). -/
  jrnA : List JEntry := []
  /-- Journal copy B, in PD43, in index order (R281). -/
  jrnB : List JEntry := []
  /-- JRNL_STAT.COPY_A_OK, COPY_B_OK. -/
  aOk : Bool := true
  bOk : Bool := true
  /-- A failed copy A stays failed until a cold reset (R282). -/
  aFailed : Bool := false
  /-- Copy B failed by a domain restart of PD43 and is owed its rebuild (R282). -/
  bRebuild : Bool := false
  /-- The next global journal index, a 64-bit count kept in PD49 (R269). -/
  nextIdx : Nat := 0
  mismatchCnt : Nat := 0
  trapLockCnt : Nat := 0
  restartCnt : Nat := 0
  /-- TB_COUNT of recent lockstep mismatches, newest first, at most 16 (R285). -/
  mismatchTb : List (BitVec 64) := []
  /-- RECOVERY_NUM, kept in PD49 (R292). -/
  recNum : Nat := 0
  lastKind : Nat := 0
  report : Option Report := none
  threads : List Thread := List.replicate 8 {}
  abortCnt : Nat := 0
  /-- An engine restart in progress, its self-test not done (R285, R289). -/
  restart : Option Restart := none
  /-- The control-store image in force (R303); none before one is verified. -/
  image : Option Image := none
  /-- The account of a cold or warm reset, until its recovery at start-up (R292). -/
  pendRec : Option PendRec := some {}
  /-- Register changes that the list of each thread holds in the change log of both journal copies (R288). -/
  changeLog : List Nat := List.replicate 8 0
  /-- Registers with the unit each was staged into, the newest staging first (R23, R26): a register whose channel moves may be staged in
  several units. -/
  stageOrd : List (Nat × Nat) := []
  /-- Units with the number of a generation made pending, the newest first (R23). -/
  genOrd : List (Nat × Nat) := []
  deriving DecidableEq, Repr, Inhabited

/-- One pending generation of a commit unit: its number and the registers it holds (R22, R32). -/
structure Gen where
  num : Nat := 0
  regs : List (Nat × Word) := []
  deriving DecidableEq, Repr, Inhabited

/-- One commit unit (R22, R42). The active set is the part of `State.cfg` the unit holds. -/
structure CUnit where
  /-- The staging set: (register key, value), keys rising. -/
  staged : List (Nat × Word) := []
  /-- Pending generations, oldest first, at most two. -/
  pend : List Gen := []
  /-- SCOPE_NEXT.NEXT_GEN. -/
  nextGen : Nat := 1
  /-- SCOPE_STAT.LAST_GEN. -/
  lastGen : Nat := 0
  /-- SCOPE_BND. -/
  bnd : BitVec 64 := 0
  /-- SCOPE_STAT.DISCARDED. -/
  discarded : Bool := false
  deriving DecidableEq, Repr, Inhabited

end Sys2Proof.Machine
end

