-- ==== Sys2Proof/Machine/DmaState.lean ====
section
/-! DEFINITION. State of the DMA engine (chapter 13, R331 to R356, R499). -/

namespace Sys2Proof.Machine

/-- DMA_STAT.STATE (R331). -/
inductive DmaSt where
  | idle | running | waiting | paused | stopping | done | halted
  deriving DecidableEq, Repr, Inhabited

/-- The register code of a channel state (R331). -/
def DmaSt.code : DmaSt → Nat
  | .idle => 0 | .running => 1 | .waiting => 2 | .paused => 3 | .stopping => 4 | .done => 5 | .halted => 6

/-- A DMA address space (R333). -/
inductive DSpace where
  | host | rsv | pond
  deriving DecidableEq, Repr, Inhabited

/-- One MOVE that is not complete (R335 to R338). -/
structure DmaMove where
  index : Nat := 0
  srcSp : DSpace := .host
  dstSp : DSpace := .host
  src : Nat := 0
  dst : Nat := 0
  len : Nat := 0
  /-- Bytes whose read bursts have issued. -/
  issued : Nat := 0
  /-- Bytes whose write bursts have issued. -/
  done : Nat := 0
  /-- Read bursts that wait for their response, oldest first: offset in the MOVE, and length. -/
  bursts : List (Nat × Nat) := []
  /-- Bytes read and not yet written, in ascending address order (R337). -/
  buf : List Byte := []
  /-- Reservoir write bursts that wait for their response, oldest first: offset in the MOVE, and length. -/
  writes : List (Nat × Nat) := []
  /-- The blocks move in descending address order (R338). -/
  desc : Bool := false
  deriving DecidableEq, Repr, Inhabited

/-- One prefetched instruction (R332): its index, and its 16 bytes, or none when the fetch failed. -/
structure Pre where
  index : Nat := 0
  bytes : Option (List Byte) := none
  deriving DecidableEq, Repr, Inhabited

/-- A loop counter LC (R339). -/
structure LoopCtr where
  active : Bool := false
  left : Nat := 0
  owner : Nat := 0
  deriving DecidableEq, Repr, Inhabited

/-- One DMA channel (R331, R356). -/
structure DmaCh where
  st : DmaSt := .idle
  waitKind : Nat := 0
  enable : Bool := false
  pause : Bool := false
  prio : Nat := 0
  progSpace : Nat := 0
  progBase : BitVec 64 := 0
  pc : Nat := 0
  irqStat : Nat := 0
  irqMask : Nat := 0
  credit : Nat := 0
  maxRd : Nat := 64
  failCode : Nat := 0
  failDir : Nat := 0
  failIndex : Nat := 0
  failAddr : BitVec 64 := 0
  moves : List DmaMove := []
  /-- A LOAD MEM that waits for its data: destination register, space, address (R343). -/
  load : Option (Nat × DSpace × Nat) := none
  /-- Its read has issued. -/
  loadSent : Bool := false
  /-- A FENCE waits for the completion of its flushing read (R344), and that read has issued. -/
  flush : Bool := false
  flushSent : Bool := false
  pre : List Pre := []
  /-- Instruction fetches that wait for their response, oldest first; false for one whose instruction has been discarded. -/
  fetches : List (Nat × Bool) := []
  g : List (BitVec 64) := List.replicate 8 0
  lc : List LoopCtr := List.replicate 4 {}
  bytes : BitVec 64 := 0
  halfCnt : Nat := 0
  fullCnt : Nat := 0
  relCnt : Nat := 0
  /-- A MOVE of non-zero length has completed since the start or the last SIGNAL RELEASE (R342). -/
  movedOk : Bool := false
  /-- The last host address written since the start (R344). -/
  lastHostWr : Option Nat := none
  /-- An error stopped the channel; it enters HALTED once RESP_LEFT is 0 (R349). -/
  halting : Bool := false
  /-- Requests of a stopped or ended channel whose responses are still due and are discarded, and whether each reads host memory. -/
  drain : List (DmaReq × Bool) := []
  /-- ENABLE 1 was written while STOPPING (R331). -/
  held : Bool := false
  /-- An FLR stops the channel: its registers return to reset values once it has stopped (R355). -/
  rst : Bool := false
  /-- MOVE_LEFT, RESP_LEFT, BYTES, PC, G and the loop counters read undefined values (R351). -/
  undef : Bool := false
  /-- The channel was WAITING when it entered PAUSED. -/
  wasWaiting : Bool := false
  /-- Consecutive grants that passed the channel over while it had a burst ready (R346). -/
  passed : Nat := 0
  deriving DecidableEq, Repr, Inhabited

/-- The DMA engine (R331 to R356). -/
structure Dma where
  ch : List DmaCh := List.replicate 32 {}
  /-- The channel granted last at each priority (R346). -/
  lastGrant : List Nat := [31, 31, 31, 31]
  deriving DecidableEq, Repr, Inhabited

end Sys2Proof.Machine
end

