-- ==== Sys2Proof/Machine/KprState.lean ====
section
/-! DEFINITION. State of Keeper (chapter 19, R451 to R469). -/

namespace Sys2Proof.Machine

/-- The alarm state (R464). -/
inductive Alarm where
  | clear | lockdown | zeroised
  deriving DecidableEq, Repr, Inhabited

/-- The register code of the alarm state (R469). -/
def Alarm.code : Alarm → Nat
  | .clear => 0 | .lockdown => 1 | .zeroised => 2

/-- The debug state (R459). -/
inductive Debug where
  | closed | openUser | openVendor
  deriving DecidableEq, Repr, Inhabited

/-- The register code of the debug state (R469). -/
def Debug.code : Debug → Nat
  | .closed => 0 | .openUser => 1 | .openVendor => 2

/-- An erase of the key store in progress (R459, R465): the erase of a level-2 unlock, with the journal index of its
DEBUG_RESPONSE (a reset clears `vendor` and leaves the erase), or that of ZEROISE, with the source of the raise that began it. -/
structure Erase where
  vendor : Bool := false
  cmd : Option Nat := none
  src : Option Nat := none
  deriving DecidableEq, Repr, Inhabited

/-- A loaded key-store slot (R454): its content, and its public part for KEY_ID. -/
structure KeySlot where
  key : List Byte := []
  pub : List Byte := []
  deriving DecidableEq, Repr, Inhabited

/-- One source record (R464, R469). -/
structure SrcRec where
  count : Nat := 0
  level : Nat := 0
  firstTb : BitVec 64 := 0
  lastTb : BitVec 64 := 0
  deriving DecidableEq, Repr, Inhabited

/-- A debug challenge in force (R328, R457): nonce, level. -/
structure Challenge where
  nonce : List Byte := []
  level : Nat := 1
  deriving DecidableEq, Repr, Inhabited

/-- IMG_STAT.STATE (R469). -/
inductive ImgSt where
  | idle | loading | verifying | verified | waitHost | failed
  deriving DecidableEq, Repr, Inhabited

/-- The register code of an image state (R469). -/
def ImgSt.code : ImgSt → Nat
  | .idle => 0 | .loading => 1 | .verifying => 2 | .verified => 3 | .waitHost => 4 | .failed => 5

/-- Keeper (R451 to R469). -/
structure Kpr where
  alarm : Alarm := .clear
  dbg : Debug := .closed
  erase : Option Erase := none
  /-- LID_SENSE after the filter. -/
  lid : Bool := false
  fails : Nat := 0
  slots : List (Option KeySlot) := [none, none, none]
  policyLo : BitVec 32 := 0x00004110
  policyHi : BitVec 32 := 0
  unlockLimit : Nat := 8
  /-- ALARM_POLICY has executed since the reset: the LK fields are locked (R6, R328). -/
  locked : Bool := false
  srcNow : Nat := 0
  srcSeen : Nat := 0
  src : List SrcRec := List.replicate 8 {}
  img : ImgSt := .idle
  failReason : Nat := 0
  /-- 0 boot flash, 1 host. -/
  imgSource : Nat := 0
  svn : Nat := 0
  /-- How far SVN_FLOOR has been raised above the floor fused in production: the floor is the larger of the two (R453). -/
  svnRaised : Nat := 0
  /-- The image in force has ADVANCE_SVN (R453). -/
  advance : Bool := false
  imgAddr : BitVec 64 := 0
  imgLen : Nat := 0
  challenge : Option Challenge := none
  /-- COUNT of the source of an erase that a cold reset interrupted, for the event owed at its end (R465). -/
  eraseEvent : Option Nat := none
  /-- The instruction in force in the TAP (R461); IDCODE after a TAP reset, as IEEE 1149.1 gives. -/
  tap : TapIns := .idcode
  /-- Pins are taken from their functions by EXTEST, CLAMP or HIGHZ (R461). -/
  tapPins : Bool := false
  /-- OPEN_VENDOR debug has halted the sequencer pair (R459). -/
  tapHalt : Bool := false
  deriving DecidableEq, Repr, Inhabited

end Sys2Proof.Machine
end

