-- ==== Sys2Proof/Machine/LampState.lean ====
section
/-! DEFINITION. State of the lamp matrix (chapter 16, R404 to R414). LAMP fields and the frame memory are SH fields of
unit 34 in `State.cfg`. -/

namespace Sys2Proof.Machine

/-- LAMP_STAT.STATE (R414). -/
inductive LampSt where
  | stopped | rows | diag | waitSync | waitQw | qwStarved
  deriving DecidableEq, Repr, Inhabited

/-- The register code of the matrix's state (R414). -/
def LampSt.code : LampSt → Nat
  | .stopped => 0 | .rows => 1 | .diag => 2 | .waitSync => 3 | .waitQw => 4 | .qwStarved => 5

/-- A sink's finding, or the status of a lamp colour (R410, R412). -/
inductive LampDiag where
  | notVerified | ok | opened | short
  deriving DecidableEq, Repr, Inhabited

/-- The register code of a status (R414). -/
def LampDiag.code : LampDiag → Nat
  | .notVerified => 0 | .ok => 1 | .opened => 2 | .short => 3

/-- A finding's code in a slot's report (R410). -/
def LampDiag.ofCode (n : Nat) : LampDiag := if n = 1 then .ok else if n = 2 then .opened else if n = 3 then .short else .notVerified

/-- Diagnosis of one lamp colour (R410). -/
structure LampColour where
  status : LampDiag := .notVerified
  /-- The last finding, when the one before it disagreed. -/
  last : LampDiag := .notVerified
  /-- Frames since a finding, to 512. -/
  idle : Nat := 0
  /-- A finding was made in the present frame. -/
  found : Bool := false
  deriving DecidableEq, Repr, Inhabited

/-- The lamp matrix (R404 to R414). -/
structure Lamp where
  st : LampSt := .stopped
  tcStale : Bool := false
  row : Nat := 0
  /-- Row slots of the running frame already driven, 0 to 16; none between frames and in a diagnostic sub-frame. -/
  slot : Option Nat := none
  /-- The running frame's diagnostic sub-frame slots already driven; none when it has run or none is due. -/
  diagSlot : Option Nat := none
  frameNum : Nat := 0
  syncEarly : Nat := 0
  qwWait : Nat := 0
  /-- I_eff of red, green and blue (R407). -/
  iEff : List Nat := [0, 0, 0]
  /-- The last gain of each colour, held while the reading is stale (R407). -/
  gain : List Rat := [128, 128, 128]
  diagCnt : Nat := 0
  /-- The 384 lamp colours, lamp n colour c at 3 × n + c. -/
  colour : List LampColour := List.replicate 384 {}
  /-- QW_STARVED has been posted for the present starvation (R409). -/
  starved : Bool := false
  /-- The present slot's beginning (the model's time) and its ticks; none while the matrix is dark. -/
  begun : Option (Nat × Nat) := none
  /-- On-times in ticks of the 24 columns in the present slot. -/
  drive : List Nat := List.replicate 24 0
  /-- Current codes of the 24 columns in that slot (R407, R411). -/
  current : List Nat := List.replicate 24 0
  deriving DecidableEq, Repr, Inhabited

/-- Every row is released and every sink is off (R406, R409). -/
def Lamp.dark (l : Lamp) : Lamp := { l with begun := none, drive := List.replicate 24 0, current := List.replicate 24 0 }

end Sys2Proof.Machine
end

