-- ==== Sys2Proof/Machine/LtnState.lean ====
section
/-! DEFINITION. State of Lantern and the DisplayPort outputs (chapter 15, R383 to R403).
LTN configuration fields are SH fields of unit 33 in `State.cfg`; frame buffers lie in Reservoir (R388). -/

namespace Sys2Proof.Machine

/-- LINK of an output (R403). -/
inductive DpSt where
  | off | waitHpd | training | up | lost | noBw | failed
  deriving DecidableEq, Repr, Inhabited

/-- The register code of a link state (R403). -/
def DpSt.code : DpSt → Nat
  | .off => 0 | .waitHpd => 1 | .training => 2 | .up => 3 | .lost => 4 | .noBw => 5 | .failed => 6

/-- One DisplayPort output (R397 to R399). -/
structure Dp where
  st : DpSt := .off
  /-- log2 of the lanes. -/
  lanes : Nat := 0
  rate : Nat := 0
  hpd : Bool := false
  lossCnt : Nat := 0
  /-- Out of service until a cold reset, kept in PD49 (R18, R399). -/
  failed : Bool := false
  deriving DecidableEq, Repr, Inhabited

/-- Lantern (R383 to R403). -/
structure Ltn where
  scanning : Bool := false
  passRun : Bool := false
  passReady : Bool := false
  /-- SCAN_SRC names a buffer and the pass completed into the other one has not been shown (R392, R393). -/
  passHeld : Bool := false
  shownBuf : Nat := 0
  /-- The present frame is blank. -/
  blank : Bool := false
  /-- The next frame is blank whatever is ready: a timing change (R387), a Spring release (R400). -/
  blankNext : Bool := false
  /-- AUTO: frames stay blank until the first pass under the generation in force completes (R393). -/
  needPass : Bool := false
  urgent : Bool := false
  /-- First line of the part of the frame that runs: 0, or V_ACTIVE in blanking. -/
  line : Nat := 0
  /-- Lines of the blanking that runs, at the timing of its own frame (R387). -/
  vLines : Nat := 0
  frameNum : Nat := 0
  /-- The frame is in vertical blanking: line V_ACTIVE has begun (R383). -/
  vblank : Bool := false
  shownGen : Nat := 0
  /-- Generation the running or completed pass is drawn under. -/
  passGen : Nat := 0
  /-- Buffer the running or completed pass draws into. -/
  passBuf : Nat := 1
  /-- SCAN_SRC names a buffer and a pass is owed for a generation that applied while one ran (R392). -/
  owed : Bool := false
  /-- Generation of the last pass completed into each buffer, 0 if none. -/
  bufGen : List Nat := [0, 0]
  dp : List Dp := [{}, {}]
  underrunCnt : Nat := 0
  passCnt : Nat := 0
  passDiscard : Nat := 0
  repeatCnt : Nat := 0
  traceSkip : Nat := 0
  urgentCnt : Nat := 0
  /-- Active lines of the present frame that ran empty, with the first pixel of each that is BORDER_RGB (R396). -/
  short : List (Nat × Nat) := []
  /-- The relock of R220 holds scan-out (R400). -/
  stopped : Bool := false
  deriving DecidableEq, Repr, Inhabited

end Sys2Proof.Machine
end

