-- ==== Sys2Proof/Machine/RegMap.lean ====
section
/-! DEFINITION. The SH registers of the map (R24, R72, R103, R129, R159, R191, R211, R236, R403, R414): for each active-view
address its reset value, its fields with their ranges, the commit unit it belongs to (R20, R21) and the domain its block lies in. -/

namespace Sys2Proof.Machine

/-- One field: bits [hi:lo], and the values it may hold. -/
structure Fd where
  hi : Nat := 31
  lo : Nat := 0
  mn : Nat := 0
  mx : Nat := 0xFFFFFFFF
  deriving DecidableEq, Repr, Inhabited

/-- How R20 and R21 place a register in a commit unit. -/
inductive Owner where
  /-- A field of channel n: the unit of its group. -/
  | chan (n : Nat)
  /-- A field of quad q: the unit of CH(4q). -/
  | quad (q : Nat)
  /-- A field of a fixed unit. -/
  | unit (u : Nat)
  deriving DecidableEq, Repr, Inhabited

/-- One SH register. -/
structure ShReg where
  reset : Nat := 0
  fields : List Fd := []
  owner : Owner := .unit 32
  /-- The domain of its block; 49 is always on. -/
  dom : Nat := 49
  deriving DecidableEq, Repr, Inhabited

/-- A field that may hold every value of its bits. -/
def full (hi lo : Nat) : Fd := { hi := hi, lo := lo, mn := 0, mx := 2 ^ (hi + 1 - lo) - 1 }

/-- A field with a range. -/
def rng (hi lo mn mx : Nat) : Fd := { hi := hi, lo := lo, mn := mn, mx := mx }

/-- Addresses of the windows (R24, R366). -/
def outCfgA (k : Nat) : Nat := 0x2100 + 0x20 * k
def outPhaseA (k : Nat) : Nat := 0x2104 + 0x20 * k
def lampA (off : Nat) : Nat := 0xF000 + off
def lampDutyA (n : Nat) : Nat := 0xF400 + 4 * n
def ltnA (off : Nat) : Nat := 0x18000 + off
def quadCfgA (q : Nat) : Nat := 0x20000 + 0x1000 * q
def chCfgA (n : Nat) : Nat := 0x20100 + 0x1000 * (n / 4) + 0x40 * (n % 4)
def chOffsetA (n : Nat) : Nat := 0x20104 + 0x1000 * (n / 4) + 0x40 * (n % 4)
def trgA (g off : Nat) : Nat := 0x40000 + 0x800 * g + off
def memberA (n : Nat) : Nat := 0x40380 + 0x800 * (n / 4) + 4 * (n % 4)
def weirA (n off : Nat) : Nat := 0x50000 + 0x200 * n + off
def recA (g off : Nat) : Nat := 0x61000 + 0x40 * g + off
def pondA (n off : Nat) : Nat := 0x70000 + 0x40 * n + off
def sndA (g off : Nat) : Nat := 0x72000 + 0x200 * g + off
/-- Coefficient k of bank b of CHn: not mapped in BAR0 (R111), so at addresses past it. -/
def coefA (n b k : Nat) : Nat := 0x1000000 + (2 * n + b) * 1536 + k

/-- Registers of one SPRING window offset (R236). -/
def springSh (off : Nat) : Option ShReg :=
  if 0x100 ≤ off ∧ off < 0x180 then
    if off % 0x20 = 0 then
      some { reset := 2048 * 16 + 8, fields := [full 0 0, full 2 1, full 3 3, full 19 4], owner := .unit 35, dom := 42 }
    else if off % 0x20 = 4 then
      some { reset := 0, fields := [full 22 0, full 23 23], owner := .unit 35, dom := 42 }
    else none
  else none

/-- Registers of one LAMP window offset (R414). -/
def lampSh (off : Nat) : Option ShReg :=
  let r (reset : Nat) (fs : List Fd) : Option ShReg := some { reset := reset, fields := fs, owner := .unit 34, dom := 47 }
  if off = 0 then
    r (0x0A0000 + 0x500 + 4 + 16 + 32)
      [full 0 0, full 1 1, full 2 2, full 3 3, full 4 4, full 5 5, full 7 6, rng 15 8 1 255, rng 23 16 1 255]
  else if off = 4 then r 0x808080 [full 7 0, full 15 8, full 23 16]
  else if off = 8 then r 0 [full 15 0]
  else if 0x40 ≤ off ∧ off < 0x58 ∧ off % 4 = 0 then r 0x80808080 [full 31 0]
  else if 0x400 ≤ off ∧ off < 0x600 ∧ off % 4 = 0 then r 0 [full 7 0, full 15 8, full 23 16]
  else none

/-- Registers of one LTN window offset (R403). -/
def ltnSh (off : Nat) : Option ShReg :=
  let r (reset : Nat) (fs : List Fd) : Option ShReg := some { reset := reset, fields := fs, owner := .unit 33, dom := 46 }
  if off = 0 then
    r (2 * 64 + 3 * 256 + 50 * 1024)
      [full 0 0, full 1 1, rng 3 2 0 2, full 4 4, full 5 5, rng 7 6 0 2, full 9 8, rng 16 10 0 100]
  else if off = 4 then r 148500 [rng 19 0 25000 600000]
  else if off = 8 then r (1920 + 88 * 65536) [rng 12 0 64 4096, rng 25 16 8 1023]
  else if off = 0xC then r (44 + 148 * 65536) [rng 9 0 8 1023, rng 25 16 16 1023, full 26 26]
  else if off = 0x10 then r (1080 + 4 * 65536) [rng 12 0 64 4096, rng 23 16 1 255]
  else if off = 0x14 then r (5 + 36 * 65536) [rng 7 0 1 255, rng 23 16 1 255, full 24 24]
  else if off = 0x18 then r 0 [rng 28 12 0 114688]
  else if off = 0x1C then r (8192 * 4096) [rng 28 12 0 114688]
  else if off = 0x20 ∨ off = 0x24 then r 0 [full 23 0]
  else if off = 0x28 then r 0x404040 [full 23 0]
  else if off = 0x2C then r (10 + 8 * 256) [full 4 0, full 12 8]
  else if 0x100 ≤ off ∧ off < 0x200 then
    if off % 16 = 0 then r 0 [full 0 0, full 7 1, full 9 8, full 13 10, full 14 14]
    else if off % 16 = 4 then r 0 [rng 12 0 0 4095, rng 28 16 0 4095]
    else if off % 16 = 8 then r (1024 + 256 * 65536) [rng 12 0 1 4096, rng 28 16 1 4096]
    else none
  else if 0x1000 ≤ off ∧ off < 0x2000 ∧ off % 4 = 0 then r ((off % 0x400) / 4 * 0x10101) [full 23 0]
  else none

/-- Registers of one ACQ window offset of quad q (R72). -/
def acqSh (q off : Nat) : Option ShReg :=
  if off = 0 then some { reset := 0, fields := [rng 1 0 0 2], owner := .quad q, dom := q }
  else if 0x100 ≤ off ∧ off < 0x200 then
    let n := 4 * q + (off - 0x100) / 0x40
    if off % 0x40 = 0 then
      some { reset := 7, fields := [full 0 0, full 2 1, rng 4 3 0 2, full 14 5], owner := .chan n, dom := q }
    else if off % 0x40 = 4 then some { reset := 0, fields := [full 15 0], owner := .chan n, dom := q }
    else none
  else none

/-- Group registers of one TRG window (R159); `off` below 0xA0. -/
def trgGroupSh (g off : Nat) : Option ShReg :=
  let r (reset : Nat) (fs : List Fd) : Option ShReg := some { reset := reset, fields := fs, owner := .unit g, dom := 32 + g / 8 }
  if off = 0 then r 0 [full 1 0, rng 3 2 0 1, full 4 4, full 5 5, full 21 6]
  else if off = 4 then r 0 [full 31 0]
  else if off = 8 then r 0 [full 8 0]
  else if off = 0xC ∨ off = 0x10 ∨ off = 0x14 then r 0 [full 31 0]
  else if off = 0x18 then r 1 [rng 15 0 1 65535]
  else if off = 0x1C then r 0 [full 0 0, full 3 1]
  else if 0x20 ≤ off ∧ off < 0x60 then
    if off % 16 = 0 then r 0xFF [full 7 0]
    else if off % 16 = 4 then r 0 [full 15 0, full 31 16]
    else if off % 16 = 8 then r 32 [full 11 0]
    else none
  else if off = 0x60 ∨ off = 0x80 then
    r 0 [rng 2 0 0 6, full 4 3, full 6 5, rng 9 7 0 4, rng 11 10 0 2, rng 13 12 0 2, rng 15 14 0 2, rng 17 16 0 2, full 18 18]
  else if off = 0x64 ∨ off = 0x6C ∨ off = 0x84 ∨ off = 0x8C then r 0 [full 31 0]
  else if off = 0x68 ∨ off = 0x70 ∨ off = 0x88 ∨ off = 0x90 then r 0 [full 11 0]
  else none

/-- Registers of one TRG window offset of index q (R159). -/
def trgSh (q off : Nat) : Option ShReg :=
  let io (reset : Nat) (fs : List Fd) : Option ShReg := some { reset := reset, fields := fs, owner := .unit 32, dom := 43 }
  if off < 0xA0 then trgGroupSh q off
  else if 0x380 ≤ off ∧ off < 0x390 ∧ off % 4 = 0 then
    some { reset := 0, fields := [full 4 0, full 5 5], owner := .chan (4 * q + (off - 0x380) / 4), dom := 32 + q / 8 }
  else if q ≠ 0 then none
  else if off = 0x390 ∨ off = 0x394 then io (20 * 2048) [full 0 0, full 10 1, full 16 11]
  else if off = 0x398 ∨ off = 0x39C then io 0 [full 11 0, full 27 12]
  else if off = 0x3A0 ∨ off = 0x3A4 then
    io (8 + 16 * 2048) [full 0 0, full 1 1, full 2 2, full 3 3, full 8 4, full 10 9, rng 22 11 1 4095]
  else if off = 0x3A8 ∨ off = 0x3AC then io 1024 [rng 15 0 600 65535]
  else none

/-- Registers of one WEIR window offset of CHn (R103, R129). -/
def weirSh (n off : Nat) : Option ShReg :=
  let r (reset : Nat) (fs : List Fd) : Option ShReg := some { reset := reset, fields := fs, owner := .chan n, dom := 32 + n / 32 }
  if off = 0 then r 0 [full 0 0, full 1 1, full 3 2, full 4 4, full 15 8, rng 28 16 0 4096]
  else if off = 4 then r 1 [rng 16 0 1 65536]
  else if off = 8 then r 0 [full 11 0, full 27 12]
  else if off = 0xC ∨ off = 0x10 then r 1 [rng 10 0 1 1536, full 19 16]
  else if off = 0x14 ∨ off = 0x18 then r 0 [full 31 0]
  else if off = 0xC0 then r (16 * 8 + 64 * 2048 + 0x80000) [full 0 0, rng 2 1 0 2, rng 10 3 4 255, rng 18 11 1 255, full 19 19]
  else none

/-- Registers of one group's offset in the RSV window (R191). -/
def rsvSh (g off : Nat) : Option ShReg :=
  let r (reset : Nat) (fs : List Fd) : Option ShReg := some { reset := reset, fields := fs, owner := .unit g }
  if off = 0 then r (31 * 8) [rng 2 0 0 4, full 7 3]
  else if off = 4 then r 0 [rng 31 0 0 1476395008]
  else if off = 8 then r 8 [rng 31 0 0 1476395008]
  else if off = 0xC then r 1 [rng 31 0 1 16777216]
  else if off = 0x10 then r 0x08000000 [full 31 0]
  else if off = 0x14 then r 0 [full 31 0]
  else if off = 0x18 then r 0 [rng 31 0 0 16777215]
  else if off = 0x1C then r 0 [rng 31 0 0 16777216]
  else if off = 0x20 then r 16 [rng 31 0 16 1476395008]
  else none

/-- Channel registers of the POND window (R211). -/
def pondSh (n off : Nat) : Option ShReg :=
  let r (reset : Nat) (fs : List Fd) : Option ShReg := some { reset := reset, fields := fs, owner := .chan n, dom := 36 }
  if off = 0 then r 0x10000 [full 1 0, full 2 2, full 11 4, full 15 12, rng 31 16 1 65535]
  else if off = 4 then r (0x8000 + 8 * 65536) [full 15 0, full 19 16]
  else if off = 8 then r 128 [rng 15 0 1 65535]
  else if off = 0xC then r 0 [full 31 0]
  else none

/-- Group registers of the SOUNDING window (R211). -/
def sndSh (g off : Nat) : Option ShReg :=
  let r (reset : Nat) (fs : List Fd) : Option ShReg := some { reset := reset, fields := fs, owner := .unit g, dom := 32 + g / 8 }
  if off = 0 then r 1 [rng 20 0 1 1048576]
  else if off = 4 then r (32 * 65536) [rng 4 0 0 16, full 27 16]
  else if 0x100 ≤ off then
    if off % 16 = 0 then r 0x100000 [rng 3 0 0 13, full 10 4, full 17 11, rng 19 18 0 2, rng 30 20 1 2047]
    else if off % 16 = 4 then r 0 [full 15 0, full 31 16]
    else if off % 16 = 8 then r 0 [full 31 0]
    else r 0 [full 19 0]
  else none

/-- The SH register at an active-view address, if there is one. -/
def shReg (a : Nat) : Option ShReg :=
  if a % 4 ≠ 0 then none
  else if 0x2000 ≤ a ∧ a < 0x2800 then springSh (a - 0x2000)
  else if 0xF000 ≤ a ∧ a < 0xF800 then lampSh (a - 0xF000)
  else if 0x18000 ≤ a ∧ a < 0x1C000 then ltnSh (a - 0x18000)
  else if 0x20000 ≤ a ∧ a < 0x40000 then acqSh ((a - 0x20000) / 0x1000) (a % 0x1000)
  else if 0x40000 ≤ a ∧ a < 0x50000 then trgSh ((a - 0x40000) / 0x800) (a % 0x800)
  else if 0x50000 ≤ a ∧ a < 0x60000 then weirSh ((a - 0x50000) / 0x200) (a % 0x200)
  else if 0x61000 ≤ a ∧ a < 0x61800 then rsvSh ((a - 0x61000) / 0x40) (a % 0x40)
  else if 0x70000 ≤ a ∧ a < 0x72000 then pondSh ((a - 0x70000) / 0x40) (a % 0x40)
  else if 0x72000 ≤ a ∧ a < 0x76000 then sndSh ((a - 0x72000) / 0x200) (a % 0x200)
  else none

/-- What a register key reads as while nothing is listed for it: its reset value (R43, R111). -/
def shReset (a : Nat) : Word :=
  if 0x1000000 ≤ a then (if (a - 0x1000000) % 1536 = 0 then 65536 else 0)
  else match shReg a with
    | some r => BitVec.ofNat 32 r.reset
    | none => 0

/-- Bits of a value that no field of the register covers (R27). -/
def reservedBits (fs : List Fd) (v : Nat) : Nat :=
  fs.foldl (fun w f => setFld w f.hi f.lo 0) v

/-- Every field in its range and every reserved bit 0 (R27). -/
def fieldsOk (fs : List Fd) (v : Nat) : Bool :=
  reservedBits fs v == 0 && fs.all (fun f => f.mn ≤ fld v f.hi f.lo && fld v f.hi f.lo ≤ f.mx)

/-- Ranges a register's table gives beyond one field's bounds: H_ACTIVE, SLOT_SRC, EVT_SHIFT, X0, MEAS TYPE (R132, R191, R208, R211, R403). -/
def extraOk (a v : Nat) : Bool :=
  if a = ltnA 8 then fld v 12 0 % 4 == 0
  else if 0x40000 ≤ a ∧ a < 0x50000 ∧ 0x20 ≤ a % 0x800 ∧ a % 0x800 < 0x60 ∧ a % 16 = 0 then
    v < 0x82 || (0x88 ≤ v && v ≤ 0x8F) || v == 0xFF
  else if 0x61000 ≤ a ∧ a < 0x61800 ∧ a % 0x40 = 0 then fld v 7 3 ≤ 24 || fld v 7 3 == 31
  else if 0x70000 ≤ a ∧ a < 0x72000 ∧ a % 0x40 = 0xC then decide (-32768 ≤ sgn 32 v)
  else true

/-- One register value on its own is a legal staged value (R27). -/
def shValueOk (a v : Nat) : Bool :=
  match shReg a with
  | some r => fieldsOk r.fields v && extraOk a v
  | none => false

/-- Where a register's shadow lies (R24). -/
def shadowOfs (a : Nat) : Nat :=
  if a < 0x3000 then 0x800
  else if a < 0x10000 then 0x800
  else if a < 0x20000 then 0x4000
  else if a < 0x40000 then 0x800
  else if a < 0x50000 then 0x400
  else if a < 0x60000 then 0x100
  else 0x8000

/-- Sparse map lookup: an unlisted key reads as the default gives. -/
def sget {α : Type} (d : Nat → α) : List (Nat × α) → Nat → α
  | [], k => d k
  | (j, v) :: r, k => if j = k then v else sget d r k

/-- Sparse map write in canonical form: keys rise, and no entry equals its default. -/
def sput {α : Type} [DecidableEq α] (d : Nat → α) : List (Nat × α) → Nat → α → List (Nat × α)
  | [], k, v => if v = d k then [] else [(k, v)]
  | (j, w) :: r, k, v =>
    if j < k then (j, w) :: sput d r k v
    else if j = k then (if v = d k then r else (k, v) :: r)
    else if v = d k then (j, w) :: r else (k, v) :: (j, w) :: r

/-- The canonical form: keys strictly rising, no entry equal to its default. -/
def swf {α : Type} [DecidableEq α] (d : Nat → α) : List (Nat × α) → Bool
  | [] => true
  | [(k, v)] => v ≠ d k
  | (k, v) :: (j, w) :: r => v ≠ d k && k < j && swf d ((j, w) :: r)

/-- A keyed list write: keys rise, every entry listed. -/
def kput {α : Type} : List (Nat × α) → Nat → α → List (Nat × α)
  | [], k, v => [(k, v)]
  | (j, w) :: r, k, v =>
    if j < k then (j, w) :: kput r k v
    else if j = k then (k, v) :: r
    else (k, v) :: (j, w) :: r

/-- The value a keyed list holds for a key. -/
def kget {α : Type} : List (Nat × α) → Nat → Option α
  | [], _ => none
  | (j, v) :: r, k => if j = k then some v else kget r k

end Sys2Proof.Machine
end

