-- ==== Sys2Proof/Machine/RsvState.lean ====
section
/-! DEFINITION. State of Reservoir, its records and running acquisitions (chapter 7, R160 to R191), and of Pond and Sounding
(chapter 8, R192 to R211). Memory contents are lists of (address, byte) in one canonical form: addresses rising, no zero byte listed,
an unlisted byte reads 0 (R186, R210). -/

namespace Sys2Proof.Machine

/-- Sparse byte memory: addresses strictly rising, no listed byte equal to 0. -/
abbrev Mem := List (Nat × Byte)

/-- STACK_STAT.STATE (R191). -/
inductive StackSt where
  | inService | selfRefresh | rebuilding | failed
  deriving DecidableEq, Repr, Inhabited

/-- The register code of a stack's state (R191). -/
def StackSt.code : StackSt → Nat
  | .inService => 0 | .selfRefresh => 1 | .rebuilding => 2 | .failed => 3

/-- One HBM stack (R188 to R191). -/
structure Stack where
  st : StackSt := .inService
  /-- Spare rows used since the part was made; SPARE_ROWS is the part's figure less these. -/
  rowsUsed : Nat := 0
  ce : Nat := 0
  ue : Nat := 0
  /-- Rows remapped and not yet made permanent (R188). -/
  remapped : List Nat := []
  /-- Corrected errors per row with `State.now` of each, newest first (R188). -/
  rowCe : List (Nat × Nat) := []
  /-- Rows with an uncorrectable error and `State.now` of each (R188). -/
  rowUe : List (Nat × Nat) := []
  deriving DecidableEq, Repr, Inhabited

/-- A segment's, frame's or record's place in the record directory (R167, R184, R319). -/
inductive SegSt where
  /-- Queued for the stacks: filled and not yet complete (R173). -/
  | queued
  | complete
  | lost
  deriving DecidableEq, Repr, Inhabited

/-- One segment, frame or accumulated record that holds its slot. -/
structure Seg where
  num : Nat := 0
  slot : Nat := 0
  st : SegSt := .queued
  degraded : Bool := false
  /-- TB_COUNT and FRAC of its trigger, for SEG_DONE. -/
  trigTb : BitVec 64 := 0
  trigFrac : Nat := 0
  /-- Wholly written since the stack that is being rebuilt returned (R189, R190). -/
  fresh : Bool := false
  deriving DecidableEq, Repr, Inhabited

/-- One acquisition in the record directory. -/
structure AcqRec where
  group : Nat := 0
  acqNum : Nat := 0
  mode : Nat := 0
  rgnBase : Nat := 0
  descBase : Nat := 0
  slots : Nat := 0
  /-- Blocks of one slot, N × M. -/
  slotBlocks : Nat := 0
  /-- RGN_BLOCKS and DESC_SLOTS at ARM (R180). -/
  rgnBlocks : Nat := 0
  descSlots : Nat := 0
  active : Bool := true
  /-- Segments, frames or records complete. -/
  done : Nat := 0
  /-- Unreleased ones, oldest first. -/
  segs : List Seg := []
  /-- A segment of it was DEGRADED or LOST. -/
  anyDegraded : Bool := false
  /-- STREAM: frames dropped before the last one stored (R178, R340): first number, and how many. -/
  gaps : List (Nat × Nat) := []
  deriving DecidableEq, Repr, Inhabited

/-- Why an acquisition ends (R174). -/
inductive EndReason where
  | complete | stop | abort | reset | fault
  deriving DecidableEq, Repr, Inhabited

/-- The payload code of an end reason (R174, R279). -/
def EndReason.code : EndReason → Nat
  | .complete => 0 | .stop => 1 | .abort => 2 | .reset => 3 | .fault => 4

/-- The trigger that opened a segment, record or frame (R148). -/
structure TrigInfo where
  /-- Trigger time in Ts/4,096. -/
  t : Nat := 0
  src : Nat := 0
  held : Nat := 0
  hoMode : Nat := 0
  deriving DecidableEq, Repr, Inhabited

/-- The fields of a descriptor (R181 to R183). -/
structure Desc where
  segNum : Nat := 0
  acqNum : Nat := 0
  group : Nat := 0
  mode : Nat := 0
  calEpoch : Nat := 0
  tbEpoch : Nat := 0
  trig : Option (BitVec 64 × Nat) := none
  trigSrc : Nat := 0
  hoMode : Nat := 0
  sndCount : Nat := 0
  held : Nat := 0
  pre : Nat := 0
  post : Nat := 0
  acc : Nat := 0
  rej : Nat := 0
  startBlk : Nat := 0
  firstTb : BitVec 64 := 0
  firstFrac : Nat := 0
  invCount : Nat := 0
  gapFrames : Nat := 0
  tail : Nat := 0
  mask : Nat := 0
  /-- LOG: t of each trigger, and whether it was accepted. -/
  log : List (Nat × Bool) := []
  /-- Sounding results as 32-bit values. -/
  snd : List Nat := []
  waitFull : Bool := false
  degraded : Bool := false
  slew : Bool := false
  ovr : Bool := false
  final : Bool := false
  logFull : Bool := false
  posFail : Bool := false
  deriving DecidableEq, Repr, Inhabited

/-- A closed accumulated record whose write-out runs (R196): its bank, and its descriptor but for DEGRADED. -/
structure WriteOut where
  num : Nat := 0
  bank : Nat := 0
  desc : Desc := {}
  deriving DecidableEq, Repr, Inhabited

/-- A running acquisition or stream of a group (R171 to R179, R194 to R199). -/
structure Run where
  acqNum : Nat := 0
  mode : Nat := 0
  /-- Channels that produce samples and are members, ascending. -/
  members : List Nat := []
  /-- M and S of R171. -/
  area : Nat := 0
  slots : Nat := 0
  /-- PRE_BLOCKS and POST_BLOCKS of its layout; in STREAM, 0 and FRAME_BLOCKS. -/
  pre : Nat := 0
  post : Nat := 0
  segCount : Nat := 1
  tag : Option Nat := none
  /-- Segment, frame or record now filling or awaited. -/
  seg : Nat := 0
  /-- Samples of the open segment, frame or sweep are stamped from here on, in Ts/4,096 of `State.now`. -/
  openT : Nat := 0
  /-- STREAM: `State.now` of the last frame boundary, at which a pending generation may apply (R35). -/
  bndAt : Option Nat := none
  /-- The boundary that follows the fill or frame has passed, at this `State.now`, and whether a generation applied there (R35, R36). -/
  cut : Option (Nat × Bool) := none
  /-- STOP or ABORT has come after the fill had ended (R174), at this `State.now`: it acts once that segment is stored. -/
  after : Option (EndReason × Nat) := none
  /-- `State.now` at which STOP, ABORT or STREAM_STOP ended capture. -/
  endNow : Nat := 0
  /-- It waited for its slot or bank (R172). -/
  waited : Bool := false
  /-- The trigger accepted for it. -/
  trig : Option TrigInfo := none
  /-- HELD summed over an accumulated record's sweeps, and its accepted triggers. -/
  heldSum : Nat := 0
  accTimes : List Nat := []
  /-- TRIG_TB log entries in time order: (time, accepted) (R183). -/
  log : List (Nat × Bool) := []
  logDropped : Bool := false
  /-- STOP has closed acceptance while a fill completes (R174). -/
  stopping : Bool := false
  /-- No further segment begins; the acquisition ends when its writes have left the queues (R166). -/
  ending : Option EndReason := none
  freed : Nat := 0
  /-- STREAM: the frame now open is dropped, frames dropped before the next stored, the first of them and its TB_COUNT (R178). -/
  dropping : Bool := false
  gapFrames : Nat := 0
  gapFirst : Nat := 0
  gapTb : BitVec 64 := 0
  /-- STREAM_STOP waits for the next frame boundary. -/
  streamStop : Bool := false
  /-- AVERAGE: the dead time after the record's last sweep ends here, in Ts/4,096, and the record closes (R194). -/
  closeAt : Option Nat := none
  /-- AVERAGE: REJECTED_TRIG and the log of the record that the dead time closes, and whether more were due: what is rejected in it counts
  in the next record (R147, R198). -/
  shut : Option (Nat × List (Nat × Bool) × Bool) := none
  /-- AVERAGE: sweeps in the record, and the closed records whose write-out runs. -/
  sweeps : Nat := 0
  writeout : List WriteOut := []
  /-- AVERAGE: the trigger of the record's first sweep (R198). -/
  recTrig : Option TrigInfo := none
  /-- First sweep's stamp of member 0, point 0 (R198). -/
  firstTb : BitVec 64 := 0
  firstFrac : Nat := 0
  /-- Sounding results of the record's sweeps so far (R209): per measurement, sum and count. -/
  sndAcc : List (Int × Nat) := []
  /-- A contributing sample of the record carries POS_FAIL (R182). -/
  posFail : Bool := false
  deriving DecidableEq, Repr, Inhabited

/-- REC_STAT.STATE and counters of one group (R191). -/
structure RsvGrp where
  run : Option Run := none
  /-- ACQ_NUM, kept in PD49. -/
  acqNum : Nat := 0
  segsDone : Nat := 0
  /-- S at the last ARM or STREAM_START. -/
  slots : Nat := 0
  nextSlot : Nat := 0
  dropped : Nat := 0
  waitFullCnt : Nat := 0
  /-- End of the last acquisition: number, stored, freed, reason, for STOP and ABORT results (R316, R317). -/
  lastEnd : Option (Nat × Nat × Nat × Nat) := none
  deriving DecidableEq, Repr, Inhabited

/-- What R340 asks of an acquisition that has ended: every number below `top` that lies in no gap was stored. -/
structure PastAcq where
  group : Nat := 0
  acqNum : Nat := 0
  top : Nat := 0
  gaps : List (Nat × Nat) := []
  deriving DecidableEq, Repr, Inhabited

/-- Reservoir. -/
structure Rsv where
  /-- Usable bytes 0 to 96 GiB − 1. -/
  mem : Mem := []
  stk : List Stack := List.replicate 5 {}
  /-- The stack that faulted first. -/
  missing : Option Nat := none
  second : Option Nat := none
  rebuildRun : Bool := false
  /-- Stripes to rebuild when the rebuild began, and when it began in `State.now`; once it has stopped, the stripes left (R189, R190). -/
  rebuildLeft : Nat := 0
  rebuildAt : Nat := 0
  /-- Number of the rebuild, on which its pace depends. -/
  rebuildKey : Nat := 0
  /-- CAP_HWM (R191). -/
  capHwm : Nat := 0
  secondFault : Bool := false
  initDone : Bool := false
  grp : List RsvGrp := List.replicate 32 {}
  dir : List AcqRec := []
  /-- Acquisitions that have ended, newest first (R340). -/
  past : List PastAcq := []
  /-- Byte ranges (start, length) whose content is undefined: slots that fill, and released slots and descriptors (R172, R184). -/
  undef : List (Nat × Nat) := []
  /-- Fault and repair log of the system region: (stack, row) repairs made permanent. -/
  repairs : List (Nat × Nat) := []
  deriving DecidableEq, Repr, Inhabited

/-- One bank of a member's slices in ACCUM or ENVELOPE (R195, R196): per point the sum, or (lo, hi), and the marks of R197. -/
structure Bank where
  pts : List (Int × Int) := []
  ovr : List Bool := []
  slew : List Bool := []
  deriving DecidableEq, Repr, Inhabited

/-- A sweep of a density map that is to be drawn, or is being drawn (R200 to R203). -/
structure Sweep where
  /-- Decimator origin, in `State.now`, from which the delivered samples are counted; the number of column 0's first; XSTEP. -/
  origin : Nat := 0
  j0 : Int := 0
  step : Nat := 1
  /-- The next column, and the value of the last sample of the column before. -/
  col : Nat := 0
  last : Option Int := none
  begun : Bool := false
  /-- `State.now` at which its acquisition ended: what is sampled from there on is not drawn. -/
  stopAt : Option Nat := none
  deriving DecidableEq, Repr, Inhabited

/-- One channel's Pond slices (R192 to R205, R211). -/
structure PondCh where
  banks : List Bank := [{}, {}]
  banked : Bool := false
  bank : Nat := 0
  writeout : Bool := false
  /-- A clear of the map runs, and `State.now` at which it ends (R203). -/
  clearing : Bool := false
  clearEnd : Nat := 0
  /-- `State.now` at which the last decay pass ends (R203). -/
  decayEnd : Nat := 0
  /-- The slice holds sums or envelopes, whose layout the manual does not give (R204). -/
  stacked : Bool := false
  /-- Sweeps to be drawn, oldest first (R200). -/
  due : List Sweep := []
  /-- Sweeps drawn since the last decay pass began (R203). -/
  sweepsSince : Nat := 0
  densSweeps : Nat := 0
  densSat : Nat := 0
  densSkip : Nat := 0
  densInvCol : Nat := 0
  decayMiss : Nat := 0
  /-- Time (Ts/4,096) after column 1,023 of the last sweep begun (R202). -/
  drawnTo : Nat := 0
  deriving DecidableEq, Repr, Inhabited

/-- One group's Sounding and averaging status (R211). -/
structure SndGrp where
  waitBank : Bool := false
  sndNone : Nat := 0
  sndSat : Nat := 0
  deriving DecidableEq, Repr, Inhabited

/-- Pond and Sounding. -/
structure Pond where
  /-- Density maps: Pond bytes 0 to 64 MiB − 1 (R204). -/
  mem : Mem := []
  ch : List PondCh := List.replicate 128 {}
  grp : List SndGrp := List.replicate 32 {}
  deriving DecidableEq, Repr, Inhabited

end Sys2Proof.Machine
end

