-- ==== Sys2Proof/Machine/SysState.lean ====
section
/-! DEFINITION. State of the always-on part and the host interface: the error log (chapter 20),
power domains, power states and start-up (chapter 18), and the PCI Express interface with the GLB window (chapter 14). -/

namespace Sys2Proof.Machine

/-- One entry of the error log (R471). -/
structure ErrEntry where
  cls : Nat := 0
  escalated : Bool := false
  preempted : Bool := false
  carried : Bool := false
  keeper : Bool := false
  block : Nat := 0
  code : Nat := 0
  inst : Nat := 0
  repeats : Nat := 0
  logSeq : Nat := 0
  firstTb : BitVec 64 := 0
  detail : Nat := 0
  /-- The detections reported so far: none, or REPEAT at the last report (R474). -/
  reported : Option Nat := none
  /-- What was detected since the last report: class of the first detection, highest class, time and DETAIL of the first (R474). -/
  since : Option (Nat × Nat × BitVec 64 × Nat) := none
  deriving DecidableEq, Repr, Inhabited

/-- The error log, kept in PD49 (R471 to R477): 56 general entries and eight Keeper entries. -/
structure ErrLog where
  entries : List (Option ErrEntry) := List.replicate 64 none
  overflow : Nat := 0
  /-- Detections by class. -/
  cnt : List Nat := [0, 0, 0, 0]
  seq : Nat := 0
  deriving DecidableEq, Repr, Inhabited

/-- DOM_INFO.STATE (R450). -/
inductive DomSt where
  | off | ramp | on | heldOff
  deriving DecidableEq, Repr, Inhabited

/-- The register code of a domain's state (R450). -/
def DomSt.code : DomSt → Nat
  | .off => 0 | .ramp => 1 | .on => 2 | .heldOff => 3

/-- One power domain (R424 to R426, R447, R450). -/
structure Dom where
  st : DomSt := .off
  /-- The ramp that runs is upwards. -/
  up : Bool := false
  lowPower : Bool := false
  railFault : Bool := false
  restartCnt : Nat := 0
  /-- CAUSE of the DOMAIN event of the change that runs (R279). -/
  cause : Nat := 2
  /-- The domain is off inside a restart of R447 and is owed its switch-on. -/
  restarting : Bool := false
  /-- `State.now` at which it was last switched off, until 1 ms is known to have passed (R425). -/
  offAt : Option Nat := none
  /-- `State.now` of its restarts since the last cold or warm reset, newest first (R448). -/
  restartAt : List Nat := []
  deriving DecidableEq, Repr, Inhabited

/-- Power states (R13). -/
inductive PowerSt where
  | active | idle | standby | off
  deriving DecidableEq, Repr, Inhabited

/-- The register code of a power state (R450); OFF has no code of its own in PWR_STAT. -/
def PowerSt.code : PowerSt → Nat
  | .active => 0 | .idle => 1 | .standby => 2 | .off => 3

/-- One step of a power-state transition or of a DOMAIN_CONTROL (R326, R428). -/
inductive PStep where
  | on (d : Nat)
  | off (d : Nat)
  /-- PD37 to PD41 switch off together (R187, R428). -/
  | stacksOff
  /-- PD37 to PD41 enter or leave self-refresh. -/
  | selfRefresh (enter : Bool)
  /-- PD42 enters or leaves low-power lock (R230). -/
  | lowLock (enter : Bool)
  /-- Post the completion of the waiting POWER_STATE. -/
  | post
  /-- The control store enters retention. -/
  | retain
  /-- A control store that did not match its digest is loaded and verified again (R430). -/
  | reload
  deriving DecidableEq, Repr, Inhabited

/-- The sequence of switching steps that runs: a power-state transition, a DOMAIN_CONTROL, start-up switching or a domain restart
(R326, R428, R434, R440, R447). -/
structure Trans where
  /-- The state the transition moves to; none for DOMAIN_CONTROL and start-up switching. -/
  target : Option PowerSt := none
  /-- State before the transition. -/
  old : PowerSt := .active
  steps : List PStep := []
  /-- CAUSE of the DOMAIN events of its ramps (R279): 0 DOMAIN_CONTROL, 1 POWER_STATE, 2 start-up, 3 restart, 4 held off. -/
  cause : Nat := 1
  /-- `State.now` when it started. -/
  start : Nat := 0
  /-- Journal index of the POWER_STATE that asked for it. -/
  cmd : Option Nat := none
  deriving DecidableEq, Repr, Inhabited

/-- A host write latched while PD45 is off (R431). -/
structure Latched where
  addr : Nat := 0
  val : BitVec 32 := 0
  deriving DecidableEq, Repr, Inhabited

/-- GLB_STATUS.STARTUP_PHASE (R382, R440). -/
inductive Phase where
  | imageLoad | springLock | hbmTrain | eccInit | fgCal | skewMeas | beaconMeas | done | failed
  deriving DecidableEq, Repr, Inhabited

/-- The register code of a start-up phase (R382). -/
def Phase.code : Phase → Nat
  | .imageLoad => 0 | .springLock => 1 | .hbmTrain => 2 | .eccInit => 3 | .fgCal => 4
  | .skewMeas => 5 | .beaconMeas => 6 | .done => 7 | .failed => 15

/-- How boot flash is read (R436): lines of address and of data, instruction, dummy clocks, address bytes and clock in kHz. -/
structure FlashMode where
  addrLines : Nat
  dataLines : Nat
  instr : Nat
  dummy : Nat
  addrBytes : Nat
  khz : Nat
  deriving DecidableEq, Repr, Inhabited

/-- The boot configuration as start-up holds it (R437, R438). -/
structure BootCfg where
  /-- FLAGS bits 0 to 4. -/
  imageHost : Bool := true
  springValid : Bool := false
  outValid : Bool := false
  beaconValid : Bool := false
  subsysValid : Bool := false
  imageOfs : Nat := 0
  /-- The 256 bytes read. -/
  bytes : List Byte := []
  deriving DecidableEq, Repr, Inhabited

/-- Power, resets and start-up (R424 to R450). -/
structure Pwr where
  st : PowerSt := .active
  /-- Bit d: PDd is powered in ACTIVE. -/
  activeMask : Nat := 2 ^ 50 - 1
  doms : List Dom := List.replicate 50 {}
  trans : Option Trans := none
  wakePend : Bool := false
  latched : List Latched := []
  /-- KIND of the last reset (R446). -/
  lastKind : Nat := 0
  warmCnt : Nat := 0
  doorbellWake : Nat := 0
  eventWake : Nat := 0
  /-- LAST_TIME, in microseconds. -/
  lastTime : Nat := 0
  /-- PHASE_MS of phases 0 to 6. -/
  phaseMs : List Nat := List.replicate 7 0
  phase : Phase := .imageLoad
  /-- The READY pin: true released, false driven low; high-impedance in reset reads as low to software (R443). -/
  ready : Bool := false
  /-- Start-up runs (from the release of both resets to DONE). -/
  starting : Bool := false
  /-- The start-up that runs follows a cold reset or OFF (R435, R440). -/
  coldStart : Bool := true
  /-- Levels of the reset pins. -/
  resetN : Bool := false
  perstN : Bool := false
  /-- VDD_AON is up. -/
  aon : Bool := true
  boot : BootCfg := {}
  /-- The reads of boot flash that the last start-up made, in order: its SFDP tables, and its content in the mode they allow (R436). -/
  flash : List FlashMode := []
  /-- The boot configuration's outputs wait for the first divider boundary after a warm reset's start-up (R235). -/
  outsDue : Bool := false
  /-- The control store is in retention (R428). -/
  retained : Bool := false
  /-- Domain restarts that wait for a transition to end (R449): domain and cause. -/
  restartDue : List (Nat × Nat) := []
  /-- A doorbell or an EQ0 event came while PD45 was switching off (R433). -/
  wakeDue : Bool := false
  deriving DecidableEq, Repr, Inhabited

/-- One MSI-X table entry (R362, R372). -/
structure MsixEntry where
  addr : BitVec 64 := 0
  data : BitVec 32 := 0
  masked : Bool := true
  deriving DecidableEq, Repr, Inhabited

/-- Host-writable fields of configuration space the manual names (R357 to R365, R374, R375). -/
structure PciCfg where
  msixEnable : Bool := false
  funcMask : Bool := false
  pmeEn : Bool := false
  pmeStatus : Bool := false
  d3hot : Bool := false
  extTag : Bool := true
  tag10 : Bool := false
  /-- Max Payload Size and Max Read Request Size in bytes. -/
  mps : Nat := 128
  mrrs : Nat := 512
  /-- Completion timeout in microseconds, 0 when disabled (R363). -/
  cplTimeout : Nat := 50000
  ecrcGen : Bool := false
  ecrcChk : Bool := false
  ptmEn : Bool := false
  busMaster : Bool := false
  memSpace : Bool := false
  bar0 : BitVec 64 := 0
  bar2 : BitVec 64 := 0
  /-- AER masks and severities, at the bit positions of the PCI Express specification and with its defaults (notes/assumptions/57.md,
  PRESUMED); Uncorrectable Internal Error, bit 22, is masked by default (R374). -/
  aerMask : Nat := 0x400000
  aerSev : Nat := 0x462030
  corMask : Nat := 0xE000
  /-- Reporting enables: correctable, non-fatal, fatal errors, and Unsupported Request. -/
  errEn : Nat := 0
  /-- ASPM Control, bit 1 for L1; enables of L1.1, bit 0 by software and bit 1 by ASPM (R357, R364). -/
  aspm : Nat := 0
  l1sub : Nat := 0
  /-- AER uncorrectable and correctable error status, at the bit positions of the PCI Express specification (notes/assumptions/57.md, PRESUMED). -/
  aerStatus : Nat := 0
  aerCor : Nat := 0
  deriving DecidableEq, Repr, Inhabited

/-- Link states (R357, R364, R365, R379). -/
inductive LinkSt where
  | down | recovery | l0 | l1
  /-- The substate L1.1 of L1. -/
  | l11
  /-- L2/L3 Ready. -/
  | l23
  deriving DecidableEq, Repr, Inhabited

/-- A BAR2 read that is held (R371). -/
structure Bar2Req where
  off : Nat
  len : Nat
  ecc : EccReport := {}
  deriving DecidableEq, Repr, Inhabited

/-- The PCI Express interface and the GLB window (R357 to R382). -/
structure Pcie where
  link : LinkSt := .down
  gen : Nat := 0
  /-- log2 of the trained width. -/
  width : Nat := 0
  flit : Bool := false
  /-- Faulty lanes, kept in PD49 (R379). -/
  laneFault : Nat := 0
  reversed : Bool := false
  irqStat : Nat := 0
  irqMask : Nat := 0
  /-- GLB_LANE_ERR: seconds per lane. -/
  laneErr : List Nat := [0, 0, 0, 0]
  /-- The second of `State.now` each lane's error count last grew in. -/
  laneSec : List (Option Nat) := [none, none, none, none]
  /-- Corrected errors of each lane in that second (R379). -/
  laneHits : List Nat := [0, 0, 0, 0]
  bar0BadWr : Nat := 0
  bar2WrDrop : Nat := 0
  bar2Poison : Nat := 0
  bar2Ca : Nat := 0
  /-- BAR2 reads that a relock holds, oldest first, at most 64 (R220, R369, R371). -/
  held : List Bar2Req := []
  /-- Further ones, which wait in the link's non-posted flow control (R369). -/
  flow : List Bar2Req := []
  retrainCnt : Nat := 0
  speedChgCnt : Nat := 0
  msix : List MsixEntry := List.replicate 64 {}
  /-- The pending bit array. -/
  pba : Nat := 0
  cfg : PciCfg := {}
  subsysVid : Nat := 0x1F4B
  subsysId : Nat := 0xA128
  /-- WAKE_N is asserted (R365). -/
  wakeN : Bool := false
  deriving DecidableEq, Repr, Inhabited

/-- A posted write the A128 has made to host memory. -/
structure HostWrite where
  addr : BitVec 64 := 0
  data : List Byte := []
  /-- The TLP carries an ECRC (R375). -/
  ecrc : Bool := false
  deriving DecidableEq, Repr, Inhabited

/-- An MSI-X message the A128 has sent (R373). -/
structure MsixMsg where
  vector : Nat := 0
  ecrc : Bool := false
  deriving DecidableEq, Repr, Inhabited

/-- Message TLPs the A128 sends (R365, R374). -/
inductive MsgKind where
  | pmPme | errCor | errNonFatal | errFatal
  deriving DecidableEq, Repr, Inhabited

/-- A message the A128 has sent. -/
structure PcieMsg where
  kind : MsgKind := .pmPme
  ecrc : Bool := false
  deriving DecidableEq, Repr, Inhabited

end Sys2Proof.Machine
end

