-- ==== Sys2Proof/Machine/TrgState.lean ====
section
/-! DEFINITION. State of the trigger groups' logic and the trigger inputs and outputs (chapter 6, R130 to R159).
Trigger times are numbers of Ts/4,096. -/

namespace Sys2Proof.Machine

/-- TRG_STAT.STATE (R159). -/
inductive TrgSt where
  | idle | preFill | accepting | postFill | rearm | streaming | rolling | waitFull
  deriving DecidableEq, Repr, Inhabited

/-- The register code of a group's trigger state (R159). -/
def TrgSt.code : TrgSt → Nat
  | .idle => 0 | .preFill => 1 | .accepting => 2 | .postFill => 3
  | .rearm => 4 | .streaming => 5 | .rolling => 6 | .waitFull => 7

/-- One sample a slot has seen (R133, R134): its stamp in Ts/4,096, its value in 1/16 LSB, its marks. -/
structure SlotSample where
  stamp : Nat := 0
  x : Int := 0
  valid : Bool := true
  ovr : Bool := false
  deriving DecidableEq, Repr, Inhabited

/-- Comparator state of one slot (R133 to R135, R140). -/
structure SlotSt where
  /-- The newest samples seen, newest first, at most three. -/
  win : List SlotSample := []
  /-- No valid sample has set the comparator state since ARM or a change of levels (R134). -/
  fresh : Bool := true
  /-- The signal has been below LVL_A − HYST since the last rising crossing of LVL_A, and so on. -/
  armRiseA : Bool := false
  armFallA : Bool := false
  armRiseB : Bool := false
  armFallB : Bool := false
  /-- The slot's pattern state (R140). -/
  high : Bool := false
  /-- Samples stamped before this time have been compared, in Ts/4,096. -/
  fed : Nat := 0
  deriving DecidableEq, Repr, Inhabited

/-- Measurement state of one event detector (R137): the crossings that began a measurement. -/
structure EvSt where
  /-- Time of the first crossing of a positive (rising) measurement. -/
  pos : Option Nat := none
  /-- Time of the first crossing of a negative (falling) measurement. -/
  neg : Option Nat := none
  /-- Since when the pattern has been true, when that crossing was not ignored (R134, R140). -/
  patSince : Option Nat := none
  deriving DecidableEq, Repr, Inhabited

/-- What a new trigger program changes (R151): the slots whose source or levels, and whether event A's or B's kind. -/
structure ProgChange where
  slots : List Nat := []
  evA : Bool := false
  evB : Bool := false
  deriving DecidableEq, Repr, Inhabited

/-- A crossing, transition or Beacon event that waits for the group's logic (R133 to R136, R153): its slot's source code, time,
level and direction, and what the trigger's TRIG_SRC says of it. -/
structure InboxItem where
  src : Nat := 0
  t : Nat := 0
  rise : Bool := true
  /-- The crossing is one of LVL_B. -/
  lvlB : Bool := false
  noInterp : Bool := false
  ovr : Bool := false
  /-- R134 ignores it: it abandons the measurements that need it. -/
  ignored : Bool := false
  /-- Both samples about it are valid, so that it moves the comparator (R134). -/
  moves : Bool := true
  /-- It is no crossing: the first sample under new levels sets the comparator's state (R134, R151). -/
  sets : Bool := false
  /-- It is no crossing: a new program takes effect (R151). -/
  program : Option ProgChange := none
  /-- Stamp of the decisive sample (R155). -/
  dec : Nat := 0
  /-- The slot whose comparator found it; none for transitions and events, which every slot of their source sees. -/
  slot : Option Nat := none
  deriving DecidableEq, Repr, Inhabited

/-- One trigger group's logic. -/
structure TrgGrp where
  st : TrgSt := .idle
  slots : List SlotSt := List.replicate 4 {}
  evA : EvSt := {}
  evB : EvSt := {}
  /-- The sequence waits for B (R141). -/
  seqWaitB : Bool := false
  seqStart : Nat := 0
  seqNb : Nat := 0
  /-- End of the hold-off time in Ts/4,096; none when none has begun (R145). -/
  hoEnd : Option Nat := none
  hoLeft : Nat := 0
  /-- HO_MODE in force since the accepted trigger that began the hold-off. -/
  hoMode : Nat := 0
  /-- Triggers held since the last accepted one (R145, R148). -/
  held : Nat := 0
  qualCnt : Nat := 0
  accCnt : Nat := 0
  rejCnt : Nat := 0
  heldCnt : Nat := 0
  invSupp : Nat := 0
  bevLate : Nat := 0
  lastTb : BitVec 64 := 0
  lastFrac : Nat := 0
  lastSrc : Nat := 0
  /-- Journal indices of FORCE_TRIGGER commands that wait (R149). -/
  forces : List Nat := []
  /-- First trigger time accepted in the present period, Ts/4,096; none while none can be (R38, R146). -/
  openAt : Option Nat := none
  /-- Transitions and Beacon events not yet processed, in order of time. -/
  inbox : List InboxItem := []
  /-- The logic has processed stamps below this time (R153). -/
  pos : Nat := 0
  /-- Rejected triggers counted for the present segment (R147). -/
  rejSeg : Nat := 0
  deriving DecidableEq, Repr, Inhabited

/-- One TRIG_OUT (R156, R157). -/
structure TrigOut where
  /-- Pulses: where each begins and ends, in Ts/64 of `State.now`. The output is high inside any of them. -/
  pulses : List (Nat × Nat) := []
  /-- Trigger times of TIMED pulses not yet placed (Ts/4,096). -/
  due : List Nat := []
  late : Nat := 0
  deriving DecidableEq, Repr, Inhabited

/-- The trigger system: 32 groups, two inputs, two outputs. -/
structure Trg where
  grp : List TrgGrp := List.replicate 32 {}
  inLevel : List Bool := [false, false]
  /-- Transitions whose stamps, delays included, lie after the instant at which they were last looked through: a group that starts
  before such a stamp sees the transition (R135, R153). -/
  ahead : List InboxItem := []
  out : List TrigOut := List.replicate 2 {}
  deriving DecidableEq, Repr, Inhabited

end Sys2Proof.Machine
end

