-- ==== Sys2Proof/Machine/WeirState.lean ====
section
/-! DEFINITION. State of one channel's Weir (chapter 5, R104 to R129). The SH fields and the coefficient banks lie in `State.cfg`. -/

namespace Sys2Proof.Machine

/-- A running cross-fade (R114): the bank fading out, the length, and when its last mixed sample passes. -/
structure Fade where
  fromBank : Nat := 0
  len : Nat := 0
  /-- Mixed samples are stamped from this `State.now` on, after the first `done` of them (R114). -/
  start : Nat := 0
  done : Nat := 0
  /-- Its last mixed sample has passed (FADE_END). -/
  ended : Bool := false
  deriving DecidableEq, Repr, Inhabited

/-- One channel's Weir status. -/
structure WeirCh where
  fade : Option Fade := none
  /-- The bank a held deferred swap selects (R39, R116). -/
  defer : Option Nat := none
  /-- `State.now` at which each bank began to run on its present coefficients; none while it does not run (R113). -/
  runA : Option Nat := none
  runB : Option Nat := none
  /-- TB_COUNT of the decimator origin (R117, DEC_ORIGIN). -/
  originTb : BitVec 64 := 0
  originNow : Nat := 0
  /-- End, in `State.now` stamps, of the stage-3 samples that R122 and R123 mark invalid. -/
  invEnd : Nat := 0
  /-- `State.now` at which the stage-3 history was last zero-filled (R119, R120). -/
  histNow : Nat := 0
  /-- `State.now` at which the fractional filter's history was last zero-filled (R120). -/
  fracNow : Nat := 0
  /-- Stage-3 samples below this number have been looked at for SAT_CNT (R129). -/
  satTo : Nat := 0
  /-- End, in Ts/4,096, of the stage-3 samples that a restart makes invalid (R123). -/
  restEnd : Nat := 0
  fadeSkip : Nat := 0
  fadeCut : Nat := 0
  sat : Nat := 0
  deferCnt : Nat := 0
  deferRepl : Nat := 0
  deriving DecidableEq, Repr, Inhabited

/-- What was in force before an instant (R36, R80, R81, R151, R226): the active SH registers, the Weirs and the calibration of every
channel, the units' calibration epochs, and each group's numbering: TB_COUNT at `State.now` 0, and its epoch. The logic that runs
behind the samples reads them for the samples taken then. -/
structure Past where
  till : Nat := 0
  cfg : List (Nat × Word) := []
  weir : List WeirCh := []
  cal : List CalCh := []
  calEpoch : List Nat := []
  base : List Int := []
  epoch : List Nat := []
  deriving DecidableEq, Repr, Inhabited

end Sys2Proof.Machine
end

