-- ==== Sys2Proof/Machine/State.lean ====
section
/-! DEFINITION. The state of the LUM-A128 as plain data, its stops, and the state right after a cold reset.
The default of each field is its reset value. -/

namespace Sys2Proof.Machine

/-- What the A128 answered to the host's last read that the model carries out (BAR2, TB_NOW_LO, ERR_ENTRY). -/
structure ReadCpl where
  data : List Byte := []
  /-- Whether each completion of a BAR2 read, split at 64-byte boundaries, is poisoned (R369). -/
  poisoned : List Bool := []
  completerAbort : Bool := false
  /-- Unsupported Request (R374). -/
  unsupported : Bool := false
  /-- The completions carry an ECRC (R375). -/
  ecrc : Bool := false
  /-- The read is held and completes later (R220, R371). -/
  held : Bool := false
  deriving DecidableEq, Repr, Inhabited

/-- The whole block. -/
structure State where
  /-- Commands that wait, first in, first out. -/
  pending : List Instr := []
  /-- The model's own count of Ts, which no relock or step moves. -/
  now : Nat := 0
  /-- Active values of the SH registers, by active-view address; a register not listed holds its reset value. -/
  cfg : List (Nat × Word) := []
  /-- The 36 commit units (R20, R22). -/
  units : List CUnit := List.replicate 36 {}
  /-- What was in force before each instant at which it changed, newest first. -/
  past : List Past := []
  cp : Cp := {}
  err : ErrLog := {}
  pwr : Pwr := {}
  pcie : Pcie := {}
  spr : Spring := {}
  tb : Tb := {}
  bcn : Bcn := {}
  acq : Acq := {}
  weir : List WeirCh := List.replicate 128 {}
  trg : Trg := {}
  rsv : Rsv := {}
  pond : Pond := {}
  dma : Dma := {}
  ltn : Ltn := {}
  lamp : Lamp := {}
  buoy : Buoy := {}
  kpr : Kpr := {}
  /-- Events held in PD49 while PD45 is off, with their EQ, oldest first, at most 16 (R432). -/
  stby : List (Nat × Event) := []
  /-- Posted writes to host memory, oldest first. -/
  hostWrites : List HostWrite := []
  /-- MSI-X messages sent, oldest first. -/
  msixSent : List MsixMsg := []
  /-- Message TLPs sent, oldest first. -/
  msgSent : List PcieMsg := []
  lastRead : ReadCpl := {}
  /-- Answers to the BAR2 reads that the last release of a relock let go, in their order (R371). -/
  released : List ReadCpl := []
  /-- Free values drawn so far: the argument of the next one (Config). -/
  freeCtr : Nat := 0
  deriving DecidableEq, Repr, Inhabited

/-- Reasons to stop with a fault. The manual gives every command of the table an effect, so no meaning raises one. -/
inductive Fault where
  deriving DecidableEq, Repr

/-- Reasons to refuse a command. -/
inductive Refusal where
  /-- Raised by an arm of `exec` whose command has no meaning yet; safe: the run stops. -/
  | notModelled (mnemonic : String)
  deriving DecidableEq, Repr

/-- The state right after a cold reset: VDD_AON is up, RESET_N and PERST_N are low, every domain but PD49 is off, and every
register holds its reset value. -/
def State.reset : State :=
  { pwr := { doms := List.replicate 49 {} ++ [{ st := .on }] } }

end Sys2Proof.Machine
end

