-- ==== Sys2Proof/Machine/Ops.lean ====
section
/-! DEFINITION. The named operations every block shares: banks and registers, free values, time, memory, interrupts,
the error log, events, the journal and the frame every command runs in. -/

namespace Sys2Proof.Machine

/-- What a meaning answers. -/
abbrev Res := Host.Outcome State Fault Refusal

/-! ### Banks of blocks -/

def State.updCp (s : State) (f : Cp → Cp) : State := { s with cp := f s.cp }
def State.updQ (s : State) (q : Nat) (f : Queue → Queue) : State :=
  { s with cp := { s.cp with queues := upd s.cp.queues q f } }
def State.updEq (s : State) (e : Nat) (f : EventQueue → EventQueue) : State :=
  { s with cp := { s.cp with eqs := upd s.cp.eqs e f } }
def State.updUnit (s : State) (u : Nat) (f : CUnit → CUnit) : State := { s with units := upd s.units u f }
def State.updPwr (s : State) (f : Pwr → Pwr) : State := { s with pwr := f s.pwr }
def State.updDom (s : State) (d : Nat) (f : Dom → Dom) : State :=
  { s with pwr := { s.pwr with doms := upd s.pwr.doms d f } }
def State.updPcie (s : State) (f : Pcie → Pcie) : State := { s with pcie := f s.pcie }
def State.updSpr (s : State) (f : Spring → Spring) : State := { s with spr := f s.spr }
def State.updTb (s : State) (f : Tb → Tb) : State := { s with tb := f s.tb }
def State.updBcn (s : State) (f : Bcn → Bcn) : State := { s with bcn := f s.bcn }
def State.updPort (s : State) (p : Nat) (f : BcnPort → BcnPort) : State :=
  { s with bcn := { s.bcn with ports := upd s.bcn.ports p f } }
def State.updQuad (s : State) (q : Nat) (f : Quad → Quad) : State := { s with acq := { s.acq with quads := upd s.acq.quads q f } }
def State.updAcqCh (s : State) (n : Nat) (f : AcqCh → AcqCh) : State := { s with acq := { s.acq with ch := upd s.acq.ch n f } }
def State.updCal (s : State) (n : Nat) (f : CalCh → CalCh) : State := { s with acq := { s.acq with cal := upd s.acq.cal n f } }
def State.updWeir (s : State) (n : Nat) (f : WeirCh → WeirCh) : State := { s with weir := upd s.weir n f }
def State.updTrg (s : State) (g : Nat) (f : TrgGrp → TrgGrp) : State := { s with trg := { s.trg with grp := upd s.trg.grp g f } }
def State.updOut (s : State) (i : Nat) (f : TrigOut → TrigOut) : State := { s with trg := { s.trg with out := upd s.trg.out i f } }
def State.updRsv (s : State) (f : Rsv → Rsv) : State := { s with rsv := f s.rsv }
def State.updRec (s : State) (g : Nat) (f : RsvGrp → RsvGrp) : State := { s with rsv := { s.rsv with grp := upd s.rsv.grp g f } }
def State.updRun (s : State) (g : Nat) (f : Run → Run) : State :=
  s.updRec g (fun r => { r with run := r.run.map f })
def State.updPondCh (s : State) (n : Nat) (f : PondCh → PondCh) : State := { s with pond := { s.pond with ch := upd s.pond.ch n f } }
def State.updSnd (s : State) (g : Nat) (f : SndGrp → SndGrp) : State := { s with pond := { s.pond with grp := upd s.pond.grp g f } }
def State.updDma (s : State) (c : Nat) (f : DmaCh → DmaCh) : State := { s with dma := { s.dma with ch := upd s.dma.ch c f } }
def State.updLtn (s : State) (f : Ltn → Ltn) : State := { s with ltn := f s.ltn }
def State.updDp (s : State) (k : Nat) (f : Dp → Dp) : State := { s with ltn := { s.ltn with dp := upd s.ltn.dp k f } }
def State.updLamp (s : State) (f : Lamp → Lamp) : State := { s with lamp := f s.lamp }
def State.updBuoy (s : State) (f : Buoy → Buoy) : State := { s with buoy := f s.buoy }
def State.updKpr (s : State) (f : Kpr → Kpr) : State := { s with kpr := f s.kpr }

/-- Apply f for each element of a list, in order. -/
def forEach {α : Type} (xs : List α) (s : State) (f : State → α → State) : State := xs.foldl f s

/-! ### Active SH registers -/

/-- The active value of an SH register (R22). -/
def State.reg (s : State) (a : Nat) : Nat := (sget shReset s.cfg a).toNat
/-- Field [hi:lo] of an active SH register. -/
def State.regF (s : State) (a hi lo : Nat) : Nat := fld (s.reg a) hi lo
/-- Bit n of an active SH register. -/
def State.regB (s : State) (a n : Nat) : Bool := bit (s.reg a) n
/-- Write an active SH register. -/
def State.setReg (s : State) (a : Nat) (v : Word) : State := { s with cfg := sput shReset s.cfg a v }

/-! ### Free values -/

/-- Draw k free values: the first one's number, and the state past them. -/
def State.draw (s : State) (k : Nat) : Nat × State := (s.freeCtr, { s with freeCtr := s.freeCtr + k })

/-! ### Time -/

/-- f_VCO in Hz, rounded down: f_pfd × (N_INT + N_FRAC/2^24) (R213). -/
def vcoHz (nomHz rdiv nInt nFrac : Nat) : Nat := nomHz * (nInt * 2 ^ 24 + nFrac) / (rdiv * 2 ^ 24)
/-- Fs in Hz: half of f_VCO (R213). -/
def State.fs (s : State) : Nat := vcoHz s.spr.nomHz s.spr.rdiv s.spr.nInt s.spr.nFrac / 2
/-- TB_COUNT in the numbering group g stamps in (R226). -/
def State.tbOf (s : State) (g : Nat) : BitVec 64 := s.tb.count + BitVec.ofInt 64 (s.tb.grpOfs.getD g 0)
/-- TB_COUNT of a stamp t (whole Ts of `State.now`) in group g's numbering. -/
def State.stampTb (s : State) (g t : Nat) : BitVec 64 := s.tbOf g + BitVec.ofInt 64 ((t : Int) - s.now)
/-- The epoch of group g's numbering. -/
def State.grpEpoch (s : State) (g : Nat) : Nat := (s.tb.grpEpoch.getD g none).getD s.tb.epoch

/-- What lets an idle link rest: the power state's hold, the function's D3hot, or ASPM (R364). -/
def State.mayRest (s : State) : Bool :=
  s.pcie.link == .l0 && (s.pwr.st == .idle || s.pwr.st == .standby || s.pcie.cfg.d3hot || bit s.pcie.cfg.aspm 1)

/-- The rest an idle link takes: L1, or L1.1 where that is enabled (R357, R364). -/
def PciCfg.rest (c : PciCfg) : LinkSt := if c.l1sub ≠ 0 then .l11 else .l1

/-- An idle link that may rest does so when it likes: when the idle rules let it is a free value (notes/assumptions/115.md). -/
def State.linkIdle (s : State) : State :=
  if !s.mayRest then s
  else
    let (k, s) := s.draw 1
    if Config.freeBool k then { s with pcie := { s.pcie with link := s.pcie.cfg.rest } } else s

/-- One core cycle of 16 Ts passes (R12): the model's clock, and TB_COUNT while it counts (R237); the epoch advances as the count
wraps (R238). DESIGN CHOICE: the opcode table has no row for a tick (notes/assumptions/1.md). -/
def State.tick (s0 : State) : State :=
  let s := s0.linkIdle
  let wraps := s.tb.counting && 2 ^ 64 ≤ s.tb.count.toNat + 16
  { s with now := s.now + 16, tb := { s.tb with count := if s.tb.counting then s.tb.count + 16 else s.tb.count,
                                                epoch := if wraps then (s.tb.epoch + 1) % 65536 else s.tb.epoch,
                                                wrapAt := if wraps then some s.now else s.tb.wrapAt } }

/-! ### Memory -/

/-- The byte an unlisted address of Reservoir or Pond reads as: 0 (R186, R210). -/
def memDflt : Nat → Byte := fun _ => 0
/-- One byte of Reservoir or Pond. -/
def Mem.get (m : Mem) (a : Nat) : Byte := sget memDflt m a
/-- Write one byte. -/
def Mem.set (m : Mem) (a : Nat) (b : Byte) : Mem := sput memDflt m a b
/-- n bytes from address a. -/
def Mem.read (m : Mem) (a n : Nat) : List Byte := (List.range n).map (fun i => Mem.get m (a + i))
/-- Write bytes from address a, ascending. -/
def Mem.write : Mem → Nat → List Byte → Mem
  | m, _, [] => m
  | m, a, b :: bs => Mem.write (Mem.set m a b) (a + 1) bs
/-- Set the n bytes from address a to 0. -/
def Mem.zero (m : Mem) (a n : Nat) : Mem := m.filter (fun p => p.1 < a || a + n ≤ p.1)
/-- The canonical form of a memory. -/
abbrev Memory.wf (m : Mem) : Bool := swf memDflt m

def State.rsvWrite (s : State) (a : Nat) (bs : List Byte) : State := { s with rsv := { s.rsv with mem := Mem.write s.rsv.mem a bs } }
def State.pondWrite (s : State) (a : Nat) (bs : List Byte) : State := { s with pond := { s.pond with mem := Mem.write s.pond.mem a bs } }

/-! ### Undefined content (R172, R184) -/

/-- Byte ranges less the range from a to a + n. -/
def subRange (a n : Nat) (rs : List (Nat × Nat)) : List (Nat × Nat) :=
  rs.flatMap (fun r =>
    (if r.1 < min a (r.1 + r.2) then [(r.1, min a (r.1 + r.2) - r.1)] else []) ++
      (if max (a + n) r.1 < r.1 + r.2 then [(max (a + n) r.1, r.1 + r.2 - max (a + n) r.1)] else []))

/-- The content of n bytes from a is undefined from now on. -/
def State.undefine (s : State) (a n : Nat) : State := s.updRsv (fun r => { r with undef := (a, n) :: subRange a n r.undef })

/-- Write bytes of a record, which are defined from now on. -/
def State.putBytes (s : State) (a : Nat) (bs : List Byte) : State :=
  (s.rsvWrite a bs).updRsv (fun r => { r with undef := subRange a bs.length r.undef })

/-- Zero n bytes, which are defined from now on. -/
def State.putZeros (s : State) (a n : Nat) : State :=
  s.updRsv (fun r => { r with mem := Mem.zero r.mem a n, undef := subRange a n r.undef })

/-- A byte of Reservoir as a reader sees it: a free value where its content is undefined. `k` numbers the draw. -/
def State.rsvByte (s : State) (k a : Nat) : Byte :=
  if s.rsv.undef.any (fun r => r.1 ≤ a && a < r.1 + r.2) || (0x1A4000000 ≤ a && a < 0x1B4000000) then Config.freeByte k
  else Mem.get s.rsv.mem a

/-- Bytes of Reservoir as a reader sees them (R162 to R204); draws one free value per byte. -/
def State.rsvRead (s : State) (a n : Nat) : List Byte × State :=
  ((List.range n).map (fun i => s.rsvByte (s.freeCtr + i) (a + i)), (s.draw n).2)

/-! ### Domains and the link -/

/-- PDd is on, its ramp over. -/
def State.domOn (s : State) (d : Nat) : Bool := (nth s.pwr.doms d).st == .on
/-- Stacks are in self-refresh (R187, R354). -/
def State.selfRefresh (s : State) : Bool := s.rsv.stk.any (fun k => k.st == .selfRefresh)
/-- The link is in L0 or L1 (GLB_LINK.LINK_UP). -/
def Pcie.up (p : Pcie) : Bool := p.link == .l0 || p.link == .l1 || p.link == .l11
/-- The A128 may issue memory requests: the link is up and the function is in D0 (R365). -/
def State.busOk (s : State) : Bool := s.pcie.up && !s.pcie.cfg.d3hot
/-- A TLP of either end brings the link from L1 to L0, through Recovery (R364, R382). -/
def Pcie.wake (p : Pcie) : Pcie :=
  if p.link == .l1 || p.link == .l11 then { p with link := .l0, retrainCnt := satAdd 65535 p.retrainCnt 1 } else p
/-- A TLP crosses the link. -/
def State.tlp (s : State) : State := { s with pcie := s.pcie.wake }
/-- Post a write to host memory. -/
def State.hostWrite (s : State) (a : Nat) (bs : List Byte) : State :=
  if bs.isEmpty then s
  else { s.tlp with hostWrites := s.hostWrites ++ [{ addr := BitVec.ofNat 64 a, data := bs, ecrc := s.pcie.cfg.ecrcGen }] }
/-- Send a message; it needs a link that is up, or in Recovery on its way there. -/
def State.message (s : State) (k : MsgKind) : State :=
  if s.pcie.up || s.pcie.link == .recovery then { s.tlp with msgSent := s.msgSent ++ [{ kind := k, ecrc := s.pcie.cfg.ecrcGen }] } else s
/-- A power management event of the function in D3hot (R365): PME_Status, and a PM_PME message, or WAKE_N in L2/L3 Ready. -/
def State.pme (s : State) : State :=
  if !s.pcie.cfg.d3hot || !s.pcie.cfg.pmeEn then s
  else
    let s := { s with pcie := { s.pcie with cfg := { s.pcie.cfg with pmeStatus := true }, wakeN := s.pcie.wakeN || s.pcie.link == LinkSt.l23 } }
    s.message .pmPme
/-- The completion of a host read that returns these bytes. -/
def State.completes (s : State) (bs : List Byte) : State := { s with lastRead := { data := bs, ecrc := s.pcie.cfg.ecrcGen } }

/-! ### Interrupts (R348, R372, R373) -/

/-- Send the MSI-X message of a vector (R373). -/
def State.sendMsix (s : State) (v : Nat) : State :=
  { s.tlp with msixSent := s.msixSent ++ [{ vector := v, ecrc := s.pcie.cfg.ecrcGen }] }

/-- Signal an MSI-X vector: a message, or the pending bit while the vector or the function is masked, or no memory request may
issue (R365, R373). -/
def State.signal (s : State) (v : Nat) : State :=
  if s.pcie.cfg.funcMask || (nth s.pcie.msix v).masked || (s.pcie.cfg.msixEnable && !s.busOk) then
    { s with pcie := { s.pcie with pba := s.pcie.pba ||| 2 ^ v } }
  else if s.pcie.cfg.msixEnable then s.sendMsix v
  else s

/-- Set GLB_IRQ_STAT bit b, and signal vector 44 + b where it changes from 0 to 1 with its mask bit 1 (R373). -/
def State.raiseGlb (s : State) (b : Nat) : State :=
  if bit s.pcie.irqStat b then s
  else
    let s' := { s with pcie := { s.pcie with irqStat := s.pcie.irqStat ||| 2 ^ b } }
    if bit s.pcie.irqMask b then s'.signal (44 + b) else s'

/-! ### The error log (R470 to R477) -/

/-- Entries of the same source that are in use: the index of the first. -/
def findEntry (es : List (Option ErrEntry)) (blk code inst : Nat) : Option Nat :=
  es.findIdx? (fun e => match e with
    | some e => e.block == blk && e.code == code && e.inst == inst
    | none => false)

/-- The entry of rule 5 of R472: among the 56 general entries, the lowest class, then the lowest LOG_SEQ; none when all are FATAL. -/
def preemptIdx (es : List (Option ErrEntry)) : Option Nat :=
  (List.range 56).foldl (fun best i =>
    match es.getD i none with
    | some e =>
      if e.cls == 3 then best
      else match best with
        | none => some i
        | some j =>
          let f := (es.getD j none).getD default
          if e.cls < f.cls || (e.cls == f.cls && e.logSeq < f.logSeq) then some i else best
    | none => best) none

/-- The entry a detection writes. -/
def newEntry (seq cls blk code inst detail : Nat) (tb : BitVec 64) : ErrEntry :=
  { cls := cls, block := blk, code := code, inst := inst, logSeq := seq, firstTb := tb, detail := detail }

/-- A further detection from an entry's source (R472, rule 1); past a report, R474 counts it as unreported. -/
def ErrEntry.again (e : ErrEntry) (cls detail : Nat) (tb : BitVec 64) : ErrEntry :=
  { e with repeats := satAdd 0xFFFFFFFF e.repeats 1, cls := max e.cls cls, escalated := e.escalated || e.cls < cls,
           since := if e.reported.isNone then none
             else match e.since with
               | some (c, top, t, d) => some (c, max top cls, t, d)
               | none => some (cls, cls, tb, detail) }

/-- Store a detection in the log by the rules of R472, in their order. `kpr` names a Keeper source. -/
def ErrLog.detect (l : ErrLog) (cls blk code inst detail : Nat) (tb : BitVec 64) (kpr : Option Nat) : ErrLog :=
  let l := { l with cnt := upd l.cnt cls (fun c => satAdd 0xFFFFFFFF c 1) }
  match findEntry l.entries blk code inst with
  | some i => { l with entries := upd l.entries i (Option.map (fun e => e.again cls detail tb)) }
  | none =>
    let e := newEntry (l.seq + 1) cls blk code inst detail tb
    match kpr with
    | some src => { l with entries := l.entries.set (56 + src) (some { e with keeper := true }), seq := l.seq + 1 }
    | none =>
      match (List.range 56).find? (fun i => (l.entries.getD i none).isNone) with
      | some i => { l with entries := l.entries.set i (some e), seq := l.seq + 1 }
      | none =>
        let l := { l with overflow := satAdd 65535 l.overflow 1 }
        if cls ≠ 3 then l
        else match preemptIdx l.entries with
          | some i => { l with entries := l.entries.set i (some { e with preempted := true }), seq := l.seq + 1 }
          | none => l

/-- A FATAL entry is present (GLB_STATUS.FATAL, R382, R472). -/
def ErrLog.fatal (l : ErrLog) : Bool := l.entries.any (fun e => match e with | some e => e.cls == 3 | none => false)

/-- A detection writes or updates an entry: it repeats one, a Keeper entry takes it, or a general entry is free or gives way (R472). -/
def ErrLog.takes (l : ErrLog) (cls blk code inst : Nat) (kpr : Option Nat) : Bool :=
  (findEntry l.entries blk code inst).isSome || kpr.isSome || (List.range 56).any (fun i => (l.entries.getD i none).isNone) ||
    (cls == 3 && (preemptIdx l.entries).isSome)

/-- Advisory Non-Fatal Error status. -/
def State.aerAdvisory (s : State) : State := s.updPcie (fun p => { p with cfg := { p.cfg with aerCor := p.cfg.aerCor ||| 2 ^ 13 } })

/-- A correctable error's status bit, and its message where it is neither masked nor disabled (R374). -/
def State.corReport (s : State) (b : Nat) : State :=
  let s := s.updPcie (fun p => { p with cfg := { p.cfg with aerCor := p.cfg.aerCor ||| 2 ^ b } })
  if bit s.pcie.cfg.corMask b || !bit s.pcie.cfg.errEn 0 then s else s.message .errCor

/-- An uncorrectable error's status bit, and the message its mask, its severity and the enables give; an advisory one of non-fatal
severity is reported as correctable (R374; the rules of the PCI Express specification, notes/assumptions/57.md). -/
def State.uncReport (s : State) (b : Nat) (advisory : Bool) : State :=
  let s := s.updPcie (fun p => { p with cfg := { p.cfg with aerStatus := p.cfg.aerStatus ||| 2 ^ b } })
  let c := s.pcie.cfg
  let on (e : Nat) : Bool := bit c.errEn e && (b != 20 || bit c.errEn 3)
  let s := if advisory && !bit c.aerSev b then s.aerAdvisory else s
  if bit c.aerMask b then s
  else if bit c.aerSev b then (if on 2 then s.message .errFatal else s)
  else if advisory then (if !bit c.corMask 13 && on 0 then s.message .errCor else s)
  else if on 1 then s.message .errNonFatal
  else s

/-- Log a detection: the entry, GLB_IRQ_STAT.ERR on each write or update, and Uncorrectable Internal Error for a FATAL one (R472, R374). -/
def State.logK (s : State) (cls blk code inst detail : Nat) (kpr : Option Nat) : State :=
  let l := s.err.detect cls blk code inst detail s.tb.count kpr
  let s' := { s with err := l }
  let s' := if s.err.takes cls blk code inst kpr then s'.raiseGlb 0 else s'
  if cls == 3 then s'.uncReport 22 false else s'

/-- Log a detection that is no Keeper alarm. -/
def State.log (s : State) (cls blk code inst detail : Nat) : State := s.logK cls blk code inst detail none

/-- Error classes (R470). -/
def CORRECTED : Nat := 0
def DEGRADED : Nat := 1
def CONTAINED : Nat := 2
def FATAL : Nat := 3

/-- Block codes of R475. -/
def bCONV : Nat := 1
def bRSV : Nat := 2
def bJRNL : Nat := 3
def bCP : Nat := 4
def bPCIE : Nat := 5
def bBCN : Nat := 6
def bLTN : Nat := 7
def bSPRING : Nat := 8
def bDMA : Nat := 9
def bPWR : Nat := 10
def bBUOY : Nat := 11
def bKPR : Nat := 12
def bCAL : Nat := 13

/-! ### Domain switching: the start of a step (R425, R428) -/

/-- Start the ramp of a domain's rail (R425). In IDLE and STANDBY the stacks, PD42 and PD44 come up into low power (R13, R230, R364). -/
def Pwr.startRamp (p : Pwr) (d : Nat) (up : Bool) : Pwr :=
  let cause := (p.trans.map Trans.cause).getD 2
  let low := if up then ((37 ≤ d && d ≤ 42) || d == 44) && (p.st == .idle || p.st == .standby) else d == 45 && (nth p.doms d).lowPower
  { p with doms := upd p.doms d (fun x => { x with st := .ramp, up := up, lowPower := low, cause := cause }) }

/-- Microseconds since an instant of `State.now`, rounded down. -/
def State.usSince (s : State) (t : Nat) : Nat := if s.fs = 0 then 0 else (s.now - t) * 1000000 / s.fs

/-- PDd has been off for less than the 1 ms it must stay off (R425). -/
def State.cooling (s : State) (d : Nat) : Bool := match (nth s.pwr.doms d).offAt with | some t => decide (s.usSince t < 1000) | none => false

/-- Begin STANDBY → IDLE (R428, R431, R432): PD45 ramps up once it has been off for 1 ms. -/
def State.wake (s : State) : State :=
  let s := s.updPwr (fun p => { p with wakeDue := false, trans := some { target := some .idle, old := .standby, steps := [.on 45, .on 36, .on 48], start := s.now } })
  if s.cooling 45 then s else s.updPwr (fun p => p.startRamp 45 true)

/-- A doorbell or an EQ0 event asks for a wake: at once in STANDBY, else when the transition to it, or the domain restart in it, that runs
has ended (R431 to R433). -/
def State.askWake (s : State) (door : Bool) : State :=
  let s := if door then s.updPwr (fun p => { p with wakePend := true }) else s
  let count (p : Pwr) : Pwr :=
    if door then { p with doorbellWake := satAdd 65535 p.doorbellWake 1 } else { p with eventWake := satAdd 65535 p.eventWake 1 }
  if s.pwr.st == .standby && s.pwr.trans.isNone then (s.updPwr count).wake
  else if (match s.pwr.trans with | some t => t.target == some .standby || (t.target.isNone && s.pwr.st == .standby) | none => false) && !s.pwr.wakeDue then
    s.updPwr (fun p => { count p with wakeDue := true })
  else s

/-! ### Events (R277 to R280, R432) -/

/-- The EQ of an event type (R278). -/
def eqOf (type : Nat) : Nat :=
  if type < 0x10 then 1 else if type < 0x20 then 2 else if type < 0x40 then 0 else 3

/-- Count and lose an event (R280). -/
def EventQueue.lose (e : EventQueue) : EventQueue :=
  { e with lost := satAdd 0xFFFFFFFF e.lost 1, evtSeq := (e.evtSeq + 1) % 65536, lostFlag := true }

/-- Raise an event: it takes the next EVT_SEQ of its EQ and is held there, at most 256 of them; with PD45 off it is held in PD49,
at most 16, and with `wakes` one for EQ0 starts a wake. -/
def State.eventW (s : State) (wakes : Bool) (type source : Nat) (tag : Option Nat) (tb : BitVec 64) (payload : List Byte) : State :=
  let e := eqOf type
  let q := nth s.cp.eqs e
  let ev : Event := { type := type, source := source, tag := tag, lostBefore := q.lostFlag, seq := q.evtSeq, tb := tb, payload := padTo 16 payload }
  if s.domOn 45 then
    if q.held.length < 256 then
      let s := s.updEq e (fun x => { x with held := x.held ++ [ev], evtSeq := (x.evtSeq + 1) % 65536, lostFlag := false })
      if e == 0 then s.pme else s
    else s.updEq e EventQueue.lose
  else
    let s' :=
      if s.stby.length < 16 then
        let s := { s.updEq e (fun x => { x with evtSeq := (x.evtSeq + 1) % 65536, lostFlag := false }) with stby := s.stby ++ [(e, ev)] }
        if e == 0 then s.pme else s
      else s.updEq e EventQueue.lose
    if wakes && e == 0 then s'.askWake false else s'

/-- Raise an event (R277 to R280, R432). -/
def State.event (s : State) (type source : Nat) (tag : Option Nat) (tb : BitVec 64) (payload : List Byte) : State :=
  s.eventW true type source tag tb payload

/-- The events PD49 holds go to their EQs, in order (R432). -/
def State.flushStby (s : State) : State :=
  let s := forEach s.stby s (fun s (e, ev) => s.updEq e (fun x =>
    if x.held.length < 256 then { x with held := x.held ++ [ev] } else { x with lost := satAdd 0xFFFFFFFF x.lost 1, lostFlag := true }))
  { s with stby := [] }

/-- A LOCK event of Spring or Beacon (R279). -/
def State.lockEvent (s : State) (beacon : Bool) (st : Nat) (tag : Option Nat) : State :=
  s.event 0x22 (b2n beacon) tag s.tb.count
    (leBytes 2 st ++ leBytes 2 s.tb.epoch ++ (if beacon then zeros 8 else leBytes 4 s.spr.nInt ++ leBytes 4 s.spr.nFrac))

/-- A DOMAIN event of PDd (R279, R429). That of PD45 going off ends a transition and starts no wake. -/
def State.domainEvent (s : State) (d : Nat) : State :=
  let x := nth s.pwr.doms d
  s.eventW (d != 45) 0x31 d none s.tb.count [BitVec.ofNat 8 x.st.code, BitVec.ofNat 8 x.cause, BitVec.ofNat 8 x.restartCnt]

/-! ### Keeper alarms (R463 to R466) -/

/-- The policy level of a source: 0 NOTICE, 1 LOCKDOWN, 2 ZEROISE. -/
def Kpr.level (k : Kpr) (src : Nat) : Nat := fld k.policyLo.toNat (2 * src + 1) (2 * src)

/-- An ALARM event (R464). -/
def State.alarmEvent (s : State) (src level : Nat) (detail : Nat) : State :=
  s.event 0x30 src none s.tb.count
    ([BitVec.ofNat 8 level, BitVec.ofNat 8 s.kpr.alarm.code, BitVec.ofNat 8 s.kpr.dbg.code, 0]
      ++ leBytes 4 (nth s.kpr.src src).count ++ leBytes 8 detail)

/-- The alarm state after a raise at a level; it never falls (R464). -/
def Alarm.raise (a : Alarm) (level : Nat) : Alarm :=
  if level = 0 then a else match a with | .zeroised => .zeroised | _ => .lockdown

/-- Raise an alarm source (R464, R465): record, policy, event, interrupt and log entry. -/
def State.raiseAlarm (s : State) (src : Nat) (detail : Nat) : State :=
  let lv := s.kpr.level src
  let k := s.kpr
  let rec1 (r : SrcRec) : SrcRec :=
    { count := satAdd 0xFFFFFFFF r.count 1, level := lv, firstTb := if r.count = 0 then s.tb.count else r.firstTb, lastTb := s.tb.count }
  let k := { k with src := upd k.src src rec1, srcSeen := k.srcSeen ||| 2 ^ src, alarm := k.alarm.raise lv,
                    dbg := if lv = 0 then k.dbg else .closed, tapHalt := lv = 0 && k.tapHalt }
  let k := if lv = 2 then { k with erase := match k.erase with
      | none => some { src := some src }
      | some e => some { e with src := some (e.src.getD src) } } else k
  let s := s.logK (if lv = 0 then CORRECTED else CONTAINED) bKPR src 0 detail (some src)
  let s := { s with kpr := k }
  let s := s.alarmEvent src lv detail
  s.raiseGlb 1

/-! ### The journal (R281, R282) -/

/-- The journal as it counts: copy A while it is in service, else copy B. -/
def Cp.jrn (c : Cp) : List JEntry := if c.aOk then c.jrnA else c.jrnB

/-- Write a change into every copy in service: A, then B (R282). -/
def Cp.mapJrn (c : Cp) (f : List JEntry → List JEntry) : Cp :=
  { c with jrnA := if c.aOk then f c.jrnA else c.jrnA, jrnB := if c.bOk then f c.jrnB else c.jrnB }

/-- Change the entry of one journal index. -/
def State.updJ (s : State) (idx : Nat) (f : JEntry → JEntry) : State :=
  s.updCp (fun c => c.mapJrn (List.map (fun e => if e.idx = idx then f e else e)))

/-- The entry of a journal index. -/
def State.jget (s : State) (idx : Nat) : Option JEntry := s.cp.jrn.find? (fun e => e.idx == idx)

/-- Entries of a queue, in order. -/
def Cp.ofQueue (c : Cp) (q : Nat) : List JEntry := c.jrn.filter (fun e => e.queue == q)

/-- The command a queue works on: its first entry whose final completion is not posted (R268, R274). -/
def Cp.current (c : Cp) (q : Nat) : Option JEntry := (c.ofQueue q).find? (fun e => !e.posted)

/-- Status codes (R330). -/
def OK : Nat := 0
def ACCEPTED : Nat := 1
def BAD_OPCODE : Nat := 0x10
def PARAM_RANGE : Nat := 0x11
def STATE : Nat := 0x12
def GROUP_BUSY : Nat := 0x13
def NO_RESOURCE : Nat := 0x14
def QUEUE_OVERRUN : Nat := 0x15
def SECURITY_DENIED : Nat := 0x20
def LOCKED : Nat := 0x21
def ABORTED : Nat := 0x30
def NOT_EXECUTED_RESET : Nat := 0x31
def ROLLED_BACK_REQUEUED : Nat := 0x32
def INTERNAL_FAULT : Nat := 0x40

/-- The micro-commit and end of the command of a journal index: DONE, and its final completion is due (R288). -/
def State.finish (s : State) (idx status : Nat) (result : List Byte) : State :=
  let s := s.updJ idx (fun e => { e with st := .done, status := status, result := padTo 16 result, wait := none, finalDue := true })
  match s.jget idx with
  | some e => { s with cp := { s.cp with threads := upd s.cp.threads e.queue (fun t => { t with st := if t.st == .locked then .locked else .idle }),
                                         changeLog := upd s.cp.changeLog e.queue (fun _ => 0) } }
  | none => s

/-- End every entry that waits for what `p` names. -/
def State.finishWaits (s : State) (p : JEntry → Bool) (status : Nat) (result : JEntry → List Byte) : State :=
  forEach (s.cp.jrn.filter (fun e => e.wait.isSome && p e)) s (fun s e => s.finish e.idx status (result e))

/-! ### The frame of a command (R268, R274, R275, R286, R298 to R301) -/

/-- Packet fields (R266). -/
def opcode (p : Packet) : Nat := rd p 0 1
def pktFlags (p : Packet) : Nat := rd p 1 1
def pktTag (p : Packet) : Nat := rd p 2 2
def pktSeq (p : Packet) : Nat := rd p 4 8
def pktIndex (p : Packet) : Nat := rd p 12 1
def fence (p : Packet) : Bool := bit (pktFlags p) 0
def interim (p : Packet) : Bool := bit (pktFlags p) 1
/-- TAG under EVENT_ON_DONE (R268). -/
def doneTag (p : Packet) : Option Nat := if bit (pktFlags p) 2 then some (pktTag p) else none
/-- The bulk descriptor (R299). -/
def bulkAddr (p : Packet) : Nat := rd p 48 8
def bulkLen (p : Packet) : Nat := rd p 56 4
/-- The channel mask of R298, as channel numbers. -/
def pktMask (p : Packet) : List Nat := allBelow 128 (bit (rd p 16 16))

/-- Byte i of the packet lies in none of the spans (offset, size). -/
def inSpans (spans : List (Nat × Nat)) (i : Nat) : Bool := spans.any (fun (o, n) => o ≤ i && i < o + n)

/-- The packet-level checks of R300, step 1, that every command shares: reserved bits of FLAGS and TARGET, and PARAMS bytes
the opcode does not name (R5, R298). -/
def pktOk (p : Packet) (spans : List (Nat × Nat)) : Bool :=
  pktFlags p < 8 && rd p 13 3 == 0 &&
    (List.range 48).all (fun i => inSpans spans (16 + i) || p.getD (16 + i) 0 == 0)

/-- The bulk descriptor keeps R299. -/
def bulkOk (p : Packet) : Bool :=
  bulkAddr p % 4 == 0 && bulkLen p % 4 == 0 && bulkLen p ≤ 1048576 && rd p 60 4 == 0

/-- Keeper refuses this opcode in LOCKDOWN and ZEROISED (R301). -/
def keeperRefuses (op : Nat) : Bool := op == 0x20 || op == 0x24 || (0x68 ≤ op && op ≤ 0x6A) || op == 0x6C

/-- How a command's execution ends. -/
inductive CmdOut where
  /-- Its micro-commit: state, status, RESULT. -/
  | done (s : State) (status : Nat) (result : List Byte)
  /-- It has passed its checks and its wait begins: state, wait, RESULT of an ACCEPTED completion when the opcode has one. -/
  | wait (s : State) (w : Wait) (accepted : Option (List Byte))
  /-- It cannot run yet and has changed nothing. -/
  | hold

/-- A refusal: nothing changes but the outcome (R300). -/
def refuse (s : State) (status : Nat) : CmdOut := .done s status []

/-- The command of queue q may begin or continue: the engine runs, the queue is not suspended, its thread is free, no FENCE holds it. -/
def State.ready (s : State) (q : Nat) (e : JEntry) : Bool :=
  s.cp.st == .running && s.domOn 45 && !s.kpr.tapHalt &&
  (nth s.cp.queues q).st != .suspended &&
  (nth s.cp.threads q).st != .locked && (nth s.cp.threads q).st != .trap1 && (nth s.cp.threads q).st != .trap2 &&
  (e.st == .accepted || e.st == .executing) && e.wait.isNone && !e.finalDue &&
  (!fence e.pkt || s.cp.jrn.all (fun f => f.idx ≥ e.idx || f.posted))

/-- Register changes in the list a command prepares before its micro-commit (R288, R306); bulk data of a filter bank lies in a second
buffer, and a generation is made pending by switching sets. -/
def changesOf (p : Packet) : Nat :=
  let ones (w : Nat) : Nat := (allBelow 4 (bit w)).length
  let op := opcode p
  min 4096 (
    if op = 0x08 then (if pktIndex p = 0 then bulkLen p / 8 else pktIndex p)
    else if op = 0x12 then ones (rd p 24 1)
    else if op = 0x13 then 1
    else if op = 0x18 || op = 0x2A then (pktMask p).length * ones (rd p 48 1)
    else if op = 0x19 || op = 0x30 then (pktMask p).length
    else if op = 0x1A then 2 * (pktMask p).length
    else if op = 0x1B || op = 0x2B || op = 0x48 || op = 0x51 then bulkLen p / 4
    else if op = 0x50 then rd p 17 1
    else 0)

/-- Register changes the change log has room for beside the lists of the threads other than k (R288). -/
def Cp.logSpace (c : Cp) (k : Nat) : Nat := 16384 - (c.changeLog.eraseIdx k).sum

/-- The list of a command fits beside the lists of other threads (R288). -/
def State.logRoom (s : State) (e : JEntry) : Bool := changesOf e.pkt ≤ s.cp.logSpace e.queue

/-- The thread of queue q waits: for a host read, a boundary, an activity, a block's reply, or room in the change log (R284, R288). -/
def State.threadWaits (s : State) (q : Nat) : State :=
  { s with cp := { s.cp with threads := upd s.cp.threads q (fun t => { t with st := .wait }) } }

/-- Give the outcome of a command to its journal entry; one whose change list does not fit waits before its micro-commit (R288). -/
def State.conclude (s0 : State) (e : JEntry) : CmdOut → State
  | .done s st res => if st == OK && !s0.logRoom e then s0.threadWaits e.queue else s.finish e.idx st res
  | .wait s w acc =>
    let due := if interim e.pkt then acc.map (padTo 16) else none
    (s.updJ e.idx (fun x => { x with st := .executing, wait := some w, acceptedDue := due })).threadWaits e.queue
  | .hold => s0.threadWaits e.queue

/-- The command ended with STATE. -/
def CmdOut.isState : CmdOut → Bool
  | .done _ st _ => st == STATE
  | _ => false

/-- Every block that start-up has still to start, started (R290). -/
def State.allStarted (s : State) : State :=
  { s with pwr := { s.pwr with doms := s.pwr.doms.map (fun x => if x.st == .heldOff then x else { x with st := .on }) },
           acq := { s.acq with quads := s.acq.quads.map (fun x => { x with ready := true }) },
           rsv := { s.rsv with stk := s.rsv.stk.map (fun x => if x.st == .selfRefresh then { x with st := .inService } else x) },
           spr := if s.spr.st == .start then { s.spr with st := .locked, lock := true, refOk := true } else s.spr }

/-- During start-up, a command that only a block not yet started refuses waits for it (R290). -/
def awaitStart (s : State) (e : JEntry) (body : State → JEntry → CmdOut) : CmdOut :=
  if s.pwr.starting && (body s e).isState && !(body s.allStarted e).isState then .hold else body s e

/-- Run the command at the front of queue q if it has this opcode, `mine` names it, and it may run; otherwise nothing changes. -/
def runCmdSel (s : State) (q op : Nat) (mine : Packet → Bool) (spans : List (Nat × Nat)) (pre : Packet → Bool)
    (body : State → JEntry → CmdOut) : Res :=
  match s.cp.current q with
  | none => .next s
  | some e =>
    if opcode e.pkt ≠ op || !mine e.pkt || e.dup || !s.ready q e then .next s
    else .next (s.conclude e (
      if !(pktOk e.pkt spans && pre e.pkt) then refuse s PARAM_RANGE
      else if keeperRefuses op && s.kpr.alarm ≠ .clear then refuse s SECURITY_DENIED
      else awaitStart s e body))

/-- `runCmdSel` for an opcode with one row. -/
def runCmd (s : State) (q op : Nat) (spans : List (Nat × Nat)) (pre : Packet → Bool) (body : State → JEntry → CmdOut) : Res :=
  runCmdSel s q op (fun _ => true) spans pre body

/-- Log of a bulk read error, a failed report write or a block that does not reply: CP 7 (R286, R299, R475). -/
def State.logCp7 (s : State) (e : JEntry) : State :=
  s.log CONTAINED bCP 7 e.queue (opcode e.pkt + 256 * (pktSeq e.pkt % 2 ^ 56))

/-- Run the rest of a command on its input table, cut to LEN; a read error ends the command (R286, R299). -/
def withTable (s : State) (e : JEntry) (tbl : Table) (k : List Byte → CmdOut) : CmdOut :=
  if !s.busOk then .hold
  else match tbl with
    | none => .done (s.logCp7 e) PARAM_RANGE []
    | some bs => k (padTo (bulkLen e.pkt) bs)

/-- Write a report to the command's buffer, then go on; a write error ends the command (R299). -/
def withReport (s : State) (e : JEntry) (writeOk : Bool) (bs : List Byte) (k : State → CmdOut) : CmdOut :=
  if bs.isEmpty then k s
  else if !s.busOk then .hold
  else if !writeOk then .done (s.logCp7 e) PARAM_RANGE []
  else k (s.hostWrite (bulkAddr e.pkt) bs)

/-! ### Spring's rate and its phase offset (R213, R226, R253) -/

/-- Fs in Hz, exact (R213). -/
def State.fsQ (s : State) : Rat :=
  (s.spr.nomHz * (s.spr.nInt * 2 ^ 24 + s.spr.nFrac) : Nat) / ((s.spr.rdiv * 2 ^ 25 : Nat) : Rat)

/-- A group is armed or streaming. -/
def State.anyArmed (s : State) : Bool := s.rsv.grp.any (fun x => x.run.isSome)

/-- Offset still to slew now, in fs (SLEW_REMAIN). -/
def State.slewLeft (s : State) : Int :=
  let rate : Nat := if s.spr.slewFast && !s.anyArmed then 5000 else s.spr.slewRate
  let gone : Int := if s.fsQ = 0 then 0 else ((rate * 1000 * (s.now - s.spr.slewAt) : Nat) / s.fsQ).floor
  if 0 ≤ s.spr.slewFs then max 0 (s.spr.slewFs - gone) else min 0 (s.spr.slewFs + gone)

/-- The offset slewed so far is settled, before the rate of the slew changes (R253). -/
def State.slewSettle (s : State) : State :=
  let left := s.slewLeft
  s.updSpr (fun x => { x with slewFs := left, slewAt := s.now })

end Sys2Proof.Machine
end

