-- ==== Sys2Proof/Machine/Queues.lean ====
section
/-! DEFINITION. Queues, event queues, acceptance and posting (R265 to R273, R277 to R281, R295, R297, R431). -/

namespace Sys2Proof.Machine

/-- Commands of queue q that hold a journal entry: accepted, and their final completion not consumed (R269). -/
def Cp.journaled (c : Cp) (q : Nat) : Nat := (c.ofQueue q).length

/-- A host write to a register of PD45 while it is off: doorbells and head writes are latched in order (R431). -/
def State.latch (s : State) (addr : Nat) (v : Word) : State :=
  s.updPwr (fun p => { p with latched := p.latched ++ [{ addr := addr, val := v }] })

/-- BAR0 address of a register of queue q, and of EQ e (R297). -/
def qRegA (q off : Nat) : Nat := 0x8000 + 0x80 * q + off
def eqRegA (e off : Nat) : Nat := 0xA000 + 0x40 * e + off

/-- A tail beyond the ring is refused: logged and counted, and its QUEUE_OVERRUN completion is owed (R271). -/
def State.refuseTail (s : State) (q : Nat) (v : Word) : State :=
  (s.log CONTAINED bCP 5 q v.toNat).updQ q (fun x => { x with overrunDue := x.overrunDue ++ [v], overrunCnt := satAdd 65535 x.overrunCnt 1 })

/-- A doorbell that reaches the command processor (R269, R271, R295). DEDUCED: a DRAINING queue, whose fetching has stopped already, stays
DRAINING; a DISABLED one has no ring that a tail could lie beyond (notes/assumptions/107.md). -/
def State.doorbell (s : State) (q : Nat) (v : Word) : State :=
  let x := nth s.cp.queues q
  let inRing := (v - x.sqHead).toNat ≤ 2 ^ x.sqSize
  match x.st with
  | .suspended => s.updQ q (fun x => { x with heldTail := some v })
  | .running | .overrun | .fetchError =>
    if inRing then s.updQ q (fun x => { x with sqTail := v })
    else (s.refuseTail q v).updQ q (fun x => { x with st := .overrun })
  | .draining => if inRing then s.updQ q (fun x => { x with sqTail := v }) else s.refuseTail q v
  | .disabled => if inRing then s.updQ q (fun x => { x with sqTail := v }) else s

/-- SQ_TAIL_WRITE (R269, R271, R431): ring the doorbell; with PD45 off it is latched and starts the wake. -/
def execSqTailWrite (q : Nat) (v : Word) (s : State) : Res :=
  if s.domOn 45 then .next (s.tlp.doorbell q v)
  else .next ((s.tlp.latch (qRegA q 0x14) v).askWake true)

/-- Accept one fetched entry: journal index, both copies, SQ_HEAD, LAST_SEQ (R269, R270). -/
def State.accept (s : State) (q : Nat) (p : Packet) : State :=
  let x := nth s.cp.queues q
  let dup := pktSeq p ≤ x.lastSeq.toNat
  let e : JEntry := { idx := s.cp.nextIdx, queue := q, pkt := padTo 64 p, dup := dup }
  let s := s.updCp (fun c => { c.mapJrn (fun j => j ++ [e]) with nextIdx := c.nextIdx + 1 })
  s.updQ q (fun x =>
    if dup then { x with sqHead := x.sqHead + 1, dupCnt := satAdd 65535 x.dupCnt 1 }
    else { x with sqHead := x.sqHead + 1, lastSeq := BitVec.ofNat 64 (pktSeq p) })

/-- Queue q may accept one more entry (R269, R276, R282). -/
def State.mayAccept (s : State) (q : Nat) : Bool :=
  let x := nth s.cp.queues q
  x.st == .running && x.sqHead != x.sqTail && s.cp.journaled q < 32 && (s.cp.aOk || s.cp.bOk)

/-- One turn of acceptance: one entry per queue, from SQ0 to SQ7 (R269). -/
def acceptTurn (s : State) (reads : List (Nat × List Packet)) : State × List (Nat × List Packet) :=
  (List.range 8).foldl (fun (s, rs) q =>
    match rs.find? (fun r => r.1 == q) with
    | some (_, p :: _) =>
      if s.mayAccept q then
        (s.accept q p, rs.map (fun r => if r.1 == q then (r.1, r.2.drop 1) else r))
      else (s, rs)
    | _ => (s, rs)) (s, reads)

/-- Turns of acceptance until the fetched entries are used up or refused. -/
def acceptTurns : Nat → State → List (Nat × List Packet) → State
  | 0, s, _ => s
  | n + 1, s, rs => let (s, rs) := acceptTurn s rs; acceptTurns n s rs

/-- A read of SQ entries ends in an error: none accepted, FETCH_ERROR, logged (R272). -/
def State.fetchError (s : State) (q : Nat) : State :=
  let x := nth s.cp.queues q
  if x.st == .running && x.sqHead != x.sqTail then
    let a := x.sqBase.toNat + 64 * (x.sqHead.toNat % 2 ^ x.sqSize)
    (s.log CONTAINED bCP 6 q a).updQ q (fun x => { x with st := .fetchError })
  else s

/-- SQ_FETCH (R269, R272, R276): errors first, then the entries read, in rotation over the queues. -/
def execSqFetch (reads : List (Nat × Option (List Packet))) (s : State) : Res :=
  if s.cp.st ≠ .running || !s.busOk || !s.domOn 45 then .next s
  else
    let s := forEach (reads.filter (fun r => r.2.isNone)) (if reads.isEmpty then s else s.tlp) (fun s r => s.fetchError r.1)
    .next (acceptTurns 32 s (reads.filterMap (fun r => r.2.map (fun ps => (r.1, ps)))))

/-- A DRAINING queue with no journaled command, and no QUEUE_OVERRUN completion still to post, becomes DISABLED (R271, R273). -/
def State.drained (s : State) (q : Nat) : State :=
  let x := nth s.cp.queues q
  if x.st == .draining && s.cp.journaled q == 0 && x.overrunDue.isEmpty then s.updQ q (fun x => { x with st := .disabled }) else s

/-- A head write that reaches the command processor: it consumes completions and frees their entries (R269, R281). -/
def State.consume (s : State) (q : Nat) (v : Word) : State :=
  let h := (nth s.cp.queues q).cqHead
  let gone (e : JEntry) : Bool := e.queue == q && e.posted && (e.cqPos - h).toNat < (v - h).toNat
  let s := s.updCp (fun c => c.mapJrn (List.filter (fun e => !gone e)))
  (s.updQ q (fun x => { x with cqHead := v })).drained q

/-- CQ_HEAD_WRITE (R269, R273, R431). -/
def execCqHeadWrite (q : Nat) (v : Word) (s : State) : Res :=
  .next (if s.domOn 45 then s.tlp.consume q v else s.tlp.latch (qRegA q 0x18) v)

/-- Q_CTL.ENABLE written (R273). -/
def State.qEnable (s : State) (q : Nat) (on : Bool) : State :=
  let x := nth s.cp.queues q
  let s := s.updQ q (fun x => { x with enable := on })
  if on then
    if x.st == .disabled then
      s.updQ q (fun x => { x with st := .running, sqHead := 0, sqTail := 0, cqHead := 0, cqTail := 0, lastSeq := 0, heldTail := none, overrunDue := [] })
    else s
  else if x.st == .disabled || x.st == .draining then s
  else (s.updQ q (fun x => { x with st := .draining })).drained q

/-- Q_CTL.RESUME: a SUSPENDED queue runs, and the doorbell it held rings (R295). -/
def State.qResume (s : State) (q : Nat) : State :=
  let x := nth s.cp.queues q
  if x.st == .suspended then
    let s := s.updQ q (fun x => { x with st := .running, heldTail := none })
    match x.heldTail with
    | some v => s.doorbell q v
    | none => s
  else s

/-- Q_CTL.CLEAR_ERR: OVERRUN and FETCH_ERROR return to RUNNING with SQ_TAIL at SQ_HEAD (R271, R272). -/
def State.qClearErr (s : State) (q : Nat) : State :=
  let x := nth s.cp.queues q
  if x.st == .overrun || x.st == .fetchError then s.updQ q (fun x => { x with st := .running, sqTail := x.sqHead }) else s

/-- A whole write of Q_CTL (R273, R297). -/
def State.qCtl (s : State) (q : Nat) (v : Nat) : State :=
  let x := nth s.cp.queues q
  let open_ := x.st == .disabled || x.st == .suspended
  let s := s.updQ q (fun x =>
    { x with irqEn := bit v 3, sqSize := if open_ && 4 ≤ fld v 7 4 && fld v 7 4 ≤ 12 then fld v 7 4 else x.sqSize,
             cqSize := if open_ && 5 ≤ fld v 11 8 && fld v 11 8 ≤ 13 then fld v 11 8 else x.cqSize })
  let s := s.qEnable q (bit v 0)
  let s := if bit v 1 then s.qResume q else s
  if bit v 2 then s.qClearErr q else s

/-- Writes of Q_CTL; with PD45 off they are discarded (R431). -/
def State.qCtlWrite (s : State) (q : Nat) (v : Word) : State := if s.domOn 45 then s.qCtl q v.toNat else s

/-- Q_ENABLE (R273): a write of Q_CTL with ENABLE 1. -/
def execQEnable (q : Nat) (v : Word) (s : State) : Res := .next (s.tlp.qCtlWrite q (v ||| 1))
/-- Q_DISABLE (R273): a write of Q_CTL with ENABLE 0. -/
def execQDisable (q : Nat) (v : Word) (s : State) : Res := .next (s.tlp.qCtlWrite q (v &&& ~~~1))
/-- Q_RESUME (R295): a write of Q_CTL with RESUME 1. -/
def execQResume (q : Nat) (v : Word) (s : State) : Res := .next (s.tlp.qCtlWrite q (v ||| 2))
/-- CLEAR_ERR (R271): a write of Q_CTL with CLEAR_ERR 1. -/
def execClearErr (q : Nat) (v : Word) (s : State) : Res := .next (s.tlp.qCtlWrite q (v ||| 4))

/-- An EQ whose ENABLE is 0 and which holds nothing becomes DISABLED (R297). -/
def State.eqDrained (s : State) (e : Nat) : State :=
  s.updEq e (fun x => if !x.enable && x.st == .running && x.held.isEmpty then { x with st := .disabled } else x)

/-- A whole write of EQ_CTL (R273, R295, R297). -/
def State.eqCtl (s : State) (e : Nat) (v : Nat) : State :=
  s.updEq e (fun x =>
    let open_ := x.st == .disabled || x.st == .suspended
    let x := { x with irqEn := bit v 2, size := if open_ && 5 ≤ fld v 7 4 && fld v 7 4 ≤ 12 then fld v 7 4 else x.size, enable := bit v 0 }
    let x := if bit v 0 && x.st == .disabled then { x with st := .running, head := 0, tail := 0 } else x
    let x := if bit v 1 && x.st == .suspended then { x with st := .running } else x
    if !bit v 0 && x.st != .disabled && x.held.isEmpty then { x with st := .disabled } else x)

def State.eqCtlWrite (s : State) (e : Nat) (v : Word) : State := if s.domOn 45 then s.eqCtl e v.toNat else s

/-- EQ_ENABLE (R273). -/
def execEqEnable (e : Nat) (v : Word) (s : State) : Res := .next (s.tlp.eqCtlWrite e (v ||| 1))
/-- EQ_DISABLE (R297). -/
def execEqDisable (e : Nat) (v : Word) (s : State) : Res := .next (s.tlp.eqCtlWrite e (v &&& ~~~1))
/-- EQ_RESUME (R295). -/
def execEqResume (e : Nat) (v : Word) (s : State) : Res := .next (s.tlp.eqCtlWrite e (v ||| 2))

def State.eqHead (s : State) (e : Nat) (v : Word) : State := s.updEq e (fun x => { x with head := v })

/-- EQ_HEAD_WRITE (R297, R431). -/
def execEqHeadWrite (e : Nat) (v : Word) (s : State) : Res :=
  .next (if s.domOn 45 then s.tlp.eqHead e v else s.tlp.latch (eqRegA e 0x0C) v)

/-- PHASE of entry number c of a ring of 2^size entries: 1 in the first pass, then alternating (R267). -/
def phase (c : BitVec 32) (size : Nat) : Nat := b2n (c.toNat / 2 ^ size % 2 == 0)

/-- A completion entry (R266). -/
def completion (x : Queue) (q seq status : Nat) (recovered dup : Bool) (result : List Byte) : List Byte :=
  leBytes 8 seq ++ leBytes 2 (x.sqHead.toNat % 65536) ++ leBytes 2 status ++
    leBytes 1 (phase x.cqTail x.cqSize + 2 * q + 16 * b2n recovered + 32 * b2n dup) ++ zeros 3 ++ padTo 16 result

/-- Write one completion into the CQ, and signal its vector (R268, R373). -/
def State.postCpl (s : State) (q seq status : Nat) (recovered dup : Bool) (result : List Byte) : State :=
  let x := nth s.cp.queues q
  let a := x.cqBase.toNat + 32 * (x.cqTail.toNat % 2 ^ x.cqSize)
  let s := s.hostWrite a (completion x q seq status recovered dup result)
  let s := s.updQ q (fun x => { x with cqTail := x.cqTail + 1 })
  if x.irqEn then s.signal q else s

/-- CQ_FULL: posting waits (R268, R297). -/
def Queue.cqFull (x : Queue) : Bool := 2 ^ x.cqSize ≤ (x.cqTail - x.cqHead).toNat

/-- Post the next completion the queue owes, once its CQ has room (R268, R271, R291). -/
def State.cqPost (s : State) (q : Nat) : State :=
  let x := nth s.cp.queues q
  if x.st == .suspended || x.st == .disabled || x.cqFull || !s.busOk || !s.domOn 45 then s
  else
    let overrun : State :=
      match x.overrunDue with
      | v :: rest =>
        ((s.postCpl q x.lastSeq.toNat QUEUE_OVERRUN false false (leBytes 4 v.toNat)).updQ q (fun x => { x with overrunDue := rest })).drained q
      | [] => s
    match s.cp.current q with
    | none => overrun
    | some e =>
      let seq := pktSeq e.pkt
      if e.rollbackDue then
        (s.postCpl q seq ROLLED_BACK_REQUEUED true e.dup []).updJ e.idx (fun e => { e with rollbackDue := false })
      else match e.acceptedDue with
        | some r => (s.postCpl q seq ACCEPTED e.recovered e.dup r).updJ e.idx (fun e => { e with acceptedDue := none })
        | none =>
          if e.finalDue then
            (s.postCpl q seq e.status e.recovered e.dup e.result).updJ e.idx (fun e => { e with posted := true, cqPos := x.cqTail })
          else overrun

/-- An event record as it is written to its EQ (R277). -/
def eventRecord (x : EventQueue) (e : Nat) (ev : Event) : List Byte :=
  leBytes 1 ev.type ++ leBytes 1 (phase x.tail x.size + 2 * e + 8 * b2n ev.tag.isSome + 16 * b2n ev.lostBefore) ++
    leBytes 2 ev.source ++ leBytes 2 (ev.tag.getD 0) ++ leBytes 2 ev.seq ++ leBytes 8 ev.tb.toNat ++ padTo 16 ev.payload

/-- EVENT_POST (R280): post the oldest held event of the EQ, once there is room. -/
def execEventPost (e : Nat) (s : State) : Res :=
  let x := nth s.cp.eqs e
  if x.st ≠ .running || 2 ^ x.size ≤ (x.tail - x.head).toNat || !s.busOk || !s.domOn 45 then .next s
  else match x.held with
    | [] => .next s
    | ev :: rest =>
      let a := x.base.toNat + 32 * (x.tail.toNat % 2 ^ x.size)
      let s := s.hostWrite a (eventRecord x e ev)
      let s := s.updEq e (fun x => { x with held := rest, tail := x.tail + 1 })
      let s := if x.irqEn then s.signal (8 + e) else s
      .next (s.eqDrained e)

/-- One latched write applied (R431). -/
def State.applyLatched (s : State) (l : Latched) : State :=
  if l.addr < 0xA000 then
    let q := (l.addr - 0x8000) / 0x80
    if l.addr % 0x80 = 0x14 then s.doorbell q l.val else s.consume q l.val
  else s.eqHead ((l.addr - 0xA000) / 0x40) l.val

/-- LATCHED_WRITES_APPLY (R431): once PD45 runs, the latched writes apply in order. -/
def execLatchedWritesApply (s : State) : Res :=
  if !s.domOn 45 || s.cp.st ≠ .running then .next s
  else
    let s := forEach s.pwr.latched s (fun s l => s.applyLatched l)
    .next (s.updPwr (fun p => { p with latched := [], wakePend := false }))

end Sys2Proof.Machine
end

