-- ==== Sys2Proof/Machine/Commit.lean ====
section
/-! DEFINITION. Commit units: the shadow view, staging, COMMIT and the application of a generation (R20 to R36, R41, R308). -/

namespace Sys2Proof.Machine

/-- A group is armed or streaming (R35, R314). -/
def State.armed (s : State) (g : Nat) : Bool := (nth s.rsv.grp g).run.isSome

/-- The unit a MEMBER value names (R20, R159). -/
def memberUnit (v : Nat) : Nat := if bit v 5 then fld v 4 0 else 32

/-- The staged value a unit holds for a register, where its staging set counts. -/
def CUnit.stagedAt (u : CUnit) (st : Bool) (a : Nat) : Option Word := if st then kget u.staged a else none
/-- The value of a unit's newest pending generation that holds a register (R25). -/
def CUnit.pendAt (u : CUnit) (a : Nat) : Option Word := u.pend.reverse.findSome? (fun g => kget g.regs a)

/-- The unit that holds channel n in the active view. -/
def State.activeUnit (s : State) (n : Nat) : Nat := memberUnit (s.reg (memberA n))

/-- The channel whose unit a register belongs to; none for a unit's own register. -/
def regChan (a : Nat) : Option Nat :=
  match (shReg a).map ShReg.owner with
  | some (.chan n) => some n
  | some (.quad q) => some (4 * q)
  | some (.unit _) => none
  | none => if 0x1000000 ≤ a then some ((a - 0x1000000) / 3072) else none

/-- Units whose staging sets may hold a register, the one that staged it last first (R23, R26). -/
def State.stagers (s : State) (a : Nat) : List Nat := (s.cp.stageOrd.filter (fun p => p.1 == a)).map Prod.snd ++ List.range 36

/-- The staged value of a register among the staging sets that `st` admits, the last staged first (R23). -/
def State.stagedIn (s : State) (st : Nat → Bool) (a : Nat) : Option Word := (s.stagers a).findSome? (fun u => (nth s.units u).stagedAt (st u) a)

/-- The value of the newest pending generation, of whichever unit, that holds a register (R23). -/
def State.pendIn (s : State) (a : Nat) : Option Word :=
  (s.cp.genOrd.findSome? (fun (u, k) => ((nth s.units u).pend.find? (fun g => g.num == k)).bind (fun g => kget g.regs a))).orElse
    (fun _ => (List.range 36).findSome? (fun u => (nth s.units u).pendAt a))

/-- A register's value once the pending changes, and the staging sets that `st` admits, have applied (R23): a staged one, else the newest
pending one, else the active one. -/
def State.view (s : State) (st : Nat → Bool) (a : Nat) : Nat :=
  match (s.stagedIn st a).orElse (fun _ => s.pendIn a) with
  | some v => v.toNat
  | none =>
    let v := s.reg a
    if 0x50000 ≤ a ∧ a < 0x60000 ∧ a % 0x200 = 0 then
      match (nth s.weir ((a - 0x50000) / 0x200)).defer with
      | some b => setFld v 1 1 b
      | none => v
    else v

/-- The unit a register is staged into (R21): that of its channel's membership in the shadow view. -/
def State.unitOf (s : State) (a : Nat) : Nat :=
  match regChan a with
  | some n => memberUnit (s.view (fun _ => true) (memberA n))
  | none => match (shReg a).map ShReg.owner with | some (.unit u) => u | _ => 32

/-- The shadow view of an SH register (R23, R116). -/
def State.shadow (s : State) (a : Nat) : Nat := s.view (fun _ => true) a

/-- A register as pending generation k (1 or 2) of its unit leaves it; none when the unit holds fewer (R25, R305). DESIGN CHOICE: while a
move of its channel is staged or pending, its unit is the one the shadow view names (notes/assumptions/106.md). -/
def State.pendView (s : State) (k a : Nat) : Option Nat :=
  let u := nth s.units (s.unitOf a)
  if u.pend.length < k then none
  else match (u.pend.take k).reverse.findSome? (fun g => kget g.regs a) with
    | some v => some v.toNat
    | none => some (s.reg a)

/-- Put one register into the staging set of its unit (R26). -/
def State.stage1 (s : State) (a v : Nat) : State :=
  let u := s.unitOf a
  (s.updCp (fun c => { c with stageOrd := (a, u) :: c.stageOrd.filter (fun p => p != (a, u)) })).updUnit u
    (fun x => { x with staged := kput x.staged a (BitVec.ofNat 32 v) })

/-- Minimum DIV of an output's FORMAT and QUIET (R231, R490). -/
def minDiv (fmt : Nat) (quiet : Bool) : Nat :=
  let base := if fmt = 0 then 16 else if fmt = 1 then 52 else if fmt = 2 then 8 else 82
  if quiet then max base (if fmt = 3 then 205 else 52) else base

/-- An output's DIV and PHASE are within their limits (R231, R233, R490). -/
def outOk (cfg phase : Nat) : Bool :=
  minDiv (fld cfg 2 1) (bit cfg 3) ≤ fld cfg 19 4 && fld phase 22 0 < 128 * fld cfg 19 4

/-- The tap limit of a channel's selected bank (R110). -/
def tapLimit (weirCfg d : Nat) : Nat := if 2 ≤ d ∧ fld weirCfg 3 2 = 3 then min (96 * d) 1536 else 96

/-- R110 for channel n in the shadow view. -/
def State.tapsOk (s : State) (n : Nat) : Bool :=
  let w := s.shadow (weirA n 0)
  fld (s.shadow (weirA n (if bit w 1 then 0x10 else 0xC))) 10 0 ≤ tapLimit w (fld (s.shadow (weirA n 4)) 16 0)

/-- POL of an event's TYPE in range (R137): 3 is reserved, and 2 for PATTERN. -/
def evtOk (v : Nat) : Bool := fld v 6 5 < (if fld v 2 0 = 6 then 2 else 3)

/-- What R27, R110, R231, R408 and R490 check on the shadow values, for the registers a staging command touches. -/
def State.shadowOk (s : State) (a : Nat) : Bool :=
  if 0x2000 ≤ a ∧ a < 0x3000 then
    let k := (a - 0x2100) / 0x20
    outOk (s.shadow (outCfgA k)) (s.shadow (outPhaseA k))
  else if a = lampA 0 then
    let v := s.shadow a
    (if bit v 2 then 50 else 10) ≤ fld v 23 16 * fld v 15 8
  else if 0x40000 ≤ a ∧ a < 0x50000 then
    let g := (a - 0x40000) / 0x800
    if a % 0x800 = 4 ∨ a % 0x800 = 8 then s.shadow (trgA g 4) + 2 ^ 32 * s.shadow (trgA g 8) ≤ 2 ^ 40
    else if a % 0x800 = 0x60 ∨ a % 0x800 = 0x80 then evtOk (s.shadow a)
    else if 0x380 ≤ a % 0x800 ∧ a % 0x800 < 0x390 then s.tapsOk (4 * g + (a % 0x800 - 0x380) / 4)
    else true
  else if 0x50000 ≤ a ∧ a < 0x60000 ∧ a % 0x200 < 0x14 then s.tapsOk ((a - 0x50000) / 0x200)
  else true

/-- The domain of a register's block (R27). -/
def regDom (a : Nat) : Nat :=
  match shReg a with
  | some r => r.dom
  | none => if 0x1000000 ≤ a then 32 + (a - 0x1000000) / 3072 / 32 else 49

/-- A pair that changes a channel's membership while either group concerned is armed (R27). -/
def State.moveArmed (s : State) (a v : Nat) : Bool :=
  match (shReg a).map ShReg.owner with
  | some (.chan _) =>
    if 0x40000 ≤ a ∧ a < 0x50000 then
      let u := memberUnit (s.shadow a)
      let u' := memberUnit v
      u ≠ u' && (s.armed u || s.armed u')
    else false
  | _ => false

/-- Stage pairs in their order, each into its unit as the earlier ones leave it (R21, R26): the state, the units touched, and
whether a pair moves a channel of an armed group. -/
def stagePairs : State → List (Nat × Nat) → State × Nat × Bool
  | s, [] => (s, 0, false)
  | s, (a, v) :: rest =>
    let u := s.unitOf a
    let bad := s.moveArmed a v
    let (s', m, b) := stagePairs (s.stage1 a v) rest
    (s', m ||| 2 ^ u, bad || b)

/-- The distinct BAR0 registers of a list of pairs. -/
def distinctRegs (ps : List (Nat × Nat)) : Nat := ((ps.map Prod.fst).filter (· < 0x1000000)).eraseDups.length

/-- A staging command's end (R27, R306): all of its pairs, or a refusal that stages nothing. -/
def stageAll (s : State) (ps : List (Nat × Nat)) (extra : Nat) : CmdOut :=
  if !ps.all (fun (a, v) => 0x1000000 ≤ a || shValueOk a v) then refuse s PARAM_RANGE
  else
    let (s', mask, move) := stagePairs s ps
    if !ps.all (fun (a, _) => s'.shadowOk a) then refuse s PARAM_RANGE
    else if move || !ps.all (fun (a, _) => s.domOn (regDom a)) then refuse s STATE
    else .done s' OK (leBytes 4 (distinctRegs ps) ++ leBytes 5 mask ++ zeros 3 ++ leBytes 4 extra)

/-- Non-lead channels of a quad in a gang mode (R57). -/
def nonLeads (gang q : Nat) : List Nat :=
  if gang = 1 then [4 * q + 1, 4 * q + 3] else if gang = 2 then [4 * q + 1, 4 * q + 2, 4 * q + 3] else []

/-- R30, first case: some ganged quad has a non-lead channel in another unit than CH(4q). -/
def State.gangSplit (s : State) (st : Nat → Bool) : Bool :=
  (List.range 32).any (fun q =>
    (nonLeads (fld (s.view st (quadCfgA q)) 1 0) q).any (fun n =>
      memberUnit (s.view st (memberA n)) ≠ memberUnit (s.view st (memberA (4 * q)))))

/-- R30, second case: on top of every pending generation, the staging set moves a channel into or out of an armed group. -/
def State.stagedMoveArmed (s : State) (u : Nat) : Bool :=
  (nth s.units u).staged.any (fun (a, v) =>
    let old := memberUnit (s.view (fun _ => false) a)
    let new := memberUnit v.toNat
    0x40000 ≤ a && a < 0x50000 && 0x380 ≤ a % 0x800 && a % 0x800 < 0x390 && new ≠ old && (s.armed old || s.armed new))

/-- RESULT of COMMIT (R41). -/
def commitResult (gen flags u : Nat) (bnd : BitVec 64) : List Byte :=
  leBytes 2 gen ++ leBytes 1 flags ++ leBytes 1 u ++ zeros 4 ++ leBytes 8 bnd.toNat

/-- COMMIT APPLY (R30 to R34, R308). -/
def execCommitApply (q : Nat) (s : State) : Res :=
  runCmdSel s q 0x09 (fun p => rd p 16 1 ≠ 1) [(16, 1)] (fun p => pktIndex p ≤ 35 && rd p 16 1 == 0)
    (fun s e =>
      let u := pktIndex e.pkt
      let x := nth s.units u
      if s.gangSplit (fun k => k = u) then refuse s PARAM_RANGE
      else if s.stagedMoveArmed u then refuse s STATE
      else if 2 ≤ x.pend.length then refuse s NO_RESOURCE
      else
        let s := (s.updCp (fun c => { c with genOrd := (u, x.nextGen) :: c.genOrd.filter (fun p => p != (u, x.nextGen)) })).updUnit u (fun x =>
          { x with pend := x.pend ++ [{ num := x.nextGen, regs := x.staged }], staged := [], nextGen := (x.nextGen + 1) % 65536, discarded := false })
        .wait s (.commit u x.nextGen) (some (commitResult x.nextGen 0 u 0)))

/-- COMMIT DISCARD (R29, R308). -/
def execCommitDiscard (q : Nat) (s : State) : Res :=
  runCmdSel s q 0x09 (fun p => rd p 16 1 ≠ 0) [(16, 1)] (fun p => pktIndex p ≤ 35 && rd p 16 1 == 1)
    (fun s e =>
      let u := pktIndex e.pkt
      .done (s.updUnit u (fun x => { x with staged := [], discarded := false })) OK (zeros 3 ++ leBytes 1 u))

/-- The oldest pending generation of a unit has applied: it leaves the unit's sets, and the COMMIT that waits for it ends (R34, R36,
R41, R42). -/
def State.genDone (s : State) (u : Nat) (bnd : BitVec 64) (flags : Nat) : State :=
  match (nth s.units u).pend with
  | [] => s
  | g :: rest =>
    let s := (s.updCp (fun c => { c with genOrd := c.genOrd.filter (fun p => p != (u, g.num)) })).updUnit u
      (fun x => { x with pend := rest, lastGen := g.num, bnd := bnd })
    s.finishWaits (fun e => e.wait == some (.commit u g.num)) OK (fun _ => commitResult g.num flags u bnd)

/-- The registers of a unit's oldest pending generation. -/
def State.nextRegs (s : State) (u : Nat) : List (Nat × Word) := ((nth s.units u).pend.head?.map Gen.regs).getD []

/-- Put registers into the active set. -/
def State.putRegs (s : State) (regs : List (Nat × Word)) : State := forEach regs s (fun s (a, v) => s.setReg a v)

/-- Take the oldest pending generation of a unit into the active set (R34, R36). -/
def State.applyGen (s : State) (u : Nat) (bnd : BitVec 64) : State := (s.putRegs (s.nextRegs u)).genDone u bnd 0

end Sys2Proof.Machine
end

