-- ==== Sys2Proof/Machine/Weir.lean ====
section
/-! DEFINITION. Gang modes and invalid windows (R57 to R66), and each channel's Weir: filter banks, fades, decimation, restarts and
what a boundary does to a channel (R104 to R125). A sample number counts the lead's samples from `State.now` 0. -/

namespace Sys2Proof.Machine

/-- The active gang mode of quad q (R57). -/
def State.gang (s : State) (q : Nat) : Nat := s.regF (quadCfgA q) 1 0
/-- Samples per Ts of channel n's path: 1, 2 or 4 (R57). -/
def State.rate (s : State) (n : Nat) : Nat := 2 ^ s.gang (n / 4)
/-- Channel n is in ×1 or is a lead channel (R57, R59). -/
def leadIn (gang n : Nat) : Bool := n % 2 ^ gang == 0
def State.lead (s : State) (n : Nat) : Bool := leadIn (s.gang (n / 4)) n
/-- Channel n produces samples (R59). -/
def State.produces (s : State) (n : Nat) : Bool := s.regB (chCfgA n) 0 && s.lead n
/-- Converters behind channel n, in order (R57, R58). -/
def State.converters (s : State) (n : Nat) : List Nat := (List.range (s.rate n)).map (n + ·)
/-- Channels whose active MEMBER names unit u (R20, R130). -/
def State.unitChans (s : State) (u : Nat) : List Nat := allBelow 128 (fun n => s.activeUnit n == u)
/-- Members of group g that produce samples, ascending (R171). -/
def State.members (s : State) (g : Nat) : List Nat := (s.unitChans g).filter s.produces

/-! ### Windows -/

/-- Open a converter window of w Ts on channel n now: the union of R63 at the converter, and the stage-3 samples of R122. -/
def State.openWindow (s : State) (n w : Nat) : State :=
  let d := s.regF (weirA n 8) 27 12
  (s.updAcqCh n (fun c => { c with invEnd := max c.invEnd (s.now + w), windows := (s.now, s.now + w) :: c.windows })).updWeir n (fun x => { x with invEnd := max x.invEnd (s.now + w + d) })

/-- The converters behind channel n run: it produces samples, and its quad is powered, READY and started (R59, R67, R70). -/
def State.runs (s : State) (n : Nat) : Bool :=
  s.produces n && s.domOn (n / 4) && (nth s.acq.quads (n / 4)).ready && !(nth s.acq.quads (n / 4)).startDue

/-- The channel's stream begins now, goes on, or stops, as its converters run or not; `fresh` says that it begins anew (R52, R57, R59). -/
def State.setLive (s : State) (n : Nat) (fresh : Bool) : State :=
  let on := s.runs n
  let begins := on && (fresh || (nth s.acq.ch n).deadAt.isSome)
  let s := if begins then s.updWeir n (fun x => { x with satTo := s.now * s.rate n }) else s
  s.updAcqCh n (fun c =>
    let c := if fresh || begins then { c with liveAt := s.now, stream := {}, ovrEnd := c.ovrLast } else c
    if !on then { c with deadAt := some (c.deadAt.getD s.now), clamp := false }
    else if begins then { c with deadAt := none, clamp := false }
    else c)

/-- What is in force, until an instant (R36, R80, R151, R226). -/
def State.inForce (s : State) (till : Nat) : Past :=
  { till := till, cfg := s.cfg, weir := s.weir, cal := s.acq.cal, calEpoch := s.acq.unitEpoch,
    base := (List.range 32).map (fun g => ((s.tbOf g).toNat : Int) - s.now), epoch := (List.range 32).map s.grpEpoch }

/-- Remember what is in force before a change made now. -/
def State.remember (s : State) : State :=
  if (s.past.head?.map Past.till) == some s.now then s else { s with past := s.inForce s.now :: s.past }

/-- Everything remembered, what is in force now included. -/
def State.history (s : State) : List Past :=
  if (s.past.head?.map (fun p => decide (s.now < p.till))).getD false then s.past else s.inForce (s.now + 1) :: s.past

/-- The state with what was in force before an instant; what is in force now stays known. -/
def State.before (s : State) (p : Past) : State :=
  { s with past := s.history, cfg := p.cfg, weir := p.weir, acq := { s.acq with cal := p.cal, unitEpoch := p.calEpoch },
           tb := { s.tb with grpOfs := p.base.map (fun b => b + s.now - s.tb.count.toNat), grpEpoch := p.epoch.map some } }

/-- The state with what was in force at an instant. -/
def State.asOf (s : State) (t : Nat) : State :=
  match (s.past.takeWhile (fun p => t < p.till)).getLast? with
  | some p => s.before p
  | none => s

/-- Run something as at an instant, and go on with what is in force now. -/
def State.under (s : State) (t : Nat) (f : State → State) : State :=
  let v := f (s.asOf t)
  { v with past := v.past.filter (fun p => p.till ≤ s.now), cfg := s.cfg, weir := s.weir, acq := s.acq, tb := s.tb }

/-- Ts left of channel n's converter window (CH_INV_REMAIN). -/
def State.invRemain (s : State) (n : Nat) : Nat := (nth s.acq.ch n).invEnd - s.now

/-! ### Filter banks and modes -/

/-- D and DEC_MODE of channel n. -/
def State.dec (s : State) (n : Nat) : Nat := s.regF (weirA n 4) 16 0
def State.decMode (s : State) (n : Nat) : Nat := s.regF (weirA n 0) 3 2
/-- DEC_MODE FIR at D ≥ 2: stages 3 and 4 are one polyphase filter (R104). -/
def firDec (d mode : Nat) : Bool := 2 ≤ d && mode == 3
/-- Stage 3 runs the user FIR (R112). -/
def runsFir (cfg d : Nat) : Bool := bit cfg 0 || firDec d (fld cfg 3 2)
/-- The block format written: true 16-bit (R11, R118). -/
def State.fmt16 (s : State) (n : Nat) : Bool := s.regB (weirA n 0) 4 && 2 ≤ s.dec n && (s.decMode n != 1 || 4 ≤ s.dec n)
/-- Samples per block (R168). -/
def State.perBlock (s : State) (n : Nat) : Nat := if s.fmt16 n then 30 else 40
/-- Delivered samples per interval of D: 2 in PEAK at D ≥ 2 (R117). -/
def State.perInterval (s : State) (n : Nat) : Nat := if s.decMode n == 1 && 2 ≤ s.dec n then 2 else 1
/-- Spacing of delivered samples, in Ts (R142). -/
def State.spacing (s : State) (n : Nat) : Rat := (s.dec n : Rat) / (s.rate n * s.perInterval n : Nat)
/-- Index latency Λ (R104). -/
def State.latency (s : State) (n : Nat) : Nat := if s.dec n = 1 then 368 else 384
/-- TAPS of a bank. -/
def State.taps (s : State) (n b : Nat) : Nat := s.regF (weirA n (if b = 0 then 0xC else 0x10)) 10 0
def State.shift (s : State) (n b : Nat) : Nat := s.regF (weirA n (if b = 0 then 0xC else 0x10)) 19 16
def State.coefs (s : State) (n b : Nat) : List Int := (List.range (s.taps n b)).map (fun k => sgn 18 (s.reg (coefA n b k)))

/-- `State.now` at which bank b of a channel began its run. -/
def WeirCh.run (x : WeirCh) (b : Nat) : Option Nat := if b = 0 then x.runA else x.runB
/-- Bank b is warm at `State.now` (R113): it has run on the channel's stream for TAPS − 1 stage-3 samples. -/
def State.warm (s : State) (n b : Nat) : Bool :=
  match (nth s.weir n).run b with
  | some t => s.taps n b - 1 ≤ ((nth s.acq.ch n).deadAt.getD s.now - t) * s.rate n
  | none => false

/-- The sample number of the first fused output with last input at or after an instant, on the present grid (R114, R117). -/
def fusedFrom (g d originNow t : Nat) : Nat :=
  let first := originNow * g + d - 1
  first + cdiv (t * g - first) d * d

/-- The sample number of the last mixed sample of a fade (R114). -/
def fadeLast (g d mode originNow : Nat) (f : Fade) : Nat :=
  if firDec d mode then fusedFrom g d originNow f.start + (f.len - f.done) * d - d
  else f.start * g + (f.len - f.done) - 1

/-- The number in its fade of the mixed sample at a sample number, once the fade has begun (R114). -/
def fadeIndex (g d mode originNow : Nat) (f : Fade) (i : Nat) : Option Nat :=
  let from_ := if firDec d mode then fusedFrom g d originNow f.start else f.start * g
  if i < from_ then none else some (f.done + (if firDec d mode then (i - from_) / d else i - from_))

/-- A decimation change inside a fade: the mixed samples so far are counted, and the fade goes on in the samples of the new grid (R114). -/
def Fade.regrid (f : Fade) (g d mode originNow now : Nat) : Fade :=
  let done := if firDec d mode then (now * g - fusedFrom g d originNow f.start + d - 1) / d else now * g - f.start * g
  { f with start := now, done := min f.len (f.done + done) }

/-- A fade of channel n is running at a boundary now: its last mixed sample is stamped at or after it (R114). -/
def State.fading (s : State) (n : Nat) : Bool :=
  let x := nth s.weir n
  match x.fade with
  | some f => !f.ended && f.done < f.len && s.now * s.rate n ≤ fadeLast (s.rate n) (s.dec n) (s.decMode n) x.originNow f
  | none => false

/-! ### Restarts -/

/-- A synchronising reset of channel n now (R120), with the invalid samples of R123. `stage3` says whether the FIR histories take
part; both banks run afresh where they run at all (R112, R113). -/
def State.restart (s : State) (n : Nat) (sync stage3 : Bool) : State :=
  let cfg := s.reg (weirA n 0)
  let runs := runsFir cfg (s.dec n)
  let sel := b2n (bit cfg 1)
  let f := if runs && !firDec (s.dec n) (fld cfg 3 2) && stage3 then s.taps n sel - 1 else 0
  let v := (if sync then 15 else 0) + f
  let standby := runs && fld cfg 28 16 ≠ 0
  s.updWeir n (fun x =>
    let x := { x with originTb := s.stampTb (s.activeUnit n) s.now, originNow := s.now,
                      restEnd := max x.restEnd (4096 * s.now + 4096 * v / s.rate n), fade := if sync then none else x.fade,
                      fracNow := if sync then s.now else x.fracNow }
    if stage3 then
      { x with histNow := s.now, runA := if runs && (sel = 0 || standby) then some s.now else none,
               runB := if runs && (sel = 1 || standby) then some s.now else none }
    else x)

/-- A synchronising reset (R120). -/
def State.syncReset (s : State) (n : Nat) : State := s.restart n true true

/-! ### What a boundary does to a channel's Weir (R39, R112 to R119) -/

/-- A generation's registers hold a changed coefficient or TAPS of bank b of channel n (s0: the state before). -/
def bankChanged (s0 : State) (regs : List (Nat × Word)) (n b : Nat) : Bool :=
  regs.any (fun (a, v) => v.toNat ≠ s0.reg a &&
    (((coefA n b 0 ≤ a && a < coefA n b 1536)) ||
      (a == weirA n (if b = 0 then 0xC else 0x10) && fld v.toNat 10 0 ≠ s0.taps n b)))

/-- What the boundary found for one channel: COMMIT flags of R41. -/
structure Flags where
  deferred : Bool := false
  replaced : Bool := false
  deriving DecidableEq, Repr, Inhabited

/-- Set BANK_SEL of the active WEIR_CFG. -/
def State.setBank (s : State) (n b : Nat) : State :=
  s.setReg (weirA n 0) (BitVec.ofNat 32 (setFld (s.reg (weirA n 0)) 1 1 b))

/-- Where the new bank selection comes from at a boundary outside a fade: the generation, else a held swap, else no change. -/
def wantedBank (s0 s : State) (regs : List (Nat × Word)) (n : Nat) : Nat :=
  if (kget regs (weirA n 0)).isSome then s.regF (weirA n 0) 1 1
  else ((nth s.weir n).defer).getD (s0.regF (weirA n 0) 1 1)

/-- The banks' runs after a boundary without restart of stage 3 (R113). -/
def State.standby (s : State) (n : Nat) (cold : Nat → Bool) : State :=
  let cfg := s.reg (weirA n 0)
  let runs := runsFir cfg (s.dec n)
  let sel := b2n (bit cfg 1)
  let fading := s.fading n
  let r (x : WeirCh) (b : Nat) : Option Nat :=
    if !runs then none
    else if b = sel || fld cfg 28 16 ≠ 0 || fading then (if cold b then some s.now else some ((x.run b).getD s.now))
    else none
  s.updWeir n (fun x => { x with runA := r x 0, runB := r x 1 })

/-- Every cause of a synchronising reset but a filter change, between two states (R120). -/
def otherSync (s0 s : State) (n : Nat) : Bool :=
  fld (s0.reg (weirA n 0)) 15 8 ≠ fld (s.reg (weirA n 0)) 15 8 || s0.reg (weirA n 8) ≠ s.reg (weirA n 8) ||
    s0.gang (n / 4) ≠ s.gang (n / 4) || (!s0.regB (chCfgA n) 0 && s.regB (chCfgA n) 0)

/-- A boundary inside a fade that goes on: BANK_SEL is held back (R39, R115, R116). -/
def deferBank (s0 s : State) (regs : List (Nat × Word)) (n : Nat) : State × Flags :=
  let b0 := s0.regF (weirA n 0) 1 1
  match kget regs (weirA n 0) with
  | none => (s, {})
  | some v =>
    let b := b2n (bit v.toNat 1)
    let s := s.setBank n b0
    if (nth s.weir n).defer.isSome then
      (s.updWeir n (fun x => { x with defer := some b, deferCnt := satAdd 65535 x.deferCnt 1, deferRepl := satAdd 65535 x.deferRepl 1 }),
        { deferred := true, replaced := true })
    else if b = b0 then (s, {})
    else (s.updWeir n (fun x => { x with defer := some b, deferCnt := satAdd 65535 x.deferCnt 1 }), { deferred := true })

/-- A boundary outside a fade, or one that ends it: the wanted bank takes over, as a fade or as a filter change, and restarts
follow (R112, R114, R116, R119, R120). -/
def swapBank (s0 s : State) (regs : List (Nat × Word)) (n : Nat) (sync : Bool) : State :=
  let cfg0 := s0.reg (weirA n 0)
  let b0 := b2n (bit cfg0 1)
  let want := wantedBank s0 s regs n
  let s := (s.setBank n want).updWeir n (fun x => { x with defer := none, fade := none })
  let cfg := s.reg (weirA n 0)
  let runs0 := runsFir cfg0 (s0.dec n)
  let runs := runsFir cfg (s.dec n)
  let xl := fld cfg 28 16
  let cold := bankChanged s0 regs n
  let starts := runs && !runs0
  let swap := runs && want ≠ b0
  let fades := swap && !sync && !starts && xl ≠ 0 && !cold want && s.warm n want
  let change := starts || (runs && cold want) || (swap && !fades)
  let s := if swap && !fades && xl ≠ 0 then s.updWeir n (fun x => { x with fadeSkip := satAdd 65535 x.fadeSkip 1 }) else s
  if sync || change then s.syncReset n
  else
    let s := if fades then s.updWeir n (fun x => { x with fade := some { fromBank := b0, len := xl, start := s.now } }) else s
    s.standby n cold

/-- Decimation change and its restart (R119); a fade that goes on is counted on (R114). -/
def decChange (s0 s : State) (n : Nat) : State :=
  let ch := s0.dec n ≠ s.dec n || (s0.decMode n ≠ s.decMode n && 2 ≤ s.dec n)
  let o := (nth s0.weir n).originNow
  let s := if ch then s.updWeir n (fun x => { x with fade := x.fade.map (fun f =>
    if f.start < s.now then f.regrid (s0.rate n) (s0.dec n) (s0.decMode n) o s.now else f) }) else s
  if ch then s.restart n false (firDec (s0.dec n) (s0.decMode n) || firDec (s.dec n) (s.decMode n)) else s

/-- Everything a boundary does to the Weir of channel n (R112 to R120): s0 before, s with the generation's registers put. A channel that
the boundary makes non-lead ends its fade there, and the wanted bank, a held swap among them, is selected (R115, R116, R120, R125). A swap
whose generation also restarts the filter by a decimation change begins its fade on the warmth before the restart (DESIGN CHOICE, log 80). -/
def weirBoundary (s0 s : State) (regs : List (Nat × Word)) (n : Nat) : State × Flags :=
  if !s.lead n then ((s.setBank n (wantedBank s0 s regs n)).updWeir n (fun x => { x with fade := none, defer := none }), {})
  else
    let inB := s0.regF (weirA n 0) 1 1
    let fading := s0.fading n
    let sync := otherSync s0 s n || (fading && bankChanged s0 regs n inB)
    let cut := fading && !sync && bankChanged s0 regs n (1 - inB)
    let begins := runsFir (s.reg (weirA n 0)) (s.dec n) && !runsFir (s0.reg (weirA n 0)) (s0.dec n)
    if fading && !sync && !cut && !begins then
      let (s, fl) := deferBank s0 s regs n
      (decChange s0 (s.standby n (bankChanged s0 regs n)) n, fl)
    else
      let s := if cut then s.updWeir n (fun x => { x with fadeCut := satAdd 65535 x.fadeCut 1 }) else s
      let s := swapBank s0 s regs n sync
      (if (nth s.weir n).originNow = s.now && sync then s else decChange s0 s n, {})

/-- FADE_END (R114): the last mixed sample has passed; the new bank runs alone, the old one only in warm standby. -/
def execFadeEnd (n : Nat) (s : State) : Res :=
  match (nth s.weir n).fade with
  | some f =>
    if f.ended || s.fading n then .next s
    else .next ((s.updWeir n (fun x => { x with fade := some { f with ended := true } })).standby n (fun _ => false))
  | none => .next s

end Sys2Proof.Machine
end

