-- ==== Sys2Proof/Machine/Scan.lean ====
section
/-! DEFINITION. Lantern's raster and scan-out as operations: passes, composition, line 0 of a frame, and the link capacity
(R383 to R393, R398). -/

namespace Sys2Proof.Machine

/-- POND_MODE of channel n. -/
def State.pondMode (s : State) (n : Nat) : Nat := s.regF (pondA n 0) 1 0

/-- Byte address in Pond of bin (c, r) of channel n's map (R202, R204). -/
def binAddr (n c r : Nat) : Nat := 0x80000 * (if r < 256 then n else n ^^^ 1) + 2 * (256 * c + r % 256)

/-! ### Active LTN fields (R403) -/

def State.rasterEn (s : State) : Bool := s.regB (ltnA 0) 1
/-- SCAN_SRC: 0 AUTO, else one more than the named buffer. -/
def State.scanSrc (s : State) : Nat := s.regF (ltnA 0) 3 2
def State.hActive (s : State) : Nat := s.regF (ltnA 8) 12 0
def State.vActive (s : State) : Nat := s.regF (ltnA 0x10) 12 0
/-- Lines of vertical blanking (R383). -/
def State.vBlank (s : State) : Nat := s.regF (ltnA 0x10) 23 16 + s.regF (ltnA 0x14) 7 0 + s.regF (ltnA 0x14) 23 16
def State.pixKhz (s : State) : Nat := s.regF (ltnA 4) 19 0
/-- First byte of buffer n (R388). -/
def State.fbBase (s : State) (n : Nat) : Nat := 0x180000000 + 4096 * s.regF (ltnA (0x18 + 4 * n)) 28 12
/-- Bytes of a frame. -/
def State.fbBytes (s : State) : Nat := 4 * (s.hActive * s.vActive)

/-! ### Composition (R388 to R391) -/

/-- A trace's fields (R403). -/
structure TraceCfg where
  en : Bool := false
  src : Nat := 0
  pal : Nat := 0
  shift : Nat := 0
  grid : Bool := false
  x : Nat := 0
  y : Nat := 0
  w : Nat := 1024
  h : Nat := 256
  deriving DecidableEq, Repr, Inhabited

def State.trace (s : State) (t : Nat) : TraceCfg :=
  let c := s.reg (ltnA (0x100 + 16 * t))
  let p := s.reg (ltnA (0x104 + 16 * t))
  let z := s.reg (ltnA (0x108 + 16 * t))
  { en := bit c 0, src := fld c 7 1, pal := fld c 9 8, shift := fld c 13 10, grid := bit c 14, x := fld p 12 0, y := fld p 28 16,
    w := fld z 12 0, h := fld z 28 16 }

/-- A trace contributes nothing (R391). -/
def State.traceSkips (s : State) (c : TraceCfg) : Bool := s.pondMode c.src != 3 || !s.lead c.src || !s.domOn 36

/-- The palette index of a pixel of a trace (R389). -/
def State.traceIndex (s : State) (c : TraceCfg) (dx dy : Nat) : Nat :=
  let rows := if s.regB (pondA c.src 0) 2 then 512 else 256
  let cLo := dx * 1024 / c.w
  let cHi := cdiv ((dx + 1) * 1024) c.w - 1
  let rLo := dy * rows / c.h
  let rHi := cdiv ((dy + 1) * rows) c.h - 1
  let bins := (List.range (cHi + 1 - cLo)).flatMap (fun i => (List.range (rHi + 1 - rLo)).map (fun j =>
    leNat (Mem.read s.pond.mem (binAddr c.src (cLo + i) (rLo + j)) 2)))
  min 255 (bins.foldl max 0 >>> c.shift)

/-- A coordinate lies on one of n + 1 grid lines across a length; a count of 0 gives none (R390). -/
def onGrid (n len d : Nat) : Bool := n != 0 && (List.range (n + 1)).any (fun j => d == min (len - 1) (j * len / n))

/-- A pixel of a frame (R388, R390). -/
def State.pixel (s : State) (x y : Nat) : Nat :=
  let gx := s.regF (ltnA 0x2C) 4 0
  let gy := s.regF (ltnA 0x2C) 12 8
  (List.range 16).foldl (fun px t =>
    let c := s.trace t
    if !c.en || s.traceSkips c || x < c.x || c.x + c.w ≤ x || y < c.y || c.y + c.h ≤ y then px
    else
      let dx := x - c.x
      let dy := c.y + c.h - 1 - y
      if c.grid && (onGrid gx c.w dx || onGrid gy c.h dy) then s.regF (ltnA 0x28) 23 0
      else
        let i := s.traceIndex c dx dy
        if i = 0 then px else s.regF (ltnA (0x1000 + 0x400 * c.pal + 4 * i)) 23 0) (s.regF (ltnA 0x20) 23 0)

/-- The bytes of a whole buffer (R388). -/
def State.raster (s : State) : List Byte :=
  (List.range s.vActive).flatMap (fun y => (List.range s.hActive).flatMap (fun x => leBytes 4 (s.pixel x y)))

/-! ### Passes and line 0 (R386, R387, R392, R393) -/

/-- A pass into a buffer begins; until it ends, what the buffer holds is undefined. -/
def State.startPass (s : State) (buf : Nat) : State :=
  (s.updLtn (fun l => { l with passRun := true, passHeld := false, passBuf := buf, passGen := (nth s.units 33).lastGen })).undefine
    (s.fbBase buf) s.fbBytes

/-- The buffer a pass draws into. -/
def State.drawBuf (s : State) : Nat := if s.scanSrc = 0 then 1 - s.ltn.shownBuf else 2 - s.scanSrc

/-- Line 0 of the next frame: what it shows, whether it is blank, and the next pass (R387, R392, R393). -/
def State.line0 (s : State) : State :=
  let auto := s.scanSrc = 0 && s.rasterEn
  let flip := auto && s.ltn.passReady
  let blank := s.ltn.blankNext || (auto && s.ltn.needPass)
  let s := s.updLtn (fun l =>
    { l with frameNum := satAdd 0xFFFFFFFF l.frameNum 1, line := 0, vblank := false, blank := blank, blankNext := false, short := [],
             repeatCnt := if auto && !flip && !blank then satAdd 65535 l.repeatCnt 1 else l.repeatCnt })
  if s.scanSrc ≠ 0 then s.updLtn (fun l => { l with shownBuf := s.scanSrc - 1, shownGen := l.bufGen.getD (s.scanSrc - 1) 0 })
  else if flip then
    let s := s.updLtn (fun l => { l with shownBuf := l.passBuf, shownGen := l.passGen, passReady := false })
    s.startPass (1 - s.ltn.shownBuf)
  else s

/-- The pixel both outputs carry at (x, y) of the present frame: 0 in a blank frame, BORDER_RGB past an underrun, else what the shown
buffer holds; a free byte where that is undefined (R383, R387, R388, R396). -/
def State.scanned (s : State) (x y : Nat) : Nat :=
  if s.ltn.blank then 0
  else if s.ltn.short.any (fun r => r.1 == y && r.2 ≤ x) then s.regF (ltnA 0x24) 23 0
  else
    let a := s.fbBase s.ltn.shownBuf + 4 * (y * s.hActive + x)
    leNat ((List.range 3).map (fun i => s.rsvByte (s.freeCtr + i) (a + i)))

/-! ### Links (R279, R387, R398, R399) -/

/-- Lane rates in kbit/s: RBR, HBR, HBR2, HBR3. PRESUMED: DisplayPort's own figures (notes/assumptions/51.md). -/
def laneKbps (rate : Nat) : Nat := [1620000, 2700000, 5400000, 8100000].getD rate 0

/-- A configuration (log2 lanes, rate) is permitted and carries the pixel rate (R398). -/
def State.linkFits (s : State) (lanes rate : Nat) : Bool :=
  decide (lanes ≤ s.regF (ltnA 0) 7 6) && decide (rate ≤ s.regF (ltnA 0) 9 8) && decide (240 * s.pixKhz ≤ laneKbps rate * 2 ^ lanes * 8)

/-- An output's LINK state changes: the DISPLAY_LINK event. -/
def State.dpTo (s : State) (k : Nat) (st : DpSt) : State :=
  if (nth s.ltn.dp k).st == st then s
  else
    let s := s.updDp k (fun d => { d with st := st, lossCnt := if st == .lost then satAdd 65535 d.lossCnt 1 else d.lossCnt })
    let d := nth s.ltn.dp k
    let up := d.st == .up
    s.event 0x40 k none s.tb.count
      [BitVec.ofNat 8 d.st.code, if up then BitVec.ofNat 8 d.lanes else 0, if up then BitVec.ofNat 8 d.rate else 0, BitVec.ofNat 8 (b2n d.hpd)]

/-- A link the active fields no longer allow retrains (R387). -/
def State.dpRefit (s : State) (k : Nat) : State :=
  let d := nth s.ltn.dp k
  if d.st == .up && !s.linkFits d.lanes d.rate then s.dpTo k .training else s

/-- Line 0 of the next frame, and the links that its timing no longer fits (R387, R398). -/
def State.newFrame (s : State) : State := forEach [0, 1] s.line0 State.dpRefit

end Sys2Proof.Machine
end

