-- ==== Sys2Proof/Machine/Path.lean ====
section
/-! DEFINITION. The path of a channel's samples: the converter (R48 to R55, R58, R88), interleave correction and fine delay (R80, R104,
R106), the user FIR with its fades, and the decimator (R109, R114, R117, R118, R121). Every consumer reads these samples (R10). A sample
number counts the lead's samples from `State.now` 0. -/

namespace Sys2Proof.Machine

/-- Round half away from zero. -/
def roundAway (q : Rat) : Int := if 0 ≤ q then (q + 1 / 2).floor else -((-q + 1 / 2).floor)

/-- Round and saturate to 16 bits: value, saturated (R109). -/
def sat16 (q : Rat) : Int × Bool :=
  let v := roundAway q
  (clampI (-32768) 32767 v, v < -32768 || 32767 < v)

/-! ### The converter (R48 to R53, R72) -/

/-- FS_eff of channel n in mVpp (R48). -/
def State.fsEff (s : State) (n : Nat) : Rat :=
  (100 * 2 ^ s.regF (chCfgA n) 2 1 : Nat) / (1 + (s.regF (chCfgA n) 14 5 : Rat) / 1024)
/-- Voff of channel n in mV (R49). -/
def State.vOff (s : State) (n : Nat) : Rat := (sgn 16 (s.reg (chOffsetA n)) : Rat) * s.fsEff n / 32768

/-- What the front end converts at sample i (R51): 0 the pins, 1 the calibration network, which SKEW_MEASURE selects for its channels
(R95), 2 a short. -/
def State.inputSel (s : State) (n i : Nat) : Nat :=
  if (nth s.acq.ch n).calSpans.meet (s.rate n) i i then 1 else s.regF (chCfgA n) 4 3

/-- The calibration network is driven at sample i of channel n: a SKEW_MEASURE runs (R95). -/
def State.networkOn (s : State) (n i : Nat) : Bool :=
  (List.range 128).any (fun m => (nth s.acq.ch m).calSpans.meet (s.rate n) i i)

/-- Vin of sample i of channel n in mV, `x` at the pins (R51): the idle calibration network gives 0 V. -/
def State.vin (s : State) (n i : Nat) (x : Rat) : Rat :=
  match s.inputSel n i with
  | 0 => x
  | 1 => if s.networkOn n i then Config.calNetwork n i else 0
  | _ => 0

/-- The converter-referred signal, 4,096 × (Vin + Voff)/FS_eff (R50, R53). -/
def State.referred (s : State) (n i : Nat) (x : Rat) : Rat := 4096 * (s.vin n i x + s.vOff n) / s.fsEff n

/-- State k of the dither LFSR of channel n (R88). -/
def lfsrAt (n : Nat) : Nat → Nat
  | 0 => n
  | k + 1 => Config.ditherNext (lfsrAt n k) % 2 ^ 31

/-- The dither sequence of channel n in LSB at its sample i, g samples per Ts (R88): chips of 4 Ts from the instant at which dither
turned on, of at most 0.45 LSB. -/
def State.dither (s : State) (n g : Nat) (i : Int) : Rat :=
  let c := nth s.acq.cal n
  if !c.ditherOn then 0
  else
    let q := (4 * i / (g : Int) - 4 * c.ditherAt).toNat
    let chip (k : Nat) : Bool := bit (lfsrAt n k) 0
    max (-9 / 20) (min (9 / 20) (Config.ditherEdge (chip (q / 16 - 1)) (chip (q / 16)) (q % 16)))

/-- The converter's sample of an unclipped code (R50). -/
def Conv.of (u : Int) : Conv :=
  if 2047 < u then { code := 2047, ovr := true } else if u < -2048 then { code := -2048, ovr := true } else { code := u }

/-- The converter's sample i of channel n (R50, R88). -/
def State.convert (s : State) (n i : Nat) (x : Rat) : Conv := Conv.of (roundAway (s.referred n i x + s.dither n (s.rate n) i))

/-- The clamp is engaged (R53). -/
def State.clamped (s : State) (n i : Nat) (x : Rat) : Bool := decide (3072 < s.referred n i x ∨ s.referred n i x < -3072)

/-- The status counters take in one sample of the counting period (R53, R72). -/
def AcqCh.count (c : AcqCh) (counts : Bool) (y : Conv) (clamp : Bool) : AcqCh :=
  let c := if counts then
    { c with ovrCnt := satAdd 0xFFFFFFFF c.ovrCnt (b2n y.ovr), max := Max.max c.max y.code, min := Min.min c.min y.code,
             clampCnt := satAdd 65535 c.clampCnt (b2n (clamp && !c.clamp)) } else c
  { c with clamp := clamp }

/-- The samples of a feed that the channel's stream does not hold yet (R52, R59): the number of the first, and the voltages. -/
def State.fresh (s : State) (f : Feed) : Nat × List Rat :=
  let c := nth s.acq.ch f.ch
  let g := s.rate f.ch
  let lo := f.start * g
  let first := max lo (c.liveAt * g)
  let first := if c.stream.first ≤ first && first ≤ c.stream.end_ && c.stream.xs ≠ [] then c.stream.end_ else first
  let hi := match c.deadAt with
    | some d => d * g
    | none => s.now * g + 1
  if !s.lead f.ch then (first, []) else (first, (f.samples.drop (first - lo)).take (hi - first))

/-- The converter takes the samples of a feed (R50, R53, R72): the stream goes on, or begins again where the feed leaves a gap. -/
def State.convertFeed (s : State) (f : Feed) : State :=
  let n := f.ch
  let g := s.rate n
  let (i0, xs) := s.fresh f
  if xs.isEmpty then s
  else
    let ys := xs.zipIdx.map (fun (x, k) =>
      let v := s.asOf ((i0 + k) / g)
      (v.convert n (i0 + k) x, v.clamped n (i0 + k) x, decide ((nth s.acq.ch n).period ≤ (i0 + k) / g)))
    let ends := (ys.zipIdx.filter (fun y => y.1.1.ovr)).map (fun y => 4 * (i0 + y.2) / g + 128)
    s.updAcqCh n (fun c0 =>
      let c := ys.foldl (fun c y => c.count y.2.2 y.1 y.2.1) { c0 with ovrLast := ends.foldl max c0.ovrLast }
      if c.stream.xs ≠ [] && c.stream.end_ = i0 then { c with stream := { c.stream with xs := c.stream.xs ++ ys.map Prod.fst } }
      else { c with stream := { first := i0, xs := ys.map Prod.fst }, ovrEnd := c0.ovrLast })

/-! ### Stage 1: interleave correction (R80, R90, R104, R320) -/

/-- TB_COUNT less `State.now` at an instant: as it stood before the steps and gates made since (R55, R226). -/
def State.tbBase (s : State) (t : Int) : Int :=
  match (s.tb.bases.takeWhile (fun p => t < p.1)).getLast? with
  | some p => p.2
  | none => (s.tb.count.toNat : Int) - s.now

/-- The position of the channel's interleave that takes its sample i, by the sample's own index when it was taken (R55, R58). -/
def State.positionOf (s : State) (n : Nat) (i : Int) : Nat :=
  let g := s.rate n
  ((i + g * s.tbBase (i / (g : Int))) % (64 * g : Nat)).toNat

/-- A two's complement coefficient of a set's position record (R320). -/
def setCoef (key k off size : Nat) : Int := sgn (8 * size) (leNat ((List.range size).map (fun b => Config.calCoef key k (off + b))))

/-- One sample as its position's offset and gain correction leave it, in LSB (R320). -/
def corrected (key k : Nat) (code : Int) : Rat :=
  (code + (setCoef key k 0 4 : Rat) / 65536) * (1 + (setCoef key k 4 4 : Rat) / (2 ^ 30 : Nat))

/-- Tap k of a position's correction, SKEW_TAPS and BW_TAPS together (R320). -/
def setTap (key pos k : Nat) : Rat := ((setCoef key pos (8 + 2 * k) 2 + setCoef key pos (24 + 2 * k) 2 : Int) : Rat) / (2 ^ 15 : Nat)

/-- What the stages read: the samples of channel n and where they begin. -/
structure Src where
  n : Nat := 0
  g : Nat := 1
  live : Nat := 0
  first : Nat := 0
  ovrEnd : Nat := 0
  xs : Array Conv := #[]

/-- The converter samples of channel n. -/
def State.src (s : State) (n : Nat) : Src :=
  let c := nth s.acq.ch n
  { n := n, g := s.rate n, live := c.liveAt, first := c.stream.first, ovrEnd := c.ovrEnd, xs := c.stream.xs.toArray }

/-- A converter sample a to b is overrange, as R53 extends it over the 32 Ts after an overrange sample. -/
def Src.overrange (c : Src) (a b : Int) : Bool :=
  let from_ := (a - 32 * c.g - c.first).toNat
  (List.range ((b + 1 - c.first).toNat - from_)).any (fun k => (c.xs.getD (from_ + k) {}).ovr) ||
    decide (c.ovrEnd ≠ 0 ∧ max a c.first ≤ b ∧ 4 * max a c.first ≤ (c.g * c.ovrEnd : Nat))

/-- Code of converter sample i: none while the model has not been given it; what came before the stream is not known (R106). -/
def Src.code (c : Src) (i : Int) : Option Int :=
  if i < (c.live * c.g : Nat) then some (Config.stale c.n i)
  else if i < c.first then none
  else (c.xs[(i - c.first).toNat]?).map Conv.code

/-- The set in force at a channel's sample (R80). -/
def State.setFor (s : State) (n g : Nat) (i : Int) : Option CorrSet := (nth (s.asOf (i / (g : Int)).toNat).acq.cal n).active

/-- Stage 1 at sample i in 1/16 LSB, rounded and saturated to 16 bits (R80, R90, R104); with no set in force the samples pass as they are. -/
def State.interleaved (s : State) (c : Src) (i : Int) : Option Int :=
  let dith (j : Int) : Rat := (s.asOf (j / (c.g : Int)).toNat).dither c.n c.g j
  match s.setFor c.n c.g i with
  | none => (c.code i).map (fun x => (sat16 (16 * ((x : Rat) - dith i))).1)
  | some set =>
    let pos := s.positionOf c.n i
    ((List.range 8).mapM (fun (k : Nat) =>
      let j := i + 4 - (k : Int)
      (c.code j).map (fun x => setTap set.key pos k * (corrected set.key (s.positionOf c.n j) x - dith j)))).map
        (fun ys => (sat16 (16 * ys.sum)).1)

/-! ### Stage 2: fine delay (R106, R120) -/

/-- d of channel n (R106): whole lead samples, and the phase of 65,536 that remains. -/
def State.delay (s : State) (n : Nat) : Int × Nat :=
  let w := s.reg (weirA n 8)
  let corr := (((nth s.acq.cal n).active.map CorrSet.skewCorr).getD 0 : Int)
  let d : Int := fld w 27 12 * 65536 + fld w 11 0 * 16 + roundAway ((corr : Rat) * s.fs * 65536 / 10 ^ 15)
  ((d * s.rate n) / 65536, ((d * s.rate n) % 65536).toNat)

/-- Stage-1 samples below this number are zero-filled history of the fractional filter (R120, R123). -/
def State.zeroTo (s : State) (n : Nat) : Int := ((nth s.weir n).fracNow * s.rate n : Nat) - (s.delay n).1 + 7

/-- Stage 2 at sample i in 1/16 LSB (R106): phase 0 passes a sample as it is. -/
def State.delayed (s : State) (c : Src) (i : Nat) : Option Int :=
  let v := s.asOf (i / c.g)
  let (sh, ph) := v.delay c.n
  let zero := v.zeroTo c.n
  let x (j : Int) : Option Int := if j < zero then some 0 else s.interleaved c j
  if ph = 0 then x (i - sh)
  else ((List.range 16).mapM (fun (k : Nat) => (x (i - sh + 7 - (k : Int))).map (fun y => Config.fracTap ph k * (y : Rat)))).map (fun ys => (sat16 ys.sum).1)

/-- A run of stage-2 samples, from a number on. -/
structure Xs where
  first : Nat := 0
  xs : Array Int := #[]
  deriving Inhabited

/-- Stage-2 samples `lo` to `hi` − 1; none while a converter sample they need is not known. -/
def State.stage2s (s : State) (c : Src) (lo hi : Nat) : Option Xs :=
  ((List.range (hi - lo)).mapM (fun k => s.delayed c (lo + k))).map (fun ys => { first := lo, xs := ys.toArray })

/-- A run of samples of channel n, cut where what is in force changes: first and last of each piece (R36). -/
def State.pieces (s : State) (g : Nat) (lo hi : Int) : List (Int × Int) :=
  let starts := lo :: ((s.past.map (fun p => ((p.till * g : Nat) : Int))).filter (fun c => lo < c && c ≤ hi)).reverse
  (starts.zip (starts.drop 1 ++ [hi + 1])).map (fun q => (q.1, q.2 - 1))

/-- The stage-1 samples behind the stage-2 samples lo to hi, under the delay in force at each (R54, R106). -/
def State.stage1Of (s : State) (c : Src) (lo hi : Int) : List (Int × Int) :=
  (s.pieces c.g lo hi).map (fun (a, b) =>
    let v := s.asOf (a / (c.g : Int)).toNat
    let (sh, ph) := v.delay c.n
    (max (a - sh - (if ph = 0 then 0 else 8)) (v.zeroTo c.n), b - sh + (if ph = 0 then 0 else 7)))

/-- The converter samples behind the stage-1 samples lo to hi: the correction's taps where a set is in force (R54, R104). -/
def State.convOf (s : State) (c : Src) (lo hi : Int) : List (Int × Int) :=
  (s.pieces c.g lo hi).map (fun (a, b) => if (s.setFor c.n c.g a).isSome then (a - 3, b + 4) else (a, b))

/-- OVR, TB_SLEW and POS_FAIL of what derives from stage-2 samples lo to hi (R53, R54, R93, R226): the converter samples behind them, a
failing position being one of any pooled converter. -/
def State.marks (s : State) (c : Src) (lo hi : Int) : Bool × Bool × Bool :=
  let spans := (((s.stage1Of c lo hi).filter (fun q => q.1 ≤ q.2)).flatMap (fun q => s.convOf c q.1 q.2))
  (spans.any (fun q => c.overrange q.1 q.2), spans.any (fun q => s.spr.slewSpans.meet c.g q.1 q.2),
    spans.any (fun q => (List.range c.g).any (fun m => (nth s.acq.cal (c.n + m)).failSpans.meet c.g q.1 q.2)))

/-! ### Stages 3 and 4 (R109, R114, R117, R118, R121) -/

/-- Stages 3 and 4 of one channel: sample numbers for instants. -/
structure Path where
  g : Nat := 1
  d : Nat := 1
  mode : Nat := 0
  fmt16 : Bool := false
  /-- Stage 3 filters at the input rate. -/
  fir : Bool := false
  sel : Nat := 0
  coefs : List (List Int) := []
  shift : List Nat := []
  fade : Option Fade := none
  /-- Samples before this number are history that a restart zero-filled. -/
  hist : Nat := 0
  origin : Nat := 0
  originNow : Nat := 0
  /-- Spans that begin before this stamp, in Ts/4,096, are invalid (R121). -/
  bad : Nat := 0
  deriving DecidableEq, Repr, Inhabited

/-- Stages 3 and 4 of channel n now. -/
def State.path (s : State) (n : Nat) : Path :=
  let x := nth s.weir n
  let g := s.rate n
  { g := g, d := s.dec n, mode := s.decMode n, fmt16 := s.fmt16 n,
    fir := s.regB (weirA n 0) 0 && !firDec (s.dec n) (s.decMode n), sel := s.regF (weirA n 0) 1 1,
    coefs := [s.coefs n 0, s.coefs n 1], shift := [s.shift n 0, s.shift n 1], fade := x.fade,
    hist := x.histNow * g, origin := x.originNow * g, originNow := x.originNow, bad := max (4096 * x.invEnd) x.restEnd }

/-- One delivered sample: stamp in Ts/4,096, value in 1/16 LSB as its format writes it, validity and marks. -/
structure OutSample where
  stamp : Nat := 0
  v : Int := 0
  valid : Bool := true
  ovr : Bool := false
  slew : Bool := false
  pos : Bool := false
  /-- A stage-3 sample behind it saturated (R109). -/
  sat : Bool := false
  /-- Its format saturated it (R118). -/
  fmtSat : Bool := false
  deriving DecidableEq, Repr, Inhabited

/-- The stage-2 sample with a number, 0 in zero-filled history (R119, R120). -/
def Path.at (p : Path) (x : Xs) (i : Int) : Int := if i < p.hist then 0 else x.xs.getD (i - x.first).toNat 0

/-- One bank's output at a sample number, before rounding (R109). -/
def Path.bank (p : Path) (x : Xs) (b : Nat) (i : Nat) : Rat :=
  let acc := (p.coefs.getD b []).zipIdx.foldl (fun a (c, k) => a + c * p.at x ((i : Int) - k)) (0 : Int)
  (acc : Rat) / (2 ^ (16 + p.shift.getD b 0) : Nat)

/-- The weight of the k-th mixed sample of a fade of length l, times 2^18 (R114). -/
def fadeWeight (k l : Nat) : Nat := ((k + 1) * 2 ^ 19 + (l + 1)) / (2 * (l + 1))

/-- The number in the running fade of the sample with a number, where it is mixed (R114). -/
def Path.mixed (p : Path) (i : Nat) : Option (Fade × Nat) :=
  p.fade.bind (fun f => match fadeIndex p.g p.d p.mode p.originNow f i with
    | some k => if k < f.len then some (f, k) else none
    | none => none)

/-- The user FIR at a sample number, with a running fade (R114). -/
def Path.filter (p : Path) (x : Xs) (i : Nat) : Rat :=
  match p.mixed i with
  | some (f, k) =>
    let w : Rat := (fadeWeight k f.len : Rat) / (2 ^ 18 : Nat)
    (1 - w) * p.bank x f.fromBank i + w * p.bank x p.sel i
  | none => p.bank x p.sel i

/-- A stage-3 sample: value in 1/16 LSB, saturated. -/
def Path.stage3 (p : Path) (x : Xs) (i : Nat) : Int × Bool := if p.fir then sat16 (p.filter x i) else (p.at x i, false)

/-- Write one value in the output format: value in 1/16 LSB, saturated (R118). -/
def Path.format (p : Path) (v : Int) : Int × Bool :=
  if !p.fmt16 then
    let c := roundAway ((v : Rat) / 16)
    (16 * clampI (-2048) 2047 c, c < -2048 || 2047 < c)
  else if p.mode ≤ 1 then
    let c := 16 * roundAway ((v : Rat) / 16)
    (clampI (-32768) 32752 c, c < -32768 || 32752 < c)
  else (clampI (-32768) 32767 v, v < -32768 || 32767 < v)

/-- How many stage-2 samples before its own the filter's output at a sample number reaches back (R54, R114). -/
def Path.reach (p : Path) (i : Nat) : Nat :=
  if p.fir || firDec p.d p.mode then
    let taps (b : Nat) := (p.coefs.getD b []).length
    max (taps p.sel) (match p.mixed i with | some (f, _) => taps f.fromBank | none => 0) - 1
  else 0

/-- The longest reach of the path while its fade runs. -/
def Path.longest (p : Path) : Nat :=
  if p.fir || firDec p.d p.mode then p.coefs.foldl (fun m c => max m c.length) 1 - 1 else 0

/-- The paths in force over a run of stage-3 samples: where each begins (R36, R38). -/
abbrev Paths := List (Nat × Path)

/-- The path in force at a stage-3 sample. -/
def Paths.at (ps : Paths) (i : Nat) : Path :=
  match (ps.takeWhile (fun q => q.1 ≤ i)).getLast? with
  | some q => q.2
  | none => (ps.headD (0, {})).2

/-- The first stage-2 sample that the stage-3 samples lo to hi derive from (R54). -/
def Paths.reach (ps : Paths) (lo hi : Nat) : Int :=
  (List.range (hi + 1 - lo)).foldl (fun (m : Int) k =>
    let p := ps.at (lo + k)
    min m (max ((lo + k : Nat) - (p.reach (lo + k) : Int)) p.hist)) lo

/-- A delivered sample from its value, its span of stage-3 samples lo to hi, and its stamp (R54, R121): the windows and restarts are those
that the path in force at the end of the span has. -/
def Path.deliver (p : Path) (ps : Paths) (mk : Int → Int → Bool × Bool × Bool) (stamp lo hi : Nat) (v : Int) (sat : Bool) : OutSample :=
  let (w, sat') := p.format v
  let (ovr, slew, pos) := mk (ps.reach lo hi) hi
  let last := ps.at hi
  let from_ := if firDec p.d p.mode then lo - last.reach hi else lo
  { stamp := stamp, v := w, valid := decide (last.bad ≤ 4096 * from_ / p.g), ovr := ovr || sat || sat', slew := slew, pos := pos, sat := sat, fmtSat := sat' }

/-- Stamp of a sample number, in Ts/4,096 (R58). -/
def Path.stampOf (p : Path) (i : Nat) : Nat := 4096 * i / p.g

/-- The delivered samples of one interval from sample number `lo`, at D ≥ 2 (R117): each stage-3 sample is that of the path in force at it. -/
def Path.interval (p : Path) (ps : Paths) (x : Xs) (mk : Int → Int → Bool × Bool × Bool) (lo : Nat) : List OutSample :=
  let hi := lo + p.d - 1
  if p.mode = 3 then
    let (v, sat) := sat16 ((ps.at hi).filter x hi)
    [p.deliver ps mk (p.stampOf hi) hi hi v sat]
  else
    let ys := (List.range p.d).map (fun j => (ps.at (lo + j)).stage3 x (lo + j))
    let sat := ys.any Prod.snd
    let vs := ys.map Prod.fst
    if p.mode = 0 then
      let (v, st) := (ps.at hi).stage3 x hi
      [p.deliver ps mk (p.stampOf hi) hi hi v st]
    else if p.mode = 1 then
      let mn := vs.foldl min (vs.headD 0)
      let mx := vs.foldl max (vs.headD 0)
      [p.deliver ps mk (4096 * (2 * lo + p.d - 2) / (2 * p.g)) lo hi mn sat, p.deliver ps mk (p.stampOf hi) lo hi mx sat]
    else
      let sum := vs.foldl (· + ·) (0 : Int)
      let mean : Int := if p.fmt16 then roundAway ((sum : Rat) / (p.d : Rat)) else 16 * roundAway ((sum : Rat) / (16 * p.d : Nat))
      [p.deliver ps mk (p.stampOf hi) lo hi mean sat]

/-- Everything the stage-3 samples `first` to `last` − 1 deliver (R104, R117). -/
def Path.outputs (p : Path) (ps : Paths) (x : Xs) (mk : Int → Int → Bool × Bool × Bool) (first last : Nat) : List OutSample :=
  if p.d ≤ 1 then
    (List.range (last - first)).map (fun j =>
      let (v, sat) := (ps.at (first + j)).stage3 x (first + j)
      p.deliver ps mk (p.stampOf (first + j)) (first + j) (first + j) v sat)
  else
    let m0 := cdiv (first - p.origin) p.d
    let k := (last - (p.origin + m0 * p.d)) / p.d
    (List.range k).flatMap (fun j => p.interval ps x mk (p.origin + (m0 + j) * p.d))

/-- The paths of channel n over its stage-3 samples `first` to `last` − 1, at g samples per Ts. -/
def State.paths (s : State) (n g first last : Nat) : Paths :=
  (s.pieces g first ((last : Int) - 1)).map (fun q => (q.1.toNat, (s.asOf (q.1.toNat / g)).path n))

/-- The first stage-2 sample that the stage-3 samples from `first` on may read; those before it are zero-filled history. -/
def Paths.start (ps : Paths) (first : Nat) : Nat := ps.foldl (fun m q => min m (max (first - q.2.longest) q.2.hist)) first

/-- What channel n delivers to the four consumers from its stage-3 samples `first` to `last` − 1, in the grid and format of `v`; none while
a converter sample it needs is not known (R10, R104, R119). -/
def State.delivers (s v : State) (n first last : Nat) : Option (List OutSample) :=
  let p := v.path n
  let c := s.src n
  let ps := s.paths n p.g first last
  (s.stage2s c (ps.start first) last).map (fun x => p.outputs ps x (s.marks c) first last)

/-! ### Delivered samples as numbers (R117, R142, R143) -/

/-- Delivered samples of channel n stamped before `t` (Ts/4,096), counted from the decimator origin. -/
def State.countLt (s : State) (n t : Nat) : Nat :=
  let o : Rat := (nth s.weir n).originNow * s.rate n
  let x : Rat := (t * s.rate n : Nat) / 4096 - o
  let d := s.dec n
  if d = 1 then x.ceil.toNat else (((x + 1) * s.perInterval n / d).ceil - 1).toNat

/-- Stamp in Ts/4,096 of delivered sample j, counted from the origin. -/
def State.stampAt (s : State) (n j : Nat) : Nat :=
  let o : Rat := (nth s.weir n).originNow * s.rate n
  let d := s.dec n
  let x : Rat := if d = 1 then o + j else o + ((j + 1) * d : Nat) / (s.perInterval n : Nat) - 1
  (4096 * x / s.rate n).floor.toNat

/-- The stage-3 samples behind `count` delivered samples of channel n from sample j on: the first, and the one after the last. -/
def State.inputsOf (s : State) (n j count : Nat) : Nat × Nat :=
  let o := (nth s.weir n).originNow * s.rate n
  let d := s.dec n
  let per := s.perInterval n
  if d ≤ 1 then (o + j, o + j + count) else (o + j / per * d, o + cdiv (j + count) per * d)

/-- `count` delivered samples of channel n from sample j on, under the configuration of `v`; none while one is not known. -/
def State.delivered (s v : State) (n j count : Nat) : Option (List OutSample) :=
  let (a, b) := v.inputsOf n j count
  (s.delivers v n a b).bind (fun xs =>
    let xs := (xs.drop (j - (if v.dec n ≤ 1 then j else j / v.perInterval n * v.perInterval n))).take count
    if xs.length = count then some xs else none)

/-! ### Counting saturation (R129) -/

/-- Stage-3 samples and outputs of channel n from sample a to b − 1 that saturated (R129). -/
def State.satOf (s : State) (n a b : Nat) : Option Nat :=
  let p := s.path n
  let c := s.src n
  let from_ := if p.d ≤ 1 then a else p.origin + (a - p.origin) / p.d * p.d
  let ps := s.paths n p.g from_ b
  (s.stage2s c (ps.start from_) b).map (fun x =>
    let outs := p.outputs ps x (fun _ _ => (false, false, false)) from_ b
    if p.d ≤ 1 || p.mode = 3 then outs.countP (fun y => y.sat || y.fmtSat)
    else (List.range (b - a)).countP (fun k => ((ps.at (a + k)).stage3 x (a + k)).2) + outs.countP OutSample.fmtSat)

/-- The first stage-3 sample of channel n that the present stream does not yet give (R104). -/
def State.knownTo (s : State) (n : Nat) : Nat :=
  let (sh, ph) := s.delay n
  let set := (nth s.acq.cal n).active.isSome
  (((nth s.acq.ch n).stream.end_ : Int) + sh - (if ph = 0 then 0 else 7) - (if set then 4 else 0)).toNat

/-- SAT_CNT takes in the stage-3 samples that are new (R129). -/
def State.countSat (s : State) (n : Nat) : State :=
  let a := max (nth s.weir n).satTo ((nth s.acq.ch n).period * s.rate n)
  let b := s.knownTo n
  if b ≤ a then s
  else match s.satOf n a b with
    | some k => s.updWeir n (fun x => { x with satTo := b, sat := satAdd 0xFFFFFFFF x.sat k })
    | none => s.updWeir n (fun x => { x with satTo := b })

/-- The channel takes in the samples of a feed: converter, counters, and SAT_CNT. -/
def State.supply (s : State) (f : Feed) : State := if f.ch < 128 then (s.convertFeed f).countSat f.ch else s

/-- The channels take in feeds. -/
def State.supplyAll (s : State) (fs : List Feed) : State := forEach fs s State.supply

end Sys2Proof.Machine
end

