-- ==== Sys2Proof/Machine/Density.lean ====
section
/-! DEFINITION. Density maps (R200 to R204): sweeps, columns, clears and decay passes. A sweep is drawn column by column as its samples
become known. -/

namespace Sys2Proof.Machine

/-- The map of channel m borrows the slice of CH(m xor 1) (R202). -/
def State.borrows (s : State) (m : Nat) : Bool := s.pondMode m = 3 && s.regB (pondA m 0) 2 && s.rate m = 1

/-- Slice n is lent to the map of CH(n xor 1), whose group is armed or streams (R202, R211). -/
def State.borrowed (s : State) (n : Nat) : Bool := s.borrows (n ^^^ 1) && s.armed (s.activeUnit (n ^^^ 1))

/-- The slices of channel n's map (R202, R203): a borrowed one only where it holds no map or stack of its own. -/
def State.mapSlices (s : State) (n : Nat) : List Nat :=
  if s.regB (pondA n 0) 2 && (s.gang (n / 4) ≠ 0 || s.pondMode (n ^^^ 1) = 0) then [n, n ^^^ 1] else [n]

/-- Clear channel n's map (R203): 8,192 core cycles for each slice. A sweep that is being drawn begins before the clear ends. -/
def State.clearMap (s : State) (n : Nat) : State :=
  let ks := s.mapSlices n
  let m := ks.foldl (fun m k => Mem.zero m (0x80000 * k) 0x80000) s.pond.mem
  let s := forEach ks { s with pond := { s.pond with mem := m } } (fun s k => s.updPondCh k (fun x => { x with stacked := false }))
  s.updPondCh n (fun x =>
    { x with clearing := true, clearEnd := s.now + 131072 * ks.length, decayEnd := 0, sweepsSince := 0, densSweeps := 0, densSat := 0,
             densSkip := 0, densInvCol := 0, decayMiss := 0, drawnTo := 0, due := x.due.map (fun w => { w with begun := false, col := 0 }) })

/-- A generation changes channel n's map (R59, R202, R203): CLEAR_SEQ changes, or POND_MODE becomes DENSITY. DECAY_SHIFT 0 turns decay off,
and the count of sweeps toward a pass begins afresh after it. A non-lead channel's fields
have no effect, and a borrowed slice does nothing else. -/
def pondBoundary (s0 s : State) (n : Nat) : State :=
  let c0 := s0.reg (pondA n 0)
  let c := s.reg (pondA n 0)
  let s := if fld c 15 12 = 0 then s.updPondCh n (fun x => { x with sweepsSince := 0 }) else s
  if s.lead n && !s.borrowed n && (fld c0 11 4 ≠ fld c 11 4 || (fld c 1 0 = 3 && fld c0 1 0 ≠ 3)) then s.clearMap n else s

/-- A decay pass of channel n's map is due (R203). -/
def State.decayDue (s : State) (n : Nat) : Bool :=
  let c := s.reg (pondA n 0)
  fld c 1 0 = 3 && fld c 15 12 ≠ 0 && fld c 31 16 ≤ (nth s.pond.ch n).sweepsSince

/-- An accepted trigger of group g at t gives a sweep to each member in DENSITY that delivers samples (R200). -/
def State.pushSweeps (s : State) (g t : Nat) : State :=
  forEach ((s.members g).filter (fun n => s.pondMode n = 3 && !s.borrowed n && s.domOn 36)) s (fun s n =>
    let j0 : Int := (s.countLt n (t + 1) : Int) - 1 + sgn 32 (s.reg (pondA n 0xC))
    s.updPondCh n (fun x => { x with due := x.due ++ [{ origin := (nth s.weir n).originNow, j0 := j0, step := s.reg (pondA n 8) }] }))

/-- The state in which delivered samples of channel n counted from an origin have their numbers, and when that grid ended. -/
def State.onGrid (s : State) (n origin : Nat) : Option (State × Option Nat) :=
  if (nth s.weir n).originNow = origin then some (s, none)
  else (s.past.find? (fun p => (nth p.weir n).originNow == origin)).map (fun p => (s.before p, some p.till))

/-- Delivered sample j of channel n on the grid of `v`, under the configuration in force at its stamp; none while it is not known. -/
def State.sampleAt (s v : State) (n j : Nat) : Option OutSample :=
  (s.delivered (s.asOf (v.stampAt n j / 4096)) n j 1).bind List.head?

/-- One bin gains one, or counts its loss (R201). -/
def State.bump (s : State) (n c r : Nat) : State :=
  let a := binAddr n c r
  let v := leNat (Mem.read s.pond.mem a 2)
  if v < 65535 then s.pondWrite a (leBytes 2 (v + 1)) else s.updPondCh n (fun x => { x with densSat := satAdd 0xFFFFFFFF x.densSat 1 })

/-- Draw column c of channel n from its samples and the last sample of the column before, with the fields of `v` (R201). -/
def State.drawColumn (s v : State) (n c : Nat) (xs : List OutSample) (prev : Option Int) : State :=
  if xs.any (fun x => !x.valid) then s.updPondCh n (fun x => { x with densInvCol := satAdd 65535 x.densInvCol 1 })
  else
    let vs := xs.map OutSample.v ++ prev.toList
    let lo := vs.foldl min (vs.headD 0)
    let hi := vs.foldl max (vs.headD 0)
    let y := v.reg (pondA n 4)
    let row (x : Int) : Int := (x - sgn 16 (fld y 15 0)) / (2 ^ fld y 19 16 : Nat)
    let rows : Int := if v.regB (pondA n 0) 2 then 512 else 256
    let r0 := max (row lo) 0
    let r1 := min (row hi) (rows - 1)
    forEach (List.range (r1 + 1 - r0).toNat) s (fun s i => s.bump n c (r0.toNat + i))

/-- The oldest sweep of channel n leaves the list undrawn. -/
def State.dropSweep (s : State) (n : Nat) : State := s.updPondCh n (fun x => { x with due := x.due.drop 1, drawnTo := 0 })

/-- Change the oldest sweep of channel n. -/
def State.updSweep (s : State) (n : Nat) (f : Sweep → Sweep) : State :=
  s.updPondCh n (fun x => { x with due := match x.due with | w :: rest => f w :: rest | [] => [] })

/-- The column is done: the next one follows, or the sweep is drawn (R203, R211); it counts toward a decay pass while decay is on. -/
def State.nextColumn (s : State) (n : Nat) (w : Sweep) (last : Option Int) : State :=
  if w.col < 1023 then s.updSweep n (fun w => { w with col := w.col + 1, last := last })
  else s.updPondCh n (fun x =>
    { x with due := x.due.drop 1, densSweeps := satAdd 0xFFFFFFFF x.densSweeps 1, sweepsSince := x.sweepsSince + b2n (s.regF (pondA n 0) 15 12 ≠ 0) })

/-- Column 0 of the oldest sweep begins (R202, R203): the sweep is skipped where it begins before the one before it has been drawn, or
before a clear has ended. It waits for a decay pass that is due. -/
def State.beginSweep (s v : State) (n : Nat) (w : Sweep) (gone : Nat → Bool) : Option State :=
  let start := v.stampAt n w.j0.toNat
  let x := nth s.pond.ch n
  if gone start then some (s.dropSweep n)
  else if 4096 * s.now < start || s.decayDue n then none
  else if start < x.drawnTo || start / 4096 + v.latency n < x.clearEnd then
    some (s.updPondCh n (fun x => { x with due := x.due.drop 1, densSkip := satAdd 65535 x.densSkip 1 }))
  else some ((s.updSweep n (fun w => { w with begun := true })).updPondCh n (fun x => { x with drawnTo := v.stampAt n (w.j0 + 1024 * w.step).toNat }))

/-- Go on with the oldest sweep of channel n by one column; none where nothing can be drawn now. Samples before the origin lie before the
restart that began the grid and count as invalid; a sweep whose samples the model was never given is dropped. -/
def State.drawStep (s : State) (n : Nat) : Option State :=
  match (nth s.pond.ch n).due with
  | [] => none
  | w :: _ =>
    match s.onGrid n w.origin with
    | none => some (s.dropSweep n)
    | some (v, till) =>
      let gone (t : Nat) : Bool := (match till with | some e => decide (4096 * e ≤ t) | none => false) || (match w.stopAt with | some e => decide (4096 * e ≤ t) | none => false)
      if !w.begun then s.beginSweep v n w gone
      else
        let lo := w.j0 + (w.col * w.step : Nat)
        let end_ := (lo + w.step - 1).toNat
        let last := v.stampAt n end_
        if gone last then some (s.dropSweep n)
        else if 4096 * s.now < last then none
        else if lo < 0 then some ((s.updPondCh n (fun x => { x with densInvCol := satAdd 65535 x.densInvCol 1 })).nextColumn n w none)
        else match (List.range w.step).mapM (fun k => s.sampleAt v n (lo.toNat + k)) with
          | none => if (v.inputsOf n end_ 1).2 ≤ s.knownTo n then some (s.dropSweep n) else none
          | some xs => some ((s.drawColumn (s.asOf (last / 4096)) n w.col xs (if w.col = 0 then none else w.last)).nextColumn n w (xs.getLast?.map OutSample.v))

/-- Draw what can be drawn of channel n's map, at most k columns. -/
def State.drawDue : Nat → State → Nat → State
  | 0, s, _ => s
  | k + 1, s, n => match s.drawStep n with
    | some s => s.drawDue k n
    | none => s

/-- Draw what can be drawn of every map (R193, R200). -/
def State.drawMaps (s : State) : State := forEach (List.range 128) s (fun s n => s.drawDue (1026 * (nth s.pond.ch n).due.length) n)

/-- The channels take in feeds, and the maps are drawn on. -/
def State.take (s : State) (fs : List Feed) : State := (s.supplyAll fs).drawMaps

/-- The group's acquisition has ended: its channels draw nothing that is sampled from now on (R193, R200). -/
def State.stopMaps (s : State) (g : Nat) : State :=
  forEach (s.unitChans g) s (fun s n => s.updPondCh n (fun x => { x with due := x.due.map (fun w => { w with stopAt := some (w.stopAt.getD s.now) }) }))

/-- MAP_CLEAR_DONE (R203): the clear of channel n's map has ended, 8,192 core cycles after it began for each slice. -/
def execMapClearDone (n : Nat) (s : State) : Res :=
  if (nth s.pond.ch n).clearEnd ≤ s.now then .next (s.updPondCh n (fun x => { x with clearing := false })) else .next s

/-- Rows of a decay pass: every bin b becomes b less b shifted right (R203). -/
def decayMem (n sh : Nat) (rows512 : Bool) (m : Mem) : Mem :=
  let mine (a : Nat) : Bool := a / 0x80000 == n || (rows512 && a / 0x80000 == n ^^^ 1)
  let bins := ((m.filter (fun c => mine c.1)).map (fun c => c.1 / 2)).eraseDups
  bins.foldl (fun m i =>
    let b := leNat (Mem.read m (2 * i) 2)
    Mem.write m (2 * i) (leBytes 2 (b - b >>> sh))) m

/-- DECAY_PASS_START (R203): after DECAY_INT sweeps a pass starts, or is dropped while another runs, and drawing goes on. How long a pass
runs is a free value: the manual gives it no length. -/
def execDecayPassStart (n : Nat) (s : State) : Res :=
  if !s.decayDue n then .next s
  else
    let c := s.reg (pondA n 0)
    let (k, s) := s.draw 1
    let s := s.updPondCh n (fun x => { x with sweepsSince := 0 })
    let s := if s.now < (nth s.pond.ch n).decayEnd then s.updPondCh n (fun x => { x with decayMiss := satAdd 65535 x.decayMiss 1 })
      else { s with pond := { s.pond with mem := decayMem n (fld c 15 12) (bit c 2) s.pond.mem } }.updPondCh n (fun x => { x with decayEnd := s.now + Config.freeNat k })
    .next (s.drawDue (1026 * (nth s.pond.ch n).due.length) n)

end Sys2Proof.Machine
end

