-- ==== Sys2Proof/Machine/Cal.lean ====
section
/-! DEFINITION. Background calibration (R73 to R94, R101, R102): states, correction sets, spares, the estimator and the trims. -/

namespace Sys2Proof.Machine

def State.updTrims (s : State) (n sub : Nat) (f : Trims → Trims) : State :=
  s.updCal n (fun c => { c with trims := upd c.trims sub f })

/-- Positions of channel n's interleave (R76). -/
def State.positions (s : State) (n : Nat) : Nat := 64 * s.rate n
/-- The converter and its own position behind position k of channel n (R58). -/
def State.posOf (s : State) (n k : Nat) : Nat × Nat := (n + k % s.rate n, k / s.rate n % 64)
/-- The channel whose interleave converter m works in (R57): its own, or its lead's. -/
def State.leadOf (s : State) (m : Nat) : Nat := m - m % s.rate m
/-- The position of lead n's interleave that position j of its converter m takes (R58). -/
def State.posBack (s : State) (n m j : Nat) : Nat := j * s.rate n + (m - n)
/-- The channel, and the position of its interleave, that position j of converter m serves (R58). -/
def State.seat (s : State) (m j : Nat) : Nat × Nat := (s.leadOf m, s.posBack (s.leadOf m) m j)
/-- The sub-converter that takes a converter's position (R55, R93). -/
def CalCh.subOf (c : CalCh) (k : Nat) : Nat :=
  if c.sc64.inService && c.sc64.pos == k then 64 else if c.sc65.inService && c.sc65.pos == k then 65 else k

/-- SPARE_MAP (R103). -/
def CalCh.spareMap (c : CalCh) : Nat :=
  c.sc64.pos + 64 * b2n c.sc64.inService + 128 * b2n c.sc64.retired + 256 * c.sc65.pos + 2 ^ 14 * b2n c.sc65.inService +
    2 ^ 15 * b2n c.sc65.retired + 2 ^ 16 * c.sc64.shadow + 2 ^ 24 * c.sc65.shadow

def CalCh.spare (c : CalCh) (i : Nat) : Spare := if i = 64 then c.sc64 else c.sc65
def State.updSpare (s : State) (n i : Nat) (f : Spare → Spare) : State :=
  s.updCal n (fun c => if i = 64 then { c with sc64 := f c.sc64 } else { c with sc65 := f c.sc65 })

/-- The DITHER in force is AUTO (R89). -/
def State.ditherAuto (s : State) (n : Nat) : Bool := s.regF (weirA n 0xC0) 2 1 = 2

/-- A CAL_STATE transition: every run of R85 and R89 restarts, and an event posts (R74, R85, R279). -/
def State.setCal (s : State) (n : Nat) (new : CalSt) : State :=
  let c := nth s.acq.cal n
  if c.st == new then s
  else
    let s := s.updCal n (fun c =>
      { c with ditherAsk := c.ditherAsk || (new == .starved && !c.ditherOn && s.ditherAuto n),
               st := new, runGood := 0, runBad := 0, runStarved := 0, runNotStarved := 0, runClean := 0,
               winCnt := if c.st == .cold then 0 else c.winCnt, starveCnt := if c.st == .cold then 0 else c.starveCnt })
    s.event 0x11 n none s.tb.count
      [BitVec.ofNat 8 c.st.code, BitVec.ofNat 8 new.code, BitVec.ofNat 8 c.starveCause, BitVec.ofNat 8 (s.activeUnit n)]

/-- A SPARE_SWAP event for position j of converter m: it names the channel and the position of its interleave (R94, R279). -/
def State.spareEvent (s : State) (m j ty spare crit epoch : Nat) : State :=
  let (n, k) := s.seat m j
  s.event 0x12 n none s.tb.count
    ([BitVec.ofNat 8 ty, BitVec.ofNat 8 k, BitVec.ofNat 8 spare, BitVec.ofNat 8 crit] ++ leBytes 2 epoch)

/-! ### Correction sets (R79 to R83, R320) -/

/-- The set of channel n as prepared now (R79). Its coefficients are the free values of a fresh key. -/
def State.newSet (s : State) (n : Nat) : CorrSet :=
  let c := nth s.acq.cal n
  let r := s.regF (chCfgA n) 2 1
  { unit := s.activeUnit n, p := s.positions n, gang := s.gang (n / 4), range := r, dither := c.ditherOn,
    nInt := s.spr.nInt, nFrac := s.spr.nFrac, spareMap := c.spareMap, skewCorr := c.skewCorr, key := s.freeCtr,
    pos := (List.range (s.positions n)).map (fun k =>
      let (m, j) := s.posOf n k
      let cm := nth s.acq.cal m
      let t := nth cm.trims (cm.subOf j)
      { trimSkew := t.skew, trimGain := t.gain.getD r 0, trimOffset := t.offset.getD r 0, sub := cm.subOf j, off := c.estOff.getD k 0,
        gain := c.estGain.getD k 0, skew := c.estSkew.getD k 0, bw := c.estBw.getD k 0 }) }

/-- Prepare a set: it becomes the channel's ready set (R79). -/
def State.prepare (s : State) (n : Nat) : State :=
  let set := s.newSet n
  let (_, s) := s.draw 1
  s.updCal n (fun c => { c with ready := some set, sincePrep := 0 })

/-- Channel n takes its ready set under epoch number e at a boundary of unit u (R80, R83). -/
def State.takeSet (s : State) (n u e : Nat) : State :=
  match (nth s.acq.cal n).ready with
  | none => s
  | some r =>
    let set := { r with unit := u, epoch := e, appliedTb := s.stampTb u s.now }
    s.updCal n (fun c => { c with active := some set, copySet := some set, ready := none, history := (set :: c.history).take 16, limitHold := false })

/-! ### Spares (R91 to R94) -/

/-- A spare is calibrated for the position it shadows: eight counted windows after the first two (R91). -/
def Spare.calibrated (x : Spare) (k : Nat) : Bool := !x.inService && !x.retired && x.shadow == k && 10 ≤ x.windows

/-- A spare of converter m that may be assigned to its position j (R93). -/
def CalCh.assignable (c : CalCh) (j : Nat) : Option Nat :=
  let free (x : Spare) : Bool := !x.inService && !x.retired && (x.assigned.isNone || x.assigned == some j)
  if free c.sc64 then some 64 else if free c.sc65 then some 65 else none

/-- POS_FAIL's periods (R93): one runs while a position of the converter is failing, or once NONE_LEFT was posted. -/
def State.markFail (s : State) (m : Nat) : State :=
  s.updCal m (fun c => { c with failSpans := if c.failing.isEmpty && c.noneLeft.isEmpty then c.failSpans.stop s.now else c.failSpans.start s.now })

/-- Neither spare can take position j of converter m (R93, R94): it stays in service, and NONE_LEFT is reported. -/
def State.reportNoneLeft (s : State) (m j : Nat) : State :=
  let (n, k) := s.seat m j
  let s := (s.updCal m (fun c =>
    { c with noSpare := true, noneLeft := c.noneLeft ++ [j], failing := c.failing.filter (fun f => f.1 ≠ j) })).markFail m
  (s.log FATAL bCONV 4 n k).spareEvent m j 3 0xFF 0 0

/-- Assign a spare to position j of converter m, or report NONE_LEFT (R93, R94). -/
def State.assignSpare (s : State) (m j : Nat) : State :=
  let c := nth s.acq.cal m
  let calibrated := (if c.sc64.calibrated j && c.sc64.assigned.isNone then some 64 else none) <|>
    (if c.sc65.calibrated j && c.sc65.assigned.isNone then some 65 else none)
  match calibrated <|> c.assignable j with
  | some i => s.updSpare m i (fun x =>
      if x.shadow = j then { x with assigned := some j } else { x with assigned := some j, shadow := j, windows := 0, disagree := 0 })
  | none => s.reportNoneLeft m j

/-- Position j of converter m is judged failing (R92 to R94). -/
def State.judgeFailing (s : State) (m j crit : Nat) : State :=
  let c := nth s.acq.cal m
  if c.failing.any (fun f => f.1 == j) || c.noneLeft.contains j then s
  else
    let s := (s.updCal m (fun c => { c with failing := c.failing ++ [(j, crit)] })).markFail m
    let (n, k) := s.seat m j
    ((s.log DEGRADED bCONV 1 n (k + 256 * crit)).spareEvent m j 0 0xFF crit 0).assignSpare m j

/-- A spare of converter m is retired; a position it was assigned to needs another (R92, R94). -/
def State.retireSpare (s : State) (m i : Nat) : State :=
  let x := (nth s.acq.cal m).spare i
  if x.retired then s
  else
    let s := s.updSpare m i (fun x => { x with retired := true, inService := false, assigned := none })
    let s := s.log DEGRADED bCONV 3 (s.leadOf m) i
    let s := s.spareEvent m (if x.inService then x.pos else x.shadow) 2 i 0 0
    match x.assigned with
    | some j => s.assignSpare m j
    | none => s

/-- The runs that concern positions restart when another sub-converter takes them (R74). -/
def CalCh.restartPos (c : CalCh) (taken : Nat → Bool) : CalCh :=
  { c with runExhaust := c.runExhaust.filter (fun r => !taken (r.1 / 3)), runOutlier := c.runOutlier.filter (fun r => !taken (r.1 / 3)),
           suspect := c.suspect.filter (fun r => !taken r.1) }

/-- A spare that shadows such a position begins again (R74, R91). -/
def Spare.restart (x : Spare) (taken : Nat → Bool) : Spare :=
  if !x.inService && taken x.shadow then { x with windows := 0, disagree := 0, outlier := [0, 0, 0] } else x

/-- Other sub-converters have taken positions of converter m: the runs of R91 and R92 that concern them restart (R74). -/
def State.restartRuns (s : State) (m : Nat) (taken : Nat → Bool) : State :=
  s.updCal m (fun c => { c.restartPos taken with sc64 := c.sc64.restart taken, sc65 := c.sc65.restart taken })

/-- A GANG change gives positions of the interleaves to other sub-converters (R58, R74): s0 before, s after. -/
def State.gangRuns (s0 s : State) (m : Nat) : State :=
  if s0.gang (m / 4) = s.gang (m / 4) then s else s.restartRuns m (fun j => s0.seat m j != s.seat m j)

/-- A spare assigned to position j goes back to its rounds: the other one has taken j (R91, R93). -/
def Spare.unassign (x : Spare) (j : Nat) : Spare := if x.assigned = some j then { x with assigned := none } else x

/-- Put a calibrated spare in the place of position j of converter m (R93): true where it was done. A spare that the position had fails, and
is retired (R94). -/
def State.substitute (s : State) (m j e : Nat) : State × Bool :=
  let c := nth s.acq.cal m
  match (if c.sc64.calibrated j then some 64 else if c.sc65.calibrated j then some 65 else none) with
  | none => (s, false)
  | some i =>
    let old := c.subOf j
    let s := s.updCal m (fun c => { c with failedSubs := c.failedSubs ++ [old] })
    let s := if 64 ≤ old then s.retireSpare m old else s
    let s := s.updSpare m i (fun x => { x with inService := true, pos := j, shadow := j, assigned := none })
    let s := (s.updCal m (fun c => { c with sc64 := c.sc64.unassign j, sc65 := c.sc65.unassign j,
                                            failing := c.failing.filter (fun f => f.1 ≠ j) })).restartRuns m (· == j)
    let (n, k) := s.seat m j
    (((s.markFail m).log CORRECTED bCONV 2 n (k + 256 * i)).spareEvent m j 1 i 0 e, true)

/-! ### Calibration at an acquisition boundary (R80, R81, R85, R86, R89, R93) -/

/-- CAL_STATE of channel n and the runs of its positions at a boundary: s0 before, s1 with the generation's registers in force (R74, R85,
R86). MODE applies where the generation holds CAL_CFG; the state is held while EN is 0, and a MODE that came then applies with EN. -/
def calBoundary (s0 s1 : State) (regs : List (Nat × Word)) (n : Nat) : State :=
  let s := State.gangRuns s0 s1 n
  let st := (nth s.acq.cal n).st
  let freeze := s.regB (weirA n 0xC0) 0
  let rises := !s0.regB (chCfgA n) 0 && s.regB (chCfgA n) 0
  let given := (kget regs (weirA n 0xC0)).isSome || rises
  let input := fld (s0.reg (chCfgA n)) 4 1 ≠ fld (s.reg (chCfgA n)) 4 1 || s0.gang (n / 4) ≠ s.gang (n / 4) || rises
  if st == .cold || !s.regB (chCfgA n) 0 then s
  else if st == .frozen then
    (if given && !freeze then (s.setCal n .acquiring).updCal n (fun c => { c with ditherAsk := false, ditherDone := false }) else s)
  else if given && freeze then s.setCal n .frozen
  else if st == .tracking && input then s.setCal n .acquiring
  else s

/-- A boundary turns channel n's dither (R89). -/
def State.ditherTurns (s : State) (n : Nat) : Bool :=
  let c := nth s.acq.cal n
  let mode := s.regF (weirA n 0xC0) 2 1
  let want := if mode = 0 then false else if mode = 1 then true
    else if c.ditherOn then !c.ditherDone && c.runClean < 64 else c.ditherAsk || c.st == .starved
  c.st != .cold && c.st != .frozen && s.lead n && want != c.ditherOn

/-- Dither turns at a boundary, and each turn prepares a set (R79, R89). AUTO's latches are its own: under another mode they clear. -/
def ditherBoundary (s : State) (n : Nat) : State :=
  if s.ditherTurns n then
    (s.updCal n (fun c =>
      { c with ditherOn := !c.ditherOn, ditherAt := if c.ditherOn then c.ditherAt else s.now, ditherAsk := false, ditherDone := false,
               ditherWin := 0 })).prepare n
  else if s.ditherAuto n then s
  else s.updCal n (fun c => { c with ditherAsk := false, ditherDone := false })

/-- The failing positions of lead n's path that a boundary substitutes: (converter, its position). -/
def State.toSubst (s : State) (n : Nat) : List (Nat × Nat) :=
  if !s.lead n || !s.regB (weirA n 0xC0) 19 || (nth s.acq.cal n).st == .starved then []
  else (s.converters n).flatMap (fun m => (nth s.acq.cal m).failing.map (fun f => (m, f.1)))

/-- They are substituted where a spare is calibrated for them; whether one was. -/
def substAll (s : State) (n e : Nat) : State × Bool :=
  (s.toSubst n).foldl (fun (s, b) (m, j) => let (s, d) := s.substitute m j e; (s, b || d)) (s, false)

/-- Calibration of unit u at a boundary: substitutions, ready sets, the epoch and its event, then dither (R80 to R82, R89, R93).
`moved`: a membership change of the unit applied. -/
def State.calUnit (s : State) (u : Nat) (moved : Bool) : State :=
  let ns := s.unitChans u
  let e := (s.acq.unitEpoch.getD u 0 + 1) % 65536
  let s := ns.foldl (fun s n => let (s, d) := substAll s n e; if d then s.prepare n else s) s
  let takers := ns.filter (fun n => (nth s.acq.cal n).ready.isSome)
  let s := forEach takers s (fun s n => s.takeSet n u e)
  let s :=
    if takers.isEmpty && !moved then s
    else
      let s := { s with acq := { s.acq with unitEpoch := s.acq.unitEpoch.set u e } }
      s.event 0x10 u none (s.stampTb u s.now)
        (leBytes 2 e ++ [BitVec.ofNat 8 takers.length, BitVec.ofNat 8 (b2n (!takers.isEmpty) + 2 * b2n moved)])
  forEach ns s ditherBoundary

/-! ### The estimator (R74, R76, R84 to R88, R91, R92) -/

/-- A square root to 24 fractional bits: R76 names the root and fixes no precision. -/
def sqrtQ (q : Rat) : Rat := ((q * 2 ^ 48).floor.toNat.sqrt : Rat) / 2 ^ 24

/-- The mean of a list. -/
def meanQ (xs : List Rat) : Rat := if xs.isEmpty then 0 else xs.sum / xs.length

/-- Move estimates an eighth of the way to new values (R76). Where GANG has changed p, the lead goes on from the estimates that it holds by
index, and from 0 where it holds none: the manual is silent (DESIGN CHOICE, notes/assumptions/117.md). -/
def smooth (est new : List Rat) : List Rat := new.zipIdx.map (fun (q, k) => est.getD k 0 + (q - est.getD k 0) / 8)

/-- Spacing errors summed along the positions, referred to their mean (R76). -/
def skewsOf (gap : List Rat) : List Rat :=
  let xs := (gap.dropLast.foldl (fun (acc : List Rat × Rat) g => (acc.1 ++ [acc.2 + g], acc.2 + g)) ([0], 0)).1
  xs.map (· - meanQ xs)

/-- One division of R76: a free value where the divisor is 0 and the manual states no result. -/
def divFree (k : Nat) (a b : Rat) : Rat := if b = 0 then (Config.freeInt k : Rat) else a / b

/-- Femtoseconds of one sample period of channel n. -/
def State.periodFs (s : State) (n : Nat) : Rat := if s.fs = 0 then 0 else (10 ^ 15 : Rat) / (s.fs * s.rate n : Nat)

/-- The nearest integer to the square root of q, half away from zero: exact, since only floor √(4q) decides it. -/
def roundSqrt (q : Rat) : Int := ((4 * q).floor.toNat.sqrt + 1 : Nat) / 2

/-- The mean of a list; of an empty one, of which the manual states none, a free value. -/
def meanFree (k : Nat) (xs : List Rat) : Rat := if xs.isEmpty then Config.freeInt k else meanQ xs

/-- One sample of an estimator window: its position, code, value in LSB less the dither (R87, R90), and whether the statistics exclude it. -/
structure WinSample where
  pos : Nat := 0
  code : Int := 0
  x : Rat := 0
  out : Bool := false
  deriving DecidableEq, Repr, Inhabited

/-- A code bit takes one value in every code of one position, and each value in at least a quarter of the codes of the others (R92). -/
def stuckBit (mine rest : List Int) : Bool :=
  (List.range 12).any (fun b =>
    let value (x : Int) : Bool := bit (unsgn 12 x) b
    !mine.isEmpty && (mine.all value || !mine.any value) && rest.length ≤ 4 * rest.countP value &&
      rest.length ≤ 4 * rest.countP (fun x => !value x))

/-- Codes of a window that the statistics take in, at a position and away from it. -/
def codesAt (ws : List WinSample) (k : Nat) : List Int := (ws.filter (fun w => !w.out && w.pos == k)).map WinSample.code
def codesOff (ws : List WinSample) (k : Nat) : List Int := (ws.filter (fun w => !w.out && w.pos != k)).map WinSample.code

/-- What a window says of the channel's positions (R76, R87, R92). -/
structure WinStats where
  m : List Rat := []
  v : List Rat := []
  c1 : List Rat := []
  c2bar : Rat := 0
  mbar : Rat := 0
  var : Rat := 0
  periodic : Bool := false
  stuck : List Nat := []
  deriving DecidableEq, Repr, Inhabited

/-- `State.now` at which TB_COUNT last was a multiple of 2^22 (R74). -/
def State.windowEnd (s : State) : Nat := s.now - s.tb.count.toNat % 2 ^ 22

/-- The samples of channel n's window that ends at `e`; none where the stream does not hold them all (R53, R62, R74). -/
def State.windowSamples (s : State) (n e : Nat) : Option (List WinSample) :=
  let c := nth s.acq.ch n
  let g := s.rate n
  let a := (e - 2 ^ 22) * g
  if e < 2 ^ 22 || e - 2 ^ 22 < c.liveAt || a < c.stream.first || c.stream.end_ < e * g then none
  else
    let xs := c.stream.xs.toArray
    some ((List.range (2 ^ 22 * g)).map (fun k =>
      let i := a + k
      let y := xs.getD (i - c.stream.first) {}
      let from_ := i - 32 * g - c.stream.first
      { pos := s.positionOf n i, code := y.code, x := y.code - (s.asOf (i / g)).dither n g i,
        out := c.windows.any (fun w => w.1 * g ≤ i && i < w.2 * g) || decide (c.ovrEnd ≠ 0 ∧ 4 * i ≤ g * c.ovrEnd) ||
          (List.range (i + 1 - c.stream.first - from_)).any (fun j => (xs.getD (from_ + j) {}).ovr) }))

/-- Statistics of a window over p positions (R76, R87, R92); the k-th draw stands for what the manual leaves open. -/
def winStats (p k : Nat) (ws : List WinSample) : WinStats :=
  let good := ws.filter (fun w => !w.out)
  let at_ (j : Nat) := good.filter (fun w => w.pos == j)
  let m := (List.range p).map (fun j => meanFree k ((at_ j).map WinSample.x))
  let dev (w : WinSample) : Rat := w.x - m.getD w.pos 0
  let pairs (d : Nat) := (ws.zip (ws.drop d)).filter (fun q => !q.1.out && !q.2.out)
  let mbar := meanQ m
  let mean := meanQ (good.map WinSample.x)
  let var := meanQ (good.map (fun w => (w.x - mean) ^ 2))
  { m := m, v := (List.range p).map (fun j => meanFree k ((at_ j).map (fun w => dev w ^ 2))),
    c1 := (List.range p).map (fun j => meanFree k (((pairs 1).filter (fun q => q.1.pos == j)).map (fun q => dev q.1 * dev q.2))),
    c2bar := meanFree k ((pairs 2).map (fun q => dev q.1 * dev q.2)), mbar := mbar, var := var,
    periodic := (List.range 64).any (fun i =>
      let c := meanFree k ((pairs (64 * (i + 1))).map (fun q => (q.1.x - mean) * (q.2.x - mean)))
      if var = 0 then Config.freeBool k else decide (98 * var ≤ 100 * c)),
    stuck := allBelow p (fun j => stuckBit (codesAt ws j) (codesOff ws j)) }

/-- Move the estimates of channel n toward new values (R76). -/
def State.smoothAll (s : State) (n : Nat) (off gain skew bw : List Rat) : State :=
  s.updCal n (fun c => { c with estOff := smooth c.estOff off, estGain := smooth c.estGain gain, estSkew := smooth c.estSkew skew,
                                estBw := smooth c.estBw bw })

/-- The estimator's update at the end of a counted window (R76): offsets in LSB, gains in ppm, skews in fs, bandwidth. -/
def State.estimate (s : State) (n : Nat) (w : WinStats) : State :=
  let vbar := meanQ w.v
  let c1bar := meanQ w.c1
  let slope := (w.c2bar - vbar) / 2
  let (k, s) := s.draw 2
  let skew := skewsOf (w.c1.map (fun c => divFree (k + 1) (c - c1bar) slope))
  s.smoothAll n (w.m.map (· - w.mbar)) (w.v.map (fun v => (sqrtQ (divFree k v vbar) - 1) * 10 ^ 6)) (skew.map (· * s.periodFs n))
    ((List.range (s.positions n)).map (Config.bwNew w.c1 skew w.c2bar))

/-- A dithered update (R88): the estimator correlates with the sequence, and the manual gives no formula for what it finds. -/
def State.ditherEstimate (s : State) (n : Nat) : State :=
  let (k, s) := s.draw 1
  let q (i : Nat) := (List.range (s.positions n)).map (Config.ditherEst k i)
  s.smoothAll n (q 0) (q 1) (q 2) (q 3)

/-- Starvation causes of a window (R87): LEVEL, PERIODIC, SLOW. -/
def starveCauses (k level : Nat) (w : WinStats) : Nat :=
  let vbar := meanQ w.v
  let slow := if vbar = 0 then Config.freeBool k else decide ((vbar - meanQ w.c1) * 4096 < vbar)
  b2n (w.var < (level : Rat) ^ 2) + 2 * b2n w.periodic + 4 * b2n slow

/-- What the active set of channel n leaves of an estimate, per position (R84). -/
def State.left (s : State) (n : Nat) (est : CalCh → List Rat) (inSet : SetPos → Rat) : List Rat :=
  let c := nth s.acq.cal n
  (List.range (s.positions n)).map (fun k => (est c).getD k 0 - inSet (nth (c.active.getD {}).pos k))
def State.leftOff (s : State) (n : Nat) : List Rat := s.left n CalCh.estOff SetPos.off
def State.leftGain (s : State) (n : Nat) : List Rat := s.left n CalCh.estGain SetPos.gain
def State.leftSkew (s : State) (n : Nat) : List Rat := s.left n CalCh.estSkew SetPos.skew
def State.leftBw (s : State) (n : Nat) : List Rat := s.left n CalCh.estBw SetPos.bw

/-- The mean square of a list. -/
def meanSq (xs : List Rat) : Rat := meanQ (xs.map (· ^ 2))

/-- An rms figure in units of 1/scale, as its register holds it (R84, R103). -/
def rmsReg (scale : Nat) (xs : List Rat) : Nat := min 65534 (roundSqrt (meanSq xs * (scale : Rat) ^ 2)).toNat

/-- A residual exceeds eight times the channel's rms residual of its quantity (R92). -/
def outlies (xs : List Rat) (x : Rat) : Bool := decide (64 * meanSq xs < x ^ 2)

/-- The offset, gain or skew that the active set leaves (R84, R92). -/
def State.leftOf (s : State) (n : Nat) : Nat → List Rat
  | 0 => s.leftOff n
  | 1 => s.leftGain n
  | _ => s.leftSkew n

/-- Residual i of position k of lead n, 0 offset, 1 gain, 2 skew, is an outlier (R92). -/
def State.outlier (s : State) (n k i : Nat) : Bool := outlies (s.leftOf n i) ((s.leftOf n i).getD k 0)

/-- Count runs by index: those where `p` holds gain one, others end. -/
def bumpRuns (n : Nat) (p : Nat → Bool) (runs : List (Nat × Nat)) : List (Nat × Nat) :=
  (allBelow n p).map (fun k => (k, ((kget runs k).getD 0) + 1))

/-- Trim i of a sub-converter in range r, 0 skew, 1 gain, 2 offset, stands at the end of its range (R77, R92). -/
def Trims.atEnd (t : Trims) (r : Nat) : Nat → Bool
  | 0 => t.skew ≤ -512 || 511 ≤ t.skew
  | 1 => t.gain.getD r 0 ≤ -10000 || 9999 ≤ t.gain.getD r 0
  | _ => t.offset.getD r 0 ≤ -512 || 511 ≤ t.offset.getD r 0

/-- Trim i of a sub-converter of converter m stands at the end of its range, in the range of lead n. -/
def State.trimEnd (s : State) (n m sub i : Nat) : Bool := (nth (nth s.acq.cal m).trims sub).atEnd (s.regF (chCfgA n) 2 1) i

/-- Where a spare that is not in service goes after a counted window (R91). SC65 takes the positions in turn, 16 windows each. SC64 goes to a
suspect position at once, the manual giving the fault score that picks one no formula; with none suspect it keeps 32 positions apart from
SC65, or rotates on its own while SC65 does not. -/
def CalCh.spareNext (c : CalCh) (k i : Nat) : Nat :=
  let x := c.spare i
  let turn := if 16 ≤ x.windows then (x.shadow + 1) % 64 else x.shadow
  if i = 65 then turn
  else if !c.suspect.isEmpty then ((c.suspect.map Prod.fst).getD (Config.freeNat k % c.suspect.length) 0)
  else if c.sc65.inService || c.sc65.retired || c.sc65.assigned.isSome then turn
  else (c.sc65.shadow + 32) % 64

/-- A spare moves on, unless it serves, is retired, or is assigned to a position; on the position it already shadows it stays calibrated. -/
def rotateSpare (k : Nat) (c : CalCh) (i : Nat) : CalCh :=
  let x := c.spare i
  let j := c.spareNext k i
  if x.inService || x.retired || x.assigned.isSome || j = x.shadow then c
  else
    let x := { x with shadow := j, windows := 0, disagree := 0, outlier := [0, 0, 0] }
    if i = 64 then { c with sc64 := x } else { c with sc65 := x }

/-- One counted window of lead n passes for the spares of its converter m that serve no position: they have shadowed one window more, and
their trims may stand at their ends (R91, R92). -/
def State.spareTick (s : State) (n m : Nat) : State :=
  forEach [64, 65] s (fun s i => s.updSpare m i (fun x =>
    if x.inService || x.retired then x
    else { x with windows := x.windows + 1,
                  exhaust := (List.range 3).map (fun t => if s.trimEnd n m i t then x.exhaust.getD t 0 + 1 else 0) }))

/-- The spares of converter m move on (R91). -/
def State.spareMove (s : State) (m : Nat) : State :=
  let (k, s) := s.draw 1
  s.updCal m (fun c => rotateSpare k (rotateSpare k c 65) 64)

/-- A calibrated spare's output differs by more than 4 LSB rms from that of the position it shadows (R92). -/
def Spare.disagrees (x : Spare) (w : SpareIn) : Bool := x.calibrated x.shadow && decide (4 < w.rms)

/-- Residual i that a spare is left with, 0 offset, 1 gain, 2 skew. -/
def residOf (w : SpareIn) : Nat → Rat
  | 0 => w.resid.1
  | 1 => w.resid.2.1
  | _ => w.resid.2.2

/-- What a window says of one spare that is not in service (R92): four consecutive windows of disagreement end in a judgement, and a
spare with a stuck bit, or an outlier for 16 windows, is retired. -/
def State.judgeSpare (s : State) (n : Nat) (ws : List WinSample) (w : SpareIn) : State :=
  let m := n + w.conv
  let x := (nth s.acq.cal m).spare w.spare
  if x.inService || x.retired || s.rate n ≤ w.conv then s
  else
    let dis := x.disagrees w
    let s := s.updSpare m w.spare (fun x =>
      { x with disagree := if dis then x.disagree + 1 else 0,
               outlier := (List.range 3).map (fun i => if outlies (s.leftOf n i) (residOf w i) then x.outlier.getD i 0 + 1 else 0) })
    let x := (nth s.acq.cal m).spare w.spare
    let s := if stuckBit w.codes (codesOff ws (s.posBack n m x.shadow)) || x.outlier.any (16 ≤ ·) then s.retireSpare m w.spare else s
    if x.disagree < 4 then s
    else
      let s := s.updSpare m w.spare (fun x => { x with disagree := 0 })
      if w.spareResid < w.posResid then s.judgeFailing m x.shadow 4
      else if w.posResid < w.spareResid then s.retireSpare m w.spare
      else s

/-- A criterion of R92 holds in a window for position j of lead n's converter m (R91). -/
def State.faulty (s : State) (n m : Nat) (stuck : List Nat) (spares : List SpareIn) (j : Nat) : Bool :=
  let k := s.posBack n m j
  stuck.contains k || (List.range 3).any (fun i => s.outlier n k i || s.trimEnd n m ((nth s.acq.cal m).subOf j) i) ||
    spares.any (fun w =>
      let x := (nth s.acq.cal m).spare w.spare
      n + w.conv == m && x.shadow == j && x.disagrees w && decide (w.spareResid < w.posResid))

/-- The runs and suspects of lead n's converter m after a counted window (R91, R92). -/
def State.runsWindow (s : State) (n : Nat) (stuck : List Nat) (spares : List SpareIn) (m : Nat) : State :=
  let bad := allBelow 64 (s.faulty n m stuck spares)
  s.updCal m (fun c =>
    { c with runExhaust := bumpRuns 192 (fun x => s.trimEnd n m (c.subOf (x / 3)) (x % 3)) c.runExhaust,
             runOutlier := bumpRuns 192 (fun x => s.outlier n (s.posBack n m (x / 3)) (x % 3)) c.runOutlier,
             suspect := ((c.suspect.map (fun x => (x.1, x.2 - 1))).filter (fun x => x.2 ≠ 0 && !bad.contains x.1)) ++ bad.map (fun j => (j, 64)) })

/-- Positions and spares of converter m whose runs are complete are judged (R92 to R94). -/
def State.judgeRuns (s : State) (m : Nat) : State :=
  let c := nth s.acq.cal m
  let s := forEach (c.runExhaust.filter (fun r => 16 ≤ r.2)) s (fun s r => s.judgeFailing m (r.1 / 3) 2)
  let s := forEach (c.runOutlier.filter (fun r => 16 ≤ r.2)) s (fun s r => s.judgeFailing m (r.1 / 3) 3)
  forEach [64, 65] s (fun s i =>
    let x := (nth s.acq.cal m).spare i
    if !x.inService && x.exhaust.any (16 ≤ ·) then s.retireSpare m i else s)

/-- The failure criteria of a window of lead n (R91, R92). -/
def State.judgeWindow (s : State) (n : Nat) (stuck : List Nat) (spares : List SpareIn) (ws : List WinSample) : State :=
  let s := forEach (s.converters n) s (fun s m => s.runsWindow n stuck spares m)
  let s := forEach stuck s (fun s k => s.judgeFailing (s.posOf n k).1 (s.posOf n k).2 1)
  let s := forEach (s.converters n) s State.judgeRuns
  forEach spares s (fun s w => s.judgeSpare n ws w)

/-- CAL_STATE after a counted window (R85). -/
def State.calWindow (s : State) (n : Nat) : State :=
  let c := nth s.acq.cal n
  match c.st with
  | .acquiring => if 8 ≤ c.runStarved then s.setCal n .starved else if 8 ≤ c.runGood then s.setCal n .tracking else s
  | .tracking => if 8 ≤ c.runStarved then s.setCal n .starved else if 4 ≤ c.runBad then s.setCal n .acquiring else s
  | .starved => if 4 ≤ c.runNotStarved then s.setCal n .acquiring else s
  | _ => s

/-- Windows run for channel n (R74). -/
def State.windowsRun (s : State) (n : Nat) : Bool := s.domOn (n / 4) && (nth s.acq.quads (n / 4)).ready && s.produces n

/-! IL_SPUR_EST (R84) is computed in fixed point, 60 bits after the point: the manual states no precision for it. -/

/-- A product in fixed point. -/
def fxMul (a b : Int) : Int := a * b / 2 ^ 60
/-- A number in fixed point. -/
def toFx (q : Rat) : Int := roundAway (q * 2 ^ 60)

/-- Cosine and sine of an angle of x turns, −1/2 ≤ x ≤ 1/2, by their series. -/
def cosSin (x : Rat) : Int × Int :=
  let y := fxMul 7244019458077122842 (toFx x)
  let r := (List.range 32).foldl (fun (r : Int × Int × Int) k =>
    let (c, d, t) := r
    let u := fxMul t y / (k + 1)
    if k % 4 = 0 then (c, d + u, u) else if k % 4 = 1 then (c - u, d, u) else if k % 4 = 2 then (c, d - u, u) else (c + u, d, u)) (2 ^ 60, 0, 2 ^ 60)
  (r.1, r.2.1)

/-- Cosine and sine of any angle of x turns. -/
def cis (x : Rat) : Int × Int := cosSin (x - roundAway x)

/-- A product of complex numbers in fixed point. -/
def cxMul (a b : Int × Int) : Int × Int := (fxMul a.1 b.1 - fxMul a.2 b.2, fxMul a.1 b.2 + fxMul a.2 b.1)

/-- The mean of a sequence against m turns over its length: a spectral line, and the square of its size. -/
def line (xs : List (Int × Int)) (m : Nat) : Int × Int :=
  let p := xs.length
  let ys := xs.zipIdx.map (fun (x, k) => cxMul x (cis (-(m * k % p : Nat) / (p : Rat))))
  ((ys.map Prod.fst).sum / (p : Int), (ys.map Prod.snd).sum / (p : Int))
def sqSize (a : Int × Int) : Nat := (a.1 * a.1 + a.2 * a.2).toNat

/-- What position k of channel n does to a tone at 0.47 of its sample rate, as the residuals say (R84): gain, bandwidth, and the phase that
a skew in fs makes at that frequency. -/
def State.toneFactor (s : State) (n k : Nat) : Int × Int :=
  let bw := Config.bwTone ((s.leftBw n).getD k 0)
  let phase : Rat := (47 / 100) * (s.leftSkew n).getD k 0 * (s.fs * s.rate n : Nat) / (10 ^ 15 : Nat)
  cxMul (toFx (1 + (s.leftGain n).getD k 0 / 10 ^ 6), 0) (cxMul (toFx (1 + bw.1), toFx bw.2) (cis phase))

/-- The worst interleave spur as a ratio of powers (R84): an image of the tone at m/p of the rate from it, or the line of the offsets at m/p
of the rate, against a tone of −1 dBFS, 2,048 × 10^(−1/20) codes. -/
def State.spurRatio (s : State) (n : Nat) : Nat × Nat :=
  let p := s.positions n
  let tone := (List.range p).map (s.toneFactor n)
  let offs := (List.range p).map (fun k => (toFx ((s.leftOff n).getD k 0), (0 : Int)))
  let image (m : Nat) : Nat := sqSize (line tone m)
  let offset (m : Nat) : Nat := (if 2 * m = p then 1 else 4) * sqSize (line offs m) * 2 ^ 60 / 3841135648828374245703957
  (((List.range p).drop 1).foldl (fun w m => max w (max (image m) (offset m))) 0, sqSize (line tone 0))

/-- A ratio of powers in 0.1 dB, to the nearest, from −409.6 to 409.5: the greatest x with 10^(2x − 1) ≤ ratio^200. -/
def tenthsDb (num den : Nat) : Int :=
  let ok (x : Int) : Bool :=
    if 0 < 2 * x - 1 then 10 ^ (2 * x - 1).toNat * den ^ 200 ≤ num ^ 200 else den ^ 200 ≤ 10 ^ (1 - 2 * x).toNat * num ^ 200
  [12, 11, 10, 9, 8, 7, 6, 5, 4, 3, 2, 1, 0].foldl (fun x b => if ok (x + 2 ^ b) then x + 2 ^ b else x) (-4096)

/-- IL_SPUR_EST (R84): residuals that predict no spur at all lie below every limit, by a value that the manual does not state. -/
def State.spurEst (s : State) (n k : Nat) : Int :=
  let r := s.spurRatio n
  if r.1 = 0 then max (-32768) (-750 - (Config.freeNat k : Int)) else tenthsDb r.1 r.2

/-- The quality figures of a counted window (R84, R103); the k-th draw stands for what the manual leaves open. -/
def State.figures (s : State) (n k : Nat) : State :=
  s.updCal n (fun c =>
    { c with spurEst := s.spurEst n k, skewResid := rmsReg 10 (s.leftSkew n), offsetResid := rmsReg 1024 (s.leftOff n),
             gainResid := rmsReg 1 (s.leftGain n) })

/-- Counters, figures and runs of a counted window (R74, R84, R85, R87 to R89). -/
def State.countWindow (s : State) (n : Nat) (w : WinStats) : State :=
  let (k, s) := s.draw 2
  let cause := starveCauses k (s.regF (weirA n 0xC0) 10 3) w
  let starved := cause ≠ 0 && !(nth s.acq.cal n).ditherOn
  let s := if starved then s else s.figures n (k + 1)
  s.updCal n (fun c =>
    { c with starveCause := cause, winCnt := satAdd 0xFFFFFFFF c.winCnt 1, starveCnt := satAdd 0xFFFFFFFF c.starveCnt (b2n starved),
             runGood := if !starved && c.spurEst ≤ -750 && c.skewResid ≤ 150 then c.runGood + 1 else 0,
             runBad := if -730 < c.spurEst || 250 < c.skewResid then c.runBad + 1 else 0,
             runStarved := if starved then c.runStarved + 1 else 0, runNotStarved := if starved then 0 else c.runNotStarved + 1,
             runClean := if cause = 0 then c.runClean + 1 else 0,
             ditherDone := c.ditherDone || (c.ditherOn && cause = 0 && 64 ≤ c.runClean + 1 && s.ditherAuto n),
             sincePrep := c.sincePrep + 1 })

/-- The estimates update in this window: with dither on, once in 16 counted windows (R76, R88). -/
def State.estimateDue (s : State) (n : Nat) (w : WinStats) : State :=
  let c := nth s.acq.cal n
  if !c.ditherOn then s.estimate n w
  else if 16 ≤ c.ditherWin + 1 then (s.updCal n (fun c => { c with ditherWin := 0 })).ditherEstimate n
  else s.updCal n (fun c => { c with ditherWin := c.ditherWin + 1 })

/-- A window of channel n that ended at `e` is evaluated (R74, R76, R79, R84 to R88, R91, R92); a void one changes nothing. -/
def State.evalWindow (s : State) (n e : Nat) (spares : List SpareIn) (ws : List WinSample) : State :=
  let s := s.updCal n (fun c => { c with winDone := e })
  if ws.length < 8 * ws.countP WinSample.out then s
  else
    let (k, s) := s.draw 1
    let w := winStats (s.positions n) k ws
    let s := (s.estimateDue n w).countWindow n w
    let s := forEach (s.converters n) s (fun s m => s.spareTick n m)
    let s := s.judgeWindow n w.stuck spares ws
    let s := (forEach (s.converters n) s State.spareMove).calWindow n
    let c := nth s.acq.cal n
    if (c.st == .acquiring || c.st == .tracking) && s.regF (weirA n 0xC0) 18 11 ≤ c.sincePrep then s.prepare n else s

/-- ESTIMATOR_WINDOW_END (R74): the window that ended when TB_COUNT last was a multiple of 2^22 is evaluated once, where it ran whole. -/
def execEstimatorWindowEnd (n : Nat) (w : WindowIn) (s : State) : Res :=
  let s := s.take w.feeds
  let e := s.windowEnd
  if !s.windowsRun n || e ≤ (nth s.acq.cal n).winDone then .next s
  else match s.windowSamples n e with
    | none => .next s
    | some ws => .next (s.evalWindow n e w.spares ws)

/-! ### Trims (R77, R78) -/

/-- One trim at a tick: its target, the base it may not leave by more than the limit, and its range. -/
def moveTrim (want base limit lo hi x : Int) : Int :=
  if x < want && x < base + limit && x < hi then x + 1 else if want < x && base - limit < x && lo < x then x - 1 else x

/-- The trim stands at its limit with its target beyond (R78). -/
def heldTrim (want base limit x : Int) : Bool := (x == base + limit && x < want) || (x == base - limit && want < x)

/-- Targets of position k: skew, gain and offset in trim steps (R77, R78). -/
def State.targets (s : State) (n k : Nat) : Int × Int × Int :=
  let c := nth s.acq.cal n
  (roundAway (c.estSkew.getD k 0 / 5), roundAway (c.estGain.getD k 0 / 2), roundAway (c.estOff.getD k 0 * 64))

/-- The trims of one sub-converter move by at most one step each; the state and whether one is held at its limit. -/
def State.trimSub (s : State) (n m sub k : Nat) (base : Int × Int × Int) : State × Bool :=
  let r := s.regF (chCfgA n) 2 1
  let (wk, wg, wo) := s.targets n k
  let t := nth (nth s.acq.cal m).trims sub
  let g := t.gain.getD r 0
  let o := t.offset.getD r 0
  let t' := { t with skew := moveTrim wk base.1 2 (-512) 511 t.skew, gain := t.gain.set r (moveTrim wg base.2.1 10 (-10000) 9999 g),
                     offset := t.offset.set r (moveTrim wo base.2.2 8 (-512) 511 o) }
  (s.updTrims m sub (fun _ => t'),
    heldTrim wk base.1 2 t'.skew || heldTrim wg base.2.1 10 (t'.gain.getD r 0) || heldTrim wo base.2.2 8 (t'.offset.getD r 0))

/-- One channel at a trim tick (R78): a lead's sub-converters are those of its pooled path. With no correction set in force yet the base of
every limit is 0: the manual gives no assumed value then (DESIGN CHOICE, notes/assumptions/117.md). -/
def State.trimChannel (s : State) (n : Nat) : State :=
  let c := nth s.acq.cal n
  if !s.domOn (n / 4) || !s.lead n || c.st == .starved || c.st == .frozen || c.st == .cold then s
  else
    let set := c.active.getD default
    let (s, held) := (List.range (s.positions n)).foldl (fun (s, h) k =>
      let (m, j) := s.posOf n k
      let p := nth set.pos k
      let (s, b) := s.trimSub n m ((nth s.acq.cal m).subOf j) k (p.trimSkew, p.trimGain, p.trimOffset)
      (s, h || b)) (s, false)
    let r := s.regF (chCfgA n) 2 1
    let s := forEach (s.converters n) s (fun s m =>
      forEach [64, 65] s (fun s i =>
        let x := (nth s.acq.cal m).spare i
        if x.inService || x.retired then s
        else
          let t := nth (nth s.acq.cal m).trims i
          (s.trimSub n m i (s.posBack n m x.shadow) (t.skew, t.gain.getD r 0, t.offset.getD r 0)).1))
    s.updCal n (fun c => { c with limitHold := held })

/-- TRIM_TICK (R77, R78). -/
def execTrimTick (s : State) : Res := .next (forEach (List.range 128) s State.trimChannel)

/-! ### Foreground calibration and the start of a quad (R62, R70, R75, R101, R120) -/

/-- A sub-converter of converter m failed foreground calibration (R75, R92 to R94): a spare that takes no position is retired; a position
takes a spare before READY rises. CRITERION has no code for this judgement: it is given as 1 (DESIGN CHOICE, notes/assumptions/76.md). -/
def State.fgFail (s : State) (m sub : Nat) : State :=
  let c := nth s.acq.cal m
  if c.failedSubs.contains sub then s
  else if 64 ≤ sub && !(c.spare sub).inService then s.retireSpare m sub
  else
    let j := if 64 ≤ sub then (c.spare sub).pos else sub
    let (n, k) := s.seat m j
    let s := (s.log DEGRADED bCONV 1 n (k + 256)).spareEvent m j 0 0xFF 1 0
    let s := if 64 ≤ sub then s.retireSpare m sub else s
    let s := s.updCal m (fun c => { c with failedSubs := c.failedSubs ++ [sub] })
    match (nth s.acq.cal m).assignable j with
    | some i =>
      let s := s.updSpare m i (fun x => { x with inService := true, pos := j, shadow := j, assigned := none })
      (s.log CORRECTED bCONV 2 n (k + 256 * i)).spareEvent m j 1 i 0 (s.acq.unitEpoch.getD (s.activeUnit n) 0)
    | none => s.reportNoneLeft m j

/-- What foreground calibration finds for one sub-converter (R75, R77): its trims, and what the estimator is left with for the position
it takes. -/
def State.fgSet (s : State) (q : Nat) (f : FgResult) : State :=
  let m := 4 * q + f.i
  let s := s.updTrims m f.sub (fun _ =>
    { skew := clampI (-512) 511 f.skew, gain := f.gain.map (clampI (-10000) 9999), offset := f.offset.map (clampI (-512) 511) })
  let lead := s.leadOf m
  forEach (allBelow 64 (fun j => (nth s.acq.cal m).subOf j == f.sub)) s (fun s j =>
    let k := s.posBack lead m j
    let put (xs : List Rat) (x : Rat) : List Rat := (xs ++ List.replicate (s.positions lead - xs.length) 0).set k x
    s.updCal lead (fun c => { c with estOff := put c.estOff f.est.1, estGain := put c.estGain f.est.2.1, estSkew := put c.estSkew f.est.2.2.1,
                                     estBw := put c.estBw f.est.2.2.2 }))

/-- FOREGROUND_CAL_DONE (R75, R85, R93): sub-converters that failed have their spares, the trims are set, READY rises, CAL_STATE moves to
ACQUIRING and the first sets are ready. -/
def execForegroundCalDone (q : Nat) (found : FgIn) (s : State) : Res :=
  if !s.domOn q || !(nth s.acq.quads q).fgRun then .next s
  else
    let s := forEach (found.fails.filter (fun f => 64 ≤ f.2) ++ found.fails.filter (fun f => f.2 < 64)) s (fun s f => s.fgFail (4 * q + f.1) f.2)
    let s := forEach found.results s (fun s f => s.fgSet q f)
    let s := s.updQuad q (fun x => { x with ready := true, fgRun := false, startDue := true })
    .next (forEach [4 * q, 4 * q + 1, 4 * q + 2, 4 * q + 3] s (fun s n => (s.setCal n .acquiring).prepare n))

/-- QUAD_START (R62, R70, R120): at the first core-cycle edge after READY rises, the quad's channels that produce samples open a window
of 4,096 Ts, and every channel takes a synchronising reset. -/
def execQuadStart (q : Nat) (s : State) : Res :=
  if !(nth s.acq.quads q).startDue then .next s
  else
    let s := s.remember.updQuad q (fun x => { x with startDue := false })
    .next (forEach [4 * q, 4 * q + 1, 4 * q + 2, 4 * q + 3] s (fun s n =>
      ((if s.produces n then s.openWindow n 4096 else s).setLive n true).syncReset n))

/-- What a release at a new Fs does to the channels (R65, R101, R120): a synchronising reset of every channel; for an enabled one a window,
CAL_STATE, and a set for the new Fs. -/
def State.newFs (s : State) : State :=
  forEach (List.range 128) s.remember (fun s n =>
    let s := (s.setLive n true).syncReset n
    if !s.regB (chCfgA n) 0 then s
    else
      let s := if s.produces n then s.openWindow n 4096 else s
      if (nth s.acq.cal n).st == .cold || !s.lead n then s
      else ((if (nth s.acq.cal n).st == .tracking then s.setCal n .acquiring else s)).prepare n)

end Sys2Proof.Machine
end

