-- ==== Sys2Proof/Machine/Trigger.lean ====
section
/-! DEFINITION. Trigger groups: crossings, events, sequences, judging, forces and outputs (R130 to R157), and the events a unit
originates on a Beacon line (R154, R257). Times are `State.now` stamps in Ts/4,096. -/

namespace Sys2Proof.Machine

/-! ### Fields of a program (R159) -/

/-- SLOT_SRC of slot k of group g. -/
def State.slotSrc (s : State) (g k : Nat) : Nat := s.regF (trgA g (0x20 + 16 * k)) 7 0
def State.lvlA (s : State) (g k : Nat) : Int := sgn 16 (s.regF (trgA g (0x24 + 16 * k)) 15 0)
def State.lvlB (s : State) (g k : Nat) : Int := sgn 16 (s.regF (trgA g (0x24 + 16 * k)) 31 16)
def State.slotHyst (s : State) (g k : Nat) : Int := (s.regF (trgA g (0x28 + 16 * k)) 11 0 : Nat)

/-- One event's configuration (R137, R159). -/
structure EvCfg where
  type : Nat := 0
  slot : Nat := 0
  pol : Nat := 0
  qual : Nat := 0
  patSel : Nat := 0
  patOr : Bool := false
  tmin : Nat := 0
  tmax : Nat := 0
  deriving DecidableEq, Repr, Inhabited

/-- Event A (false) or B (true) of group g. -/
def State.evCfg (s : State) (g : Nat) (b : Bool) : EvCfg :=
  let o := if b then 0x80 else 0x60
  let c := s.reg (trgA g o)
  { type := fld c 2 0, slot := fld c 4 3, pol := fld c 6 5, qual := fld c 9 7, patSel := fld c 17 10, patOr := bit c 18,
    tmin := s.reg (trgA g (o + 4)) + 2 ^ 32 * s.regF (trgA g (o + 8)) 11 0,
    tmax := s.reg (trgA g (o + 12)) + 2 ^ 32 * s.regF (trgA g (o + 16)) 11 0 }

/-- What the pattern asks of slot k: 0 ignored, 1 high, 2 low, 3 reserved. -/
def EvCfg.want (c : EvCfg) (k : Nat) : Nat := fld c.patSel (2 * k + 1) (2 * k)
/-- Slots an event uses. -/
def EvCfg.slots (c : EvCfg) : List Nat :=
  if c.type = 0 then [] else if c.type = 6 then allBelow 4 (fun k => c.want k ≠ 0) else [c.slot]

def State.seqMode (s : State) (g : Nat) : Nat := s.regF (trgA g 0) 3 2
/-- Slots the program of group g uses. -/
def State.usedSlots (s : State) (g : Nat) : List Nat :=
  ((s.evCfg g false).slots ++ (if s.seqMode g = 1 then (s.evCfg g true).slots else [])).eraseDups
/-- BEV_WAIT where R153 applies, else 0. -/
def State.bevWait (s : State) (g : Nat) : Nat :=
  if (List.range 4).any (fun k => 0x88 ≤ s.slotSrc g k && s.slotSrc g k ≤ 0x8F) then s.regF (trgA g 0) 21 6 else 0
/-- The largest Λ over the members that produce samples (R155). -/
def State.grpLatency (s : State) (g : Nat) : Nat := (s.members g).foldl (fun m n => max m (s.latency n)) 368

/-! ### Crossings of a channel slot (R133, R134, R142) -/

/-- The cubic through (−1, a), (0, b), (1, c), (2, d), at u. -/
def cubic (a b c d u : Rat) : Rat :=
  -a * u * (u - 1) * (u - 2) / 6 + b * (u + 1) * (u - 1) * (u - 2) / 2 - c * (u + 1) * u * (u - 2) / 2 + d * (u + 1) * u * (u - 1) / 6

/-- The bisection of R142, `k` halvings to go. -/
def bisect (p : Nat → Rat) (level : Rat) (dir : Rat) : Nat → Nat → Nat → Nat
  | 0, _, hi => hi
  | k + 1, lo, hi =>
    let mid := (lo + hi) / 2
    if (p mid - level) * dir < 0 then bisect p level dir k mid hi else bisect p level dir k lo mid

/-- Interpolated time of a crossing (R142): four samples about it, the spacing in Ts, the level and whether it rises. -/
def interpolate (a b c d : SlotSample) (sp : Rat) (level : Int) (rise : Bool) : Nat :=
  let bits := 12 + Nat.clog 2 sp.ceil.toNat
  let p (i : Nat) : Rat := cubic a.x b.x c.x d.x ((i : Rat) / (2 ^ bits : Nat))
  let hi := bisect p level (if rise then 1 else -1) bits 0 (2 ^ bits)
  b.stamp + (roundAway (4096 * sp * hi / (2 ^ bits : Nat))).toNat

/-- One level's part of a comparator: has been below L − HYST, has been at or above L + HYST (R133). -/
def armLevel (l h : Int) (x : Int) (rise fall : Bool) : Bool × Bool := (rise || x < l - h, fall || l + h ≤ x)

/-- The crossing of one level between samples b and c: none, or its direction (R133). -/
def crossLevel (l : Int) (rise fall : Bool) (b c : Int) : Option Bool :=
  if rise && b < l && l ≤ c then some true else if fall && l ≤ b && c < l then some false else none

/-- The crossings of LVL_A and LVL_B between two samples, those of equal time in the order in which the signal meets them (R133, R140):
upward the lower level first, downward the higher one. `x` gives the crossing of a level, if there is one. -/
def inOrder {α : Type} (la lb : Int) (rise : Bool) (xa xb : Option α) : List α :=
  if (lb < la) == rise then xb.toList ++ xa.toList else xa.toList ++ xb.toList

/-- The crossings between the two newest samples of a slot, now that the sample after them is known, or is none with the same levels
(R133, R134, R142). -/
def slotPair (s : State) (g k n : Nat) (st : SlotSt) (y : Option SlotSample) : SlotSt × List InboxItem :=
  match st.win with
  | c :: b :: rest =>
    let la := s.lvlA g k
    let lb := s.lvlB g k
    let h := s.slotHyst g k
    let (ra, fa) := if b.valid then armLevel la h b.x st.armRiseA st.armFallA else (st.armRiseA, st.armFallA)
    let (rb, fb) := if b.valid then armLevel lb h b.x st.armRiseB st.armFallB else (st.armRiseB, st.armFallB)
    let a := rest.head?
    let moves := b.valid && c.valid
    let good := moves && (y.map SlotSample.valid).getD false && (a.map SlotSample.valid).getD false
    let a := a.getD b
    let d := y.getD c
    let peak := s.decMode n = 1 && 2 ≤ s.dec n
    let item (l : Int) (isB rise : Bool) : InboxItem :=
      { src := n, t := if peak || !good then c.stamp else interpolate a b c d (s.spacing n) l rise, rise := rise, lvlB := isB,
        noInterp := peak, ovr := !peak && (a.ovr || b.ovr || c.ovr || d.ovr), ignored := !good, moves := moves, slot := some k, dec := d.stamp }
    let ca := crossLevel la ra fa b.x c.x
    let cb := crossLevel lb rb fb b.x c.x
    let st := { st with armRiseA := ra && (!moves || ca ≠ some true), armFallA := fa && (!moves || ca ≠ some false),
                        armRiseB := rb && (!moves || cb ≠ some true), armFallB := fb && (!moves || cb ≠ some false) }
    (st, inOrder la lb (b.x ≤ c.x) (ca.map (item la false)) (cb.map (item lb true)))
  | _ => (st, [])

/-- One new sample of a channel slot: comparator state, and the crossings now known, between the two samples before it. The first valid
sample under the slot's levels sets the state (R134). -/
def slotSample (s : State) (g k n : Nat) (st : SlotSt) (y : SlotSample) : SlotSt × List InboxItem :=
  let (st, is) := slotPair s g k n st (some y)
  let set : InboxItem := { src := n, t := y.stamp, rise := decide (s.lvlA g k ≤ y.x), sets := true, slot := some k, dec := y.stamp }
  let is := if st.fresh && y.valid then is ++ [set] else is
  ({ st with fresh := st.fresh && !y.valid, win := (y :: st.win).take 3 }, is)

/-- Feed a channel slot its next samples. -/
def slotFeed (s : State) (g k n : Nat) : SlotSt → List SlotSample → SlotSt × List InboxItem
  | st, [] => (st, [])
  | st, y :: ys =>
    let (st, is) := slotSample s g k n st y
    let (st, js) := slotFeed s g k n st ys
    (st, is ++ js)

/-- A delivered sample as a comparator sees it: in 1/16 LSB in either format (R133). -/
def OutSample.slot (x : OutSample) : SlotSample := { stamp := x.stamp, x := x.v, valid := x.valid, ovr := x.ovr }

/-- Instants after `a` and before `b`, in Ts/4,096, at which what is in force changed, in order. -/
def State.cuts (s : State) (a b : Nat) : List Nat := ((s.past.map (fun p => 4096 * p.till)).filter (fun t => a < t && t < b)).reverse

/-- The source or the levels of slot k of group g differ between two states (R134, R151): hysteresis is no level. -/
def slotDiffers (s v : State) (g k : Nat) : Bool :=
  [0x20, 0x24].any (fun o => s.reg (trgA g (o + 16 * k)) ≠ v.reg (trgA g (o + 16 * k)))

/-- Slot k of group g compares what its channel delivered from `fed` to `to_`, under the configuration of `v`, in force throughout
(R132, R133); none where a sample it needs is not known. A slot without a channel that produces samples compares nothing (R59). -/
def State.feedSpan (s v : State) (g k to_ : Nat) (st : SlotSt) : Option (SlotSt × List InboxItem) :=
  let n := v.slotSrc g k
  if n < 128 && v.produces n then
    let j := v.countLt n st.fed
    (s.delivered v n j (v.countLt n to_ - j)).map (fun ys =>
      let (st, is) := slotFeed v g k n st (ys.map OutSample.slot)
      ({ st with fed := to_ }, is))
  else some ({ high := st.high, fed := to_ }, [])

/-- Slot k of group g compares up to `to_`, span by span; where the slot's registers change, its last crossing has no sample after it
under the same levels, and the next sample only sets the state (R134, R151). -/
def State.feedSlot (s : State) (g k : Nat) : List Nat → SlotSt → SlotSt × List InboxItem
  | [], st => (st, [])
  | to_ :: rest, st =>
    let v := s.asOf (st.fed / 4096)
    match s.feedSpan v g k to_ st with
    | none => (st, [])
    | some (st, is) =>
      let w := s.asOf (to_ / 4096)
      let (st, js) := if slotDiffers v w g k then
          ({ high := st.high, fed := st.fed }, (slotPair v g k (v.slotSrc g k) st none).2)
        else (st, [])
      let (st, more) := s.feedSlot g k rest st
      (st, is ++ js ++ more)

/-! ### Beacon events a unit originates (R154, R257, R258) -/

/-- A link is a tree link: this unit takes its time through it, or the peer does (R252). -/
def Bcn.treeLink (b : Bcn) (p : Nat) : Bool :=
  (nth b.ports p).link == .up && (b.upPort == some p || (nth b.ports p).peerUpHere)

/-- Queue an event on port p, or drop it (R258). -/
def State.bevQueue (s : State) (p : Nat) (e : BevEvent) : State :=
  if (nth s.bcn.ports p).queue.length < 64 then s.updPort p (fun x => { x with queue := x.queue ++ [e] })
  else
    let s := s.updBcn (fun b => { b with evDrop := satAdd 65535 b.evDrop 1 })
    s.log CONTAINED bBCN 3 p (e.line + 256 * e.origin + 65536 * e.seq)

/-- How far the group's logic runs behind State.now, in Ts, for what its member channels delay (R153, R155). -/
def State.logicBack (s : State) (g : Nat) : Nat := s.grpLatency g + 32 + s.bevWait g

/-- The group's logic judges triggers (R146, R147). -/
def State.judging (s : State) (g : Nat) : Bool :=
  s.armed g && (nth s.trg.grp g).st != .idle && (nth s.trg.grp g).st != .rolling

/-- Put an item in its place by time; equal times keep their order. -/
def insItem (i : InboxItem) : List InboxItem → List InboxItem
  | [] => [i]
  | j :: js => if i.t < j.t then i :: j :: js else j :: insItem i js

/-- Hand an event's time (a `State.now` stamp in Ts/4,096) to the groups, which it reaches at `State.now` = `arrival`; for one that names its
line it is late once the group's logic has passed it (R146, R153, R259). -/
def State.bevDeliver (s : State) (line : Nat) (t : Int) (arrival : Nat) : State :=
  forEach (List.range 32) s (fun s g =>
    if !s.judging g then s
    else if t < max ((nth s.trg.grp g).pos : Int) (4096 * (arrival - s.logicBack g : Nat) : Nat) then
      (if (List.range 4).any (fun k => s.slotSrc g k == 0x88 + line) then
        s.updTrg g (fun x => { x with bevLate := satAdd 0xFFFFFFFF x.bevLate 1 }) else s)
    else s.updTrg g (fun x => { x with inbox := insItem { src := 0x88 + line, t := t.toNat, dec := t.toNat } x.inbox }))

/-- A `State.now` stamp (Ts/4,096) in the unit's present numbering. -/
def State.toTb (s : State) (t : Int) : Int := t + 4096 * ((s.tb.count.toNat : Int) - s.now)
/-- A time in the unit's present numbering as a `State.now` stamp. -/
def State.ofTb (s : State) (t : Int) : Int := t - 4096 * ((s.tb.count.toNat : Int) - s.now)

/-- The events a unit remembers: the last 16 of each origin (R258). -/
def keepSeen (seen : List (Nat × Nat × Nat)) (e : Nat × Nat × Nat) : List (Nat × Nat × Nat) :=
  e :: ((seen.filter (fun x => x.1 == e.1)).take 15 ++ seen.filter (fun x => x.1 != e.1))

/-- An accepted trigger goes out on a line (R154, R155, R257): `dec` is its decisive sample's whole Ts, and its decision falls `back` after
it. Beacon has it at step 5; the unit's own groups at the bound that R259 gives, and not before step 5. -/
def State.bevOriginate (s : State) (line t dec back : Nat) : State :=
  let seq := s.bcn.evSeq.getD line 0
  let handed := dec + back + 80
  let e : BevEvent := { line := line, seq := seq, origin := s.bcn.unitId, t := s.toTb t, from_ := handed }
  let s := s.updBcn (fun b => { b with evSeq := b.evSeq.set line ((seq + 1) % 16), seen := keepSeen b.seen (b.unitId, line, seq) })
  let s := forEach (List.range 4) s (fun s p => if s.bcn.treeLink p then s.bevQueue p e else s)
  s.bevDeliver line t (max handed (cdiv t 4096 + back + 144))

/-! ### Trigger outputs (R156, R157) -/

/-- A pulse of `len` core cycles from an instant in Ts/64. -/
def TrigOut.pulse (o : TrigOut) (at_ len : Nat) : TrigOut := { o with pulses := (at_, at_ + 64 * 16 * len) :: o.pulses }

/-- A pulse on every output that shows this of group g: 0 ACCEPT, 1 QUALIFIED. `t` is the trigger's time, `step3` the `State.now` of its
decision (R155): an ASAP pulse launches then; a TIMED one whose place has passed by step 4 launches there, and is late. -/
def State.outPulse (s : State) (g what t step3 : Nat) : State :=
  forEach [0, 1] s (fun s i =>
    let c := s.reg (trgA 0 (0x3A0 + 4 * i))
    let dly := s.regF (trgA 0 (0x3A8 + 4 * i)) 15 0
    let len := fld c 22 11
    if bit c 0 && fld c 8 4 == g && fld c 10 9 == what then
      if !bit c 2 then s.updOut i (fun o => o.pulse (64 * step3) len)
      else if t + 4096 * dly ≤ 4096 * (step3 + 64) then
        s.updOut i (fun o => { o.pulse (64 * (step3 + 64)) len with late := satAdd 65535 o.late 1 })
      else s.updOut i (fun o => { o with due := o.due ++ [t] })
    else s)

/-- TRIG_OUT_TIMED_EDGE (R157): the oldest due pulse is placed at its trigger's time plus OUT_DELAY, rounded to Ts/64. -/
def execTrigOutTimedEdge (i : Nat) (s : State) : Res :=
  match (nth s.trg.out i).due with
  | [] => .next s
  | t :: rest =>
    let e := (roundAway ((t + 4096 * s.regF (trgA 0 (0x3A8 + 4 * i)) 15 0 : Nat) / (64 : Rat))).toNat
    .next (s.updOut i (fun o => { (o.pulse e (s.regF (trgA 0 (0x3A0 + 4 * i)) 22 11)) with due := rest }))

/-! ### Judging (R145 to R148) -/

/-- TB_COUNT and FRAC of a trigger time in group g's numbering (R143). -/
def State.trigTb (s : State) (g t : Nat) : BitVec 64 := s.stampTb g (t / 4096)

/-- RESULT of FORCE_TRIGGER (R315). -/
def forceResult (s : State) (g t seg outcome : Nat) : List Byte :=
  leBytes 8 (s.trigTb g t).toNat ++ leBytes 4 seg ++ leBytes 2 (t % 4096) ++ leBytes 1 outcome

/-- The block of channel n that holds the trigger sample of t, counted from the first of the frame that runs (R143, R146, R170). -/
def State.frameBlock (s : State) (r : Run) (n t : Nat) : Int :=
  min ((((s.countLt n (t + 1) : Nat) : Int) - 1 - s.countLt n r.openT) / (s.perBlock n : Nat)) ((r.post : Int) - 1)

/-- The group accepts a trigger at time t (R146). -/
def State.accepting (s : State) (g t : Nat) : Bool :=
  match (nth s.rsv.grp g).run with
  | none => false
  | some r =>
    if r.mode = 3 then
      !r.dropping && r.ending.isNone &&
        r.members.all (fun n => r.accTimes.all (fun u => s.frameBlock r n u ≠ s.frameBlock r n t))
    else match (nth s.trg.grp g).openAt with
      | some o => o ≤ t && r.trig.isNone && r.ending.isNone
      | none => false

/-- The group is accepting triggers now (R146): TRG_STAT.STATE ACCEPTING, or a stream that does not drop its frame. -/
def State.acceptingNow (s : State) (g : Nat) : Bool :=
  match (nth s.trg.grp g).st, (nth s.rsv.grp g).run with
  | .accepting, some _ => true
  | .streaming, some r => !r.dropping && r.ending.isNone
  | _, _ => false

/-- The level of TRIG_OUT[i] before its pin (R156 to R158): an output with EN 0 drives low, as after a restart of PD43. -/
def State.trigOutLevel (s : State) (i : Nat) : Bool :=
  let c := s.reg (trgA 0 (0x3A0 + 4 * i))
  let o := nth s.trg.out i
  let g := fld c 8 4
  let shows := match fld c 10 9 with
    | 2 => s.armed g
    | 3 => s.acceptingNow g
    | _ => o.pulses.any (fun p => p.1 ≤ 64 * s.now && 64 * s.now < p.2)
  if !bit c 0 then false else shows != bit c 1

/-- Log a judged trigger in the segment that counts it (R147, R177, R198). -/
def State.logTrig (s : State) (g t : Nat) (accepted : Bool) : State :=
  s.updRun g (fun r =>
    if accepted && r.mode < 3 then r
    else if r.log.length < 16 then { r with log := r.log ++ [(t, accepted)] } else { r with logDropped := true })

/-- A rejected trigger (R147). -/
def State.reject (s : State) (g t : Nat) : State :=
  let s := s.updTrg g (fun x => { x with rejCnt := satAdd 0xFFFFFFFF x.rejCnt 1, rejSeg := satAdd 0xFFFFFFFF x.rejSeg 1 })
  if s.regB (trgA g 0) 4 then s.logTrig g t false else s

/-- A held trigger (R145). -/
def State.holdTrig (s : State) (g : Nat) : State :=
  s.updTrg g (fun x => { x with held := satAdd 0xFFFFFFFF x.held 1, hoLeft := x.hoLeft - 1, heldCnt := satAdd 0xFFFFFFFF x.heldCnt 1 })

/-- An accepted trigger (R145, R146, R148, R154, R155), decided `back` after the whole Ts `dec` of its decisive sample. -/
def State.acceptTrig (s : State) (g t src dec back : Nat) : State :=
  let x := nth s.trg.grp g
  let mode := s.regF (trgA g 0) 1 0
  let info : TrigInfo := { t := t, src := src, held := x.held, hoMode := mode }
  let s := s.updRun g (fun r =>
    if r.mode = 3 then { r with trig := some (r.trig.getD info), accTimes := r.accTimes ++ [t] }
    else if r.mode = 4 then { r with trig := some info, heldSum := r.heldSum + x.held, accTimes := r.accTimes ++ [t] }
    else { r with trig := some info, accTimes := [t] })
  let s := (s.logTrig g t true).pushSweeps g t
  let s := s.updTrg g (fun x =>
    { x with accCnt := satAdd 0xFFFFFFFF x.accCnt 1, lastTb := s.trigTb g t, lastFrac := t % 4096, lastSrc := src, hoMode := mode,
             hoEnd := some (t + 4096 * (s.reg (trgA g 4) + 2 ^ 32 * s.regF (trgA g 8) 8 0)), hoLeft := s.reg (trgA g 0xC), held := 0,
             st := if x.st == .streaming then .streaming else .postFill, openAt := if x.st == .streaming then x.openAt else none })
  let s := s.outPulse g 0 t (dec + back)
  let o := s.reg (trgA g 0x1C)
  if bit o 0 then s.bevOriginate (fld o 3 1) t dec back else s

/-- Waiting forces a program trigger at t satisfies (R149). -/
def State.satisfyForces (s : State) (g t : Nat) : State :=
  let fs := (nth s.trg.grp g).forces
  let seg := (((nth s.rsv.grp g).run.map Run.seg).getD 0)
  forEach fs (s.updTrg g (fun x => { x with forces := [] })) (fun s i => s.finish i OK (forceResult s g t seg 2))

/-- Judge one qualified trigger of the program (R145), decided `back` after the whole Ts `dec` of its decisive sample. -/
def State.judge (s : State) (g t src dec back : Nat) : State :=
  let s := s.updTrg g (fun x => { x with qualCnt := satAdd 0xFFFFFFFF x.qualCnt 1 })
  let s := s.outPulse g 1 t (dec + back)
  let x := nth s.trg.grp g
  let timeOk := x.hoMode % 2 = 0 || (match x.hoEnd with | none => true | some e => e ≤ t)
  let evOk := x.hoMode < 2 || x.hoLeft = 0
  if !(timeOk && evOk) then s.holdTrig g
  else if !s.accepting g t then s.reject g t
  else (s.acceptTrig g t src dec back).satisfyForces g t

/-! ### Events and sequences (R137 to R141) -/

/-- QUAL on a measured interval (R138). -/
def EvCfg.passes (c : EvCfg) (w : Nat) : Bool :=
  if c.qual = 0 then true
  else if c.qual = 1 then w < c.tmax
  else if c.qual = 2 then c.tmin < w
  else if c.qual = 3 then c.tmin ≤ w && w ≤ c.tmax
  else w < c.tmin || c.tmax < w

/-- POL admits this direction: true for rise, enter, positive. -/
def EvCfg.dirOk (c : EvCfg) (up : Bool) : Bool := c.pol = 2 || (c.pol == 0) == up

/-- A two-crossing measurement: begin, abandon and complete, for the up and the down direction; whether the event is met (R137). An
ignored crossing abandons the measurement that needs it (R134). -/
def measure (c : EvCfg) (e : EvSt) (t : Nat) (ignored beginUp abandonUp endUp beginDn abandonDn endDn : Bool) : EvSt × Bool :=
  if ignored then
    ({ e with pos := if beginUp || abandonUp || endUp then none else e.pos, neg := if beginDn || abandonDn || endDn then none else e.neg }, false)
  else
    let metUp := endUp && c.dirOk true && (match e.pos with | some t0 => c.passes (t - t0) | none => false)
    let metDn := endDn && c.dirOk false && (match e.neg with | some t0 => c.passes (t - t0) | none => false)
    let pos := if endUp || abandonUp then none else e.pos
    let neg := if endDn || abandonDn then none else e.neg
    ({ e with pos := if beginUp then some t else pos, neg := if beginDn then some t else neg }, metUp || metDn)

/-- One crossing or transition, seen by a single-slot event (R137). -/
def evCrossing (c : EvCfg) (e : EvSt) (i : InboxItem) : EvSt × Bool :=
  let upA := i.rise && !i.lvlB
  let dnA := !i.rise && !i.lvlB
  let upB := i.rise && i.lvlB
  let dnB := !i.rise && i.lvlB
  if c.type = 1 then (e, !i.ignored && !i.lvlB && (0x88 ≤ i.src || c.dirOk i.rise))
  else if c.type = 2 then (e, !i.ignored && (((upB || dnA) && c.dirOk true) || ((upA || dnB) && c.dirOk false)))
  else if c.type = 3 then measure c e i.t i.ignored upA false dnA dnA false upA
  else if c.type = 4 then measure c e i.t i.ignored upB upA dnB dnA dnB upA
  else if c.type = 5 then measure c e i.t i.ignored upB dnB upA dnA upA dnB
  else (e, false)

/-- The pattern on the slots' states (R140). -/
def EvCfg.pattern (c : EvCfg) (high : Nat → Bool) : Bool :=
  let ks := c.slots
  let ok (k : Nat) : Bool := (c.want k == 1) == high k
  if c.patOr then ks.any ok else ks.all ok

/-- The pattern before and after a batch of crossings at t (R138, R140); `lost`: one of them is ignored, or only sets the state. -/
def evPattern (c : EvCfg) (e : EvSt) (before after lost : Bool) (t : Nat) : EvSt × Bool :=
  if before == after then (if lost then { e with patSince := none } else e, false)
  else if after then ({ e with patSince := if lost then none else some t }, !lost && c.pol == 0)
  else ({ e with patSince := none }, !lost && c.pol == 1 && (c.qual == 0 || (match e.patSince with | some t0 => c.passes (t - t0) | none => false)))

/-- Slots of group g that an item concerns. -/
def State.itemSlots (s : State) (g : Nat) (i : InboxItem) : List Nat :=
  match i.slot with
  | some k => [k]
  | none => allBelow 4 (fun k => s.slotSrc g k == i.src)

/-- TRIG_SRC of a trigger whose point is this item on slot k (R148). -/
def trigSrc (i : InboxItem) (k : Nat) (seq : Bool) : Nat :=
  k + 4 * b2n seq + 16 * b2n i.noInterp + 32 * b2n i.ovr + 64 * b2n (0x88 ≤ i.src)

/-- How far behind an item's decisive sample step 3 of R155 falls, in Ts: the latency of its source, 32 Ts and W. -/
def State.decisionBack (s : State) (g : Nat) (i : InboxItem) : Nat :=
  (if i.src < 128 then s.latency i.src else s.grpLatency g) + 32 + s.bevWait g

/-- Run the sequence on one item: whether A and B are met at its time; the slot of the trigger point (R141). -/
def State.sequence (s : State) (g : Nat) (i : InboxItem) (metA metB : Bool) (kA kB : Nat) : State :=
  let judge (s : State) (src : Nat) : State := s.judge g i.t src (cdiv i.dec 4096) (s.decisionBack g i)
  if s.seqMode g = 0 then (if metA then judge s (trigSrc i kA false) else s)
  else
    let x := nth s.trg.grp g
    let timeout := s.reg (trgA g 0x14)
    let waitB := x.seqWaitB && !(timeout ≠ 0 && 4096 * timeout < i.t - x.seqStart)
    if metA then
      if !waitB || s.regB (trgA g 0) 5 then s.updTrg g (fun x => { x with seqWaitB := true, seqStart := i.t, seqNb := 0 })
      else s.updTrg g (fun x => { x with seqWaitB := waitB })
    else if metB && waitB && 4096 * s.reg (trgA g 0x10) ≤ i.t - x.seqStart then
      if x.seqNb + 1 = s.regF (trgA g 0x18) 15 0 then
        judge (s.updTrg g (fun x => { x with seqWaitB := false, seqNb := 0 })) (trigSrc i kB true)
      else s.updTrg g (fun x => { x with seqNb := x.seqNb + 1 })
    else s.updTrg g (fun x => { x with seqWaitB := waitB })

/-- The comparator output of TRIG_IN[i] before the transitions that the group's inbox still holds (R140). -/
def State.inputState (s : State) (g i : Nat) : Bool :=
  match (nth s.trg.grp g).inbox.find? (fun x => x.src == 0x80 + i) with
  | some x => !x.rise
  | none => s.trg.inLevel.getD i false

/-- A slot's state after an item (R134, R140). -/
def State.moveHigh (s : State) (g : Nat) (i : InboxItem) : State :=
  if i.lvlB || 0x88 ≤ i.src || !i.moves || i.program.isSome then s
  else forEach (s.itemSlots g i) s (fun s k => s.updTrg g (fun x => { x with slots := upd x.slots k (fun y => { y with high := i.rise }) }))

/-- What a batch of crossings of equal time does to an event's pattern (R134, R140): its value before and after them; `lost`: one that the
pattern needs is ignored, or only sets the state; and which of them, by its place in the batch, changed the pattern. -/
structure PatBatch where
  before : Bool := false
  after : Bool := false
  lost : Bool := false
  at_ : Nat := 0
  deriving DecidableEq, Repr, Inhabited

/-- Slots that an event's pattern looks at and an item of LVL_A concerns (R140). -/
def State.patSlots (s : State) (g : Nat) (c : EvCfg) (i : InboxItem) : List Nat :=
  if i.lvlB then [] else (s.itemSlots g i).filter (fun k => c.slots.contains k)

/-- The state of slot k of group g. -/
def State.slotHigh (s : State) (g k : Nat) : Bool := (nth (nth s.trg.grp g).slots k).high

/-- A batch as an event's pattern sees it (R140): `s` before it, `s'` after it. Where several of its crossings move the pattern's slots,
the last of them is the one that changed it (DESIGN CHOICE, log 109). -/
def State.patBatch (s s' : State) (g : Nat) (c : EvCfg) (is : List InboxItem) : PatBatch :=
  let moving := is.zipIdx.filter (fun (i, _) => i.moves && (s.patSlots g c i).any (fun k => s.slotHigh g k != i.rise))
  { before := c.pattern (s.slotHigh g), after := c.pattern (s'.slotHigh g),
    lost := is.any (fun i => (i.ignored || i.sets) && !(s.patSlots g c i).isEmpty), at_ := (moving.getLast?.map Prod.snd).getD 0 }

/-- One event on item `k` of a batch: a PATTERN is judged at the item that changed it. -/
def evItem (c : EvCfg) (e : EvSt) (ks : List Nat) (p : PatBatch) (k : Nat) (i : InboxItem) : EvSt × Bool :=
  if c.type = 6 then (if k = p.at_ then evPattern c e p.before p.after p.lost i.t else (e, false))
  else if c.type ≠ 0 && ks.contains c.slot && !i.sets then evCrossing c e i
  else (e, false)

/-- The slot of an event's trigger point where this item is it (R148). -/
def State.pointSlot (s : State) (g : Nat) (c : EvCfg) (i : InboxItem) : Nat := if c.type = 6 then (s.patSlots g c i).headD 0 else c.slot

/-- The items of a batch in turn, the first of which is item k of it. -/
def State.batchItems (s : State) (g : Nat) (ca cb : EvCfg) (pa pb : PatBatch) : Nat → List InboxItem → State
  | _, [] => s
  | k, i :: rest =>
    let ks := s.itemSlots g i
    let x := nth s.trg.grp g
    let (ea, ma) := evItem ca x.evA ks pa k i
    let (eb, mb) := evItem cb x.evB ks pb k i
    let s := s.updTrg g (fun x => { x with evA := ea, evB := eb, invSupp := satAdd 0xFFFFFFFF x.invSupp (b2n i.ignored) })
    let s := if s.judging g then s.sequence g i ma mb (s.pointSlot g ca i) (s.pointSlot g cb i) else s
    s.batchItems g ca cb pa pb (k + 1) rest

/-- A new program takes effect (R151): the sequence waits for A. A measurement ends only where its event's EVT_CFG, or the source or a level
of a slot it uses, changes (log 108). A TRIG_IN that a changed slot names gives that slot its comparator's state. -/
def State.newProgram (s : State) (g : Nat) (p : ProgChange) : State :=
  let hit (b changed : Bool) : Bool := changed || (s.evCfg g b).slots.any p.slots.contains
  forEach p.slots (s.updTrg g (fun x => { x with seqWaitB := false, seqNb := 0, evA := if hit false p.evA then {} else x.evA,
                                                 evB := if hit true p.evB then {} else x.evB })) (fun s k =>
    let src := s.slotSrc g k
    let hi := (src = 0x80 || src = 0x81) && s.inputState g (src - 0x80)
    s.updTrg g (fun x => { x with slots := upd x.slots k (fun y => { y with high := hi }) }))

/-- Crossings and transitions of equal time apply together, and the pattern is evaluated once after them (R140). -/
def State.batch (s : State) (g : Nat) (is : List InboxItem) : State :=
  let s := is.foldl (fun s i => match i.program with | some p => s.newProgram g p | none => s) s
  let is := is.filter (fun i => i.program.isNone)
  let ca := s.evCfg g false
  let cb := s.evCfg g true
  let s' := is.foldl (fun s i => s.moveHigh g i) s
  s'.batchItems g ca cb (s.patBatch s' g ca is) (s.patBatch s' g cb is) 0 is

/-- The delivered sample that is the trigger sample of time t on channel n (R143). -/
def State.trigSample (s : State) (n t : Nat) : Nat := s.countLt n (t + 1) - 1

/-- The least stamp that a function gives the members that produce samples. -/
def State.leastStamp (s : State) (ns : List Nat) (f : Nat → Nat) : Nat := (((ns.filter s.produces).map f).min?).getD 0

/-- The stamp of the first sample of any member at or after an instant in Ts/4,096. -/
def State.firstFrom (s : State) (r : Run) (t : Nat) : Nat := s.leastStamp r.members (fun n => s.stampAt n (s.countLt n t))

/-- The stamp of the first sample after the frame that runs (R143, R177): after the boundary that ended it where a generation applied
there. -/
def State.frameNext (s : State) (r : Run) : Nat :=
  match r.cut with
  | some (c, true) => (s.asOf c).firstFrom r (4096 * c)
  | _ =>
    let v := s.asOf (r.openT / 4096)
    v.leastStamp r.members (fun n => v.stampAt n (v.countLt n r.openT + r.post * v.perBlock n))

/-- The last stamp of what group g is filling, in Ts/4,096 (R147, R173, R177), under the configuration it began with: a segment's or
sweep's post-trigger fill, or a stream's frame. -/
def State.fillLast (s : State) (g : Nat) : Option Nat :=
  match (nth s.rsv.grp g).run with
  | none => none
  | some r =>
    let v := s.asOf (r.openT / 4096)
    let ns := r.members.filter v.produces
    let last (j : Nat → Nat) : Nat := ns.foldl (fun m n => max m (v.stampAt n (j n))) 0
    if r.mode = 3 then some (last (fun n => v.countLt n r.openT + r.post * v.perBlock n - 1))
    else match r.trig with
      | some t => if (nth s.trg.grp g).st == .postFill then some (last (fun n => v.trigSample n t.t + r.post * v.perBlock n - 1)) else none
      | none => none

/-- The fill or frame that runs has ended: its last sample has been taken. -/
def State.fillEnded (s : State) (g : Nat) : Bool := match s.fillLast g with | some e => decide (e < 4096 * s.now) | none => false

/-- The end of the 128 Ts dead time after a fill whose last sample has this stamp (R173, R194). -/
def deadEnd (last : Nat) : Nat := 4096 * (cdiv (last + 1) 4096 + 128)

/-- The last trigger time that belongs to what group g is filling (R143, R147, R177): the last stamp of a fill; in a stream the last time
before the next frame's first sample, since until then a trigger's sample lies in the frame that runs. -/
def State.judgeLast (s : State) (g : Nat) : Option Nat :=
  match (nth s.rsv.grp g).run with
  | some r => if r.mode = 3 then some (s.frameNext r - 1) else s.fillLast g
  | none => none

/-- How far the group's logic goes (R147): it handles nothing past the fill or frame that runs, or past the dead time that a boundary or
the close of a record ends, until that has ended, so that each trigger counts in its segment. -/
def State.logicEnd (s : State) (g : Nat) : Option Nat :=
  match s.judgeLast g, (nth s.rsv.grp g).run with
  | some e, _ => some e
  | none, some r => if (nth s.trg.grp g).st == .rearm && (nth s.trg.grp g).openAt.isNone then some (r.openT - 1) else none
  | none, none => none

/-- The logic of group g has passed every time below this (R149, R155): a program that uses no slot waits for no row. -/
def State.logicPos (s : State) (g : Nat) : Nat :=
  if (s.usedSlots g).isEmpty then 4096 * (s.now - s.logicBack g) + 1 else (nth s.trg.grp g).pos

/-- The group's logic has judged every trigger of the fill or frame that runs, forces included (R147). -/
def State.fillJudged (s : State) (g : Nat) : Bool :=
  match s.judgeLast g with | some e => decide (e < s.logicPos g) | none => true

/-- RESULT of FORCE_TRIGGER for a force accepted at t, and its acceptance (R145, R149). -/
def State.acceptForce (s : State) (g t : Nat) : State :=
  s.under (t / 4096) (fun v => v.acceptTrig g t (8 + 16) (t / 4096) (v.logicBack g))

/-- A stamp rounded up to a multiple of 16 Ts of group g's numbering. -/
def State.ceil16 (s : State) (g t : Nat) : Nat :=
  let w := cdiv t 4096
  let r := (s.stampTb g w).toNat % 16
  4096 * (w + (16 - r) % 16)

/-- The oldest waiting force is judged at t, and accepted where the group accepts there (R149). -/
def State.judgeForce (s : State) (g t : Nat) : State :=
  match (nth s.trg.grp g).forces with
  | i :: rest =>
    if s.accepting g t then
      let seg := (((nth s.rsv.grp g).run.map Run.seg).getD 0)
      let s := (s.updTrg g (fun x => { x with forces := rest })).acceptForce g t
      s.finish i OK (forceResult s g t seg 0)
    else s
  | [] => s

/-- A force that waits is accepted at the first stamp at which the group accepts, once the logic has passed it: a program trigger at or
before that stamp wins (R149), the same stamp being the same Ts/4,096 (DESIGN CHOICE, log 111). `below`: the logic has handled every stamp
below this. -/
def State.forceBelow (s : State) (g below : Nat) : State :=
  match (nth s.trg.grp g).st, (nth s.trg.grp g).openAt with
  | .streaming, _ => s
  | _, none => s
  | _, some o => if s.ceil16 g o < below then s.judgeForce g (s.ceil16 g o) else s

/-- Handle the group's inbox in order of time, batch by batch, up to `limit`, each under the configuration in force at its time, and no
further than the fill that runs (R140, R147, R151, R153). -/
def State.batches : Nat → State → Nat → Nat → State
  | 0, s, _, _ => s
  | n + 1, s, g, limit =>
    match (nth s.trg.grp g).inbox with
    | [] => s
    | i :: rest =>
      if limit < i.t || (match s.logicEnd g with | some e => decide (e < i.t) | none => false) then s
      else
        let s := s.forceBelow g i.t
        let s := s.updTrg g (fun x => { x with inbox := rest.dropWhile (fun j => j.t == i.t) })
        (s.under (i.t / 4096) (fun v => v.batch g (i :: rest.takeWhile (fun j => j.t == i.t)))).batches n g limit

/-- The time, no later than `t`, below which source `src` has delivered every sample: a PEAK minimum comes only with the end of its
interval (R104, R117). -/
def State.deliveredTo (s : State) (src t : Nat) : Nat :=
  if src < 128 && s.perInterval src = 2 && s.countLt src t % 2 = 1 then min t (s.stampAt src (s.countLt src t - 1)) else t

/-- Slot k of group g compares what has been delivered (R132, R155). A slot that no event uses, and whose samples are not known, begins
afresh. -/
def State.feedGroupSlot (s : State) (g k : Nat) : State :=
  let st := nth (nth s.trg.grp g).slots k
  let src := s.slotSrc g k
  let to_ := s.deliveredTo src (4096 * (s.now - (if src < 128 then s.latency src else s.grpLatency g) - 32 - s.bevWait g) + 1)
  if to_ ≤ st.fed then s
  else
    let (st, is) := s.feedSlot g k (s.cuts st.fed to_ ++ [to_]) st
    let st := if st.fed < to_ && !(s.usedSlots g).contains k then { high := st.high, fed := to_ } else st
    s.updTrg g (fun x => { x with slots := x.slots.set k st, inbox := is.foldl (fun l i => insItem i l) x.inbox })

/-- The time up to which every crossing of a slot is known. -/
def SlotSt.known (st : SlotSt) : Nat := match st.win with
  | _ :: c :: _ => c.stamp
  | [y] => y.stamp
  | [] => st.fed

/-- SEQUENCE_TIMEOUT (R141): a sequence that has waited for B longer than SEQ_TIMEOUT, in the time the logic has reached, is abandoned. -/
def execSequenceTimeout (g : Nat) (s : State) : Res :=
  let x := nth s.trg.grp g
  let t := s.reg (trgA g 0x14)
  if x.seqWaitB && t ≠ 0 && x.seqStart + 4096 * t < x.pos then .next (s.updTrg g (fun x => { x with seqWaitB := false, seqNb := 0 }))
  else .next s

/-- TRIG_IN_TRANSITION (R135, R153): the comparator's transition is stamped, delayed, and seen by every group that judges: the slots that
name it when the logic reaches it see it. A transition stamped below what a group's logic has passed, as one from before its start, only
sets the slots' state; one whose delay puts it ahead is kept for groups that start before it. While EN is 0 nothing moves the
comparator's output, and it goes on from there (DESIGN CHOICE, log 110). -/
def execTrigInTransition (i t : Nat) (rise : Bool) (s : State) : Res :=
  if !s.domOn 43 || !s.regB (trgA 0 (0x390 + 4 * i)) 0 then .next s
  else
    let d := s.reg (trgA 0 (0x398 + 4 * i))
    let stamp := t + 4096 * fld d 27 12 + fld d 11 0
    let item : InboxItem := { src := 0x80 + i, t := stamp, rise := rise, dec := stamp }
    let ahead := (if 4096 * s.now ≤ stamp then insItem item s.trg.ahead else s.trg.ahead).filter (fun x => 4096 * s.now ≤ x.t)
    let s := { s with trg := { s.trg with inLevel := s.trg.inLevel.set i rise, ahead := ahead } }
    .next (forEach (List.range 32) s (fun s g =>
      if s.judging g then s.updTrg g (fun x => { x with inbox := insItem { item with sets := decide (stamp < x.pos) } x.inbox }) else s))

/-! ### Forces (R149, R150, R315) -/

/-- The stamp the group's logic is processing now, a multiple of 16 Ts of its numbering (R149, R155). -/
def State.forceTime (s : State) (g : Nat) : Nat :=
  let back := s.logicBack g
  let tb := (s.tbOf g - BitVec.ofNat 64 back).toNat
  4096 * (s.now - back - tb % 16)

end Sys2Proof.Machine
end

