-- ==== Sys2Proof/Machine/Record.lean ====
section
/-! DEFINITION. What a record holds: blocks, sidebands, descriptors and their place in Reservoir (R168 to R183), Sounding
(R206 to R209) and the banks of accumulated records (R195 to R197). -/

namespace Sys2Proof.Machine

/-! ### Blocks and sidebands (R168 to R170) -/

/-- Bytes 0 to 59 of a block (R168). -/
def blockData (fmt16 : Bool) (xs : List OutSample) : List Byte :=
  if fmt16 then padTo 60 (xs.flatMap (fun x => leBytes 2 (unsgn 16 x.v)))
  else leBytes 60 (xs.zipIdx.foldl (fun a (x, i) => a + unsgn 12 (x.v / 16) * 2 ^ (12 * i)) 0)

/-- The sideband of a block (R169). -/
structure Sideband where
  ovr : Bool := false
  invFirst : Nat := 0
  invCount : Nat := 0
  gap : Bool := false
  epoch : Nat := 0
  start : Bool := false
  trig : Option Nat := none
  slew : Bool := false
  fmt16 : Bool := false
  deriving DecidableEq, Repr, Inhabited

/-- Bytes 60 to 63 of a block (R169). -/
def Sideband.bytes (b : Sideband) : List Byte :=
  leBytes 4 (b2n b.ovr + 2 * b.invFirst + 2 ^ 7 * b.invCount + 2 ^ 13 * b2n b.gap + 2 ^ 14 * (b.epoch % 16) + 2 ^ 18 * b2n b.start +
    2 ^ 19 * b2n b.trig.isSome + 2 ^ 20 * b.trig.getD 0 + 2 ^ 26 * b2n b.slew + 2 ^ 27 * b2n b.fmt16)

/-- Block k of a member from its samples: data and sideband (R66, R168, R169). -/
def sampleBlock (fmt16 : Bool) (epoch : Nat) (gap : Bool) (trig : Option Nat) (k : Nat) (xs : List OutSample) : List Byte :=
  let inv := xs.findIdx? (fun x => !x.valid)
  blockData fmt16 xs ++ Sideband.bytes
    { ovr := xs.any OutSample.ovr, invFirst := inv.getD 0, invCount := xs.countP (fun x => !x.valid), gap := gap && k == 0, epoch := epoch,
      start := k == 0, trig := trig, slew := xs.any OutSample.slew, fmt16 := fmt16 }

/-- All blocks of a member, `b` samples each; `trigs` are the sample indices that carry a trigger mark. -/
def memberBlocks (fmt16 : Bool) (b epoch : Nat) (gap : Bool) (trigs : List Nat) (n : Nat) (xs : List OutSample) : List Byte :=
  (List.range n).flatMap (fun k =>
    sampleBlock fmt16 epoch gap ((trigs.find? (fun t => t / b == k)).map (· % b)) k ((xs.drop (k * b)).take b))

/-! ### The samples of a member -/

/-- One member's part of a segment, frame or sweep: its channel, the samples stored, and what it delivered over the whole time that the
members' stored samples span. -/
structure Part where
  n : Nat := 0
  xs : List OutSample := []
  outs : List OutSample := []
  deriving DecidableEq, Repr, Inhabited

/-- The parts of all members; none while a sample of one is not known. `span` gives first delivered sample and count. -/
def State.parts (s : State) (ns : List Nat) (span : Nat → Nat × Nat) : Option (List Part) :=
  let firsts := ns.map (fun n => s.stampAt n (span n).1)
  let lasts := ns.map (fun n => s.stampAt n ((span n).1 + (span n).2 - 1))
  let lo := firsts.foldl min (firsts.headD 0)
  let hi := lasts.foldl max 0
  ns.mapM (fun n =>
    match s.delivered s n (span n).1 (span n).2, s.delivered s n (s.countLt n lo) (s.countLt n (hi + 1) - s.countLt n lo) with
    | some xs, some outs => some { n := n, xs := xs, outs := outs }
    | _, _ => none)

/-! ### Descriptors (R181 to R183) -/

/-- t of a trigger at time t (Ts/4,096 of `State.now`) in group g's numbering. -/
def State.logTime (s : State) (g t : Nat) : Nat := (s.trigTb g t).toNat * 4096 + t % 4096

/-- An entry lies outside the range in which host software recovers it (R183). -/
def Desc.far (d : Desc) : Bool :=
  let ref : Int := match d.trig with
    | some (tb, f) => (tb.toNat * 4096 + f : Nat)
    | none => (d.firstTb.toNat * 4096 + d.firstFrac : Nat)
  d.log.any (fun e => (2 : Int) ^ 46 < ((e.1 : Int) - ref).natAbs)

/-- FLAGS (R182). -/
def Desc.flags (d : Desc) : Nat :=
  d.log.length + 2 ^ 5 * b2n d.waitFull + 2 ^ 6 * b2n d.degraded + 2 ^ 7 * b2n d.slew + 2 ^ 8 * b2n d.ovr + 2 ^ 9 * b2n d.final +
    2 ^ 10 * b2n (d.gapFrames ≠ 0) + 2 ^ 11 * b2n d.far + 2 ^ 12 * b2n d.trig.isNone + 2 ^ 13 * b2n d.logFull + 2 ^ 14 * b2n d.posFail

/-- Bytes 0 to 251 of a descriptor (R181). -/
def Desc.body (d : Desc) : List Byte :=
  leBytes 4 d.segNum ++ leBytes 4 d.acqNum ++ leBytes 1 d.group ++ leBytes 1 d.mode ++ leBytes 2 d.flags ++
    leBytes 2 d.calEpoch ++ leBytes 2 d.tbEpoch ++ leBytes 8 ((d.trig.map (fun t => t.1.toNat)).getD 0) ++ leBytes 2 ((d.trig.map Prod.snd).getD 0) ++
    leBytes 1 d.trigSrc ++ leBytes 1 (d.hoMode + 4 * d.sndCount) ++ leBytes 4 d.held ++ leBytes 4 d.pre ++ leBytes 4 d.post ++
    leBytes 4 d.acc ++ leBytes 4 d.rej ++ leBytes 8 d.startBlk ++ leBytes 8 d.firstTb.toNat ++ leBytes 4 d.invCount ++ leBytes 4 d.gapFrames ++
    leBytes 2 d.firstFrac ++ leBytes 2 d.tail ++ leBytes 16 d.mask ++
    padTo 96 (d.log.flatMap (fun e => leBytes 6 (e.1 % 2 ^ 47 + 2 ^ 47 * b2n e.2))) ++ padTo 64 (d.snd.flatMap (leBytes 4))

/-- A descriptor (R181). -/
def Desc.bytes (d : Desc) : List Byte := d.body ++ leBytes 4 (crc32 d.body)

/-- Reservoir writes in degraded mode (R189). -/
def Rsv.degraded (r : Rsv) : Bool := r.missing.isSome

/-- Write descriptor i (R167). -/
def State.putDesc (s : State) (i : Nat) (d : Desc) : State :=
  s.putBytes (256 * i) (Desc.bytes { d with degraded := s.rsv.degraded })

/-! ### Sounding (R206 to R209) -/

/-- One crossing in a Sounding window: time, direction, level B, and whether it counts (R207). -/
structure Cross where
  t : Nat := 0
  rise : Bool := true
  lvlB : Bool := false
  counts : Bool := true
  deriving DecidableEq, Repr, Inhabited

/-- Crossings of one level over a window, in order (R133, R142, R207): `a` is the sample before the list. -/
def crossList (l h : Int) (lvlB peak : Bool) (sp : Rat) : Option SlotSample → Bool → Bool → List SlotSample → List Cross
  | a, rise, fall, b :: c :: rest =>
    let (r, f) := if b.valid then armLevel l h b.x rise fall else (rise, fall)
    let moves := b.valid && c.valid
    let x := if moves then crossLevel l r f b.x c.x else none
    let d := rest.head?
    let good := moves && (a.map SlotSample.valid).getD false && (d.map SlotSample.valid).getD false
    let more := crossList l h lvlB peak sp (some b) (r && x ≠ some true) (f && x ≠ some false) (c :: rest)
    match x with
    | some up =>
      let t := if peak || !good then c.stamp else interpolate (a.getD b) b c (d.getD c) sp l up
      { t := t, rise := up, lvlB := lvlB, counts := good } :: more
    | none => more
  | _, _, _, _ => []

/-- Merge the crossings of LVL_A and of LVL_B by time, those of equal time in the order in which the signal meets the levels (R133,
R207): upward the lower level first. `low`: LVL_B is the lower one. -/
def mergeCross (low : Bool) : Nat → List Cross → List Cross → List Cross
  | 0, xs, ys => xs ++ ys
  | _, [], ys => ys
  | _, xs, [] => xs
  | n + 1, x :: xs, y :: ys =>
    if x.t < y.t || (x.t = y.t && x.rise != low) then x :: mergeCross low n xs (y :: ys) else y :: mergeCross low n (x :: xs) ys

/-- Intervals of two-crossing measurements (R137): what begins one, abandons it, and ends it; a crossing that does not count abandons it. -/
def intervals (begin_ abandon end_ : Cross → Bool) : Option Nat → List Cross → List Nat
  | _, [] => []
  | st, x :: xs =>
    if !x.counts then intervals begin_ abandon end_ none xs
    else
      let out := match st with | some t0 => if end_ x then [x.t - t0] else [] | none => []
      let st := if end_ x || abandon x then none else st
      out ++ intervals begin_ abandon end_ (if begin_ x then some x.t else st) xs

/-- One measurement's fields (R208, R211). -/
structure Meas where
  type : Nat := 0
  src : Nat := 0
  ref : Nat := 0
  pol : Nat := 0
  ncross : Nat := 1
  lvlA : Int := 0
  lvlB : Int := 0
  wstart : Int := 0
  wlen : Nat := 0
  deriving DecidableEq, Repr, Inhabited

/-- Measurement i of group g. -/
def State.meas (s : State) (g i : Nat) : Meas :=
  let c := s.reg (sndA g (0x100 + 16 * i))
  let l := s.reg (sndA g (0x104 + 16 * i))
  { type := fld c 3 0, src := fld c 10 4, ref := fld c 17 11, pol := fld c 19 18, ncross := fld c 30 20, lvlA := sgn 16 (fld l 15 0),
    lvlB := sgn 16 (fld l 31 16), wstart := sgn 32 (s.reg (sndA g (0x108 + 16 * i))), wlen := s.reg (sndA g (0x10C + 16 * i)) }

/-- The mean of a list of numbers, none of an empty one. -/
def meanI (xs : List Int) : Option Rat := if xs.isEmpty then none else some ((xs.sum : Rat) / xs.length)

/-- The least-squares intercept at k = 0 of the points (k, t_k) (R208). -/
def intercept (ts : List Nat) : Rat :=
  let n : Rat := ts.length
  let kb := (n - 1) / 2
  let tb := (ts.sum : Rat) / n
  let sxy := (ts.zipIdx.map (fun (t, k) => ((k : Rat) - kb) * ((t : Rat) - tb))).sum
  let sxx := (ts.zipIdx.map (fun (_, k) => ((k : Rat) - kb) ^ 2)).sum
  if sxx = 0 then tb else tb - sxy / sxx * kb

/-- The element of a list nearest r, the later one on a tie (R208). -/
def nearest (r : Nat) : List Nat → Option Nat
  | [] => none
  | t :: ts => match nearest r ts with
    | none => some t
    | some u => if ((u : Int) - r).natAbs ≤ ((t : Int) - r).natAbs then some u else some t

/-- The result of one measurement before saturation, rounded half away from zero (R208, R209). `win` is the SRC window, `refs` the REF
samples over it, `sp` their spacings, `t0` the reference time. -/
def Meas.value (m : Meas) (h : Int) (peak peakR : Bool) (sp spR : Rat) (win refs : List SlotSample) (t0 : Int) : Option Int :=
  let vs := (win.filter SlotSample.valid).map SlotSample.x
  let xa := crossList m.lvlA h false peak sp none false false win
  let dir (c : Cross) : Bool := c.counts && (m.pol = 2 || c.rise == (m.pol == 0))
  let ca := (xa.filter dir).map Cross.t
  let two := mergeCross (decide (m.lvlB < m.lvlA)) (2 * win.length) xa (crossList m.lvlB h true peak sp none false false win)
  let mean (xs : List Nat) : Option Int := (meanI ((xs.take m.ncross).map Int.ofNat)).map roundAway
  let upA (c : Cross) := c.rise && !c.lvlB
  let dnA (c : Cross) := !c.rise && !c.lvlB
  let upB (c : Cross) := c.rise && c.lvlB
  let dnB (c : Cross) := !c.rise && c.lvlB
  match m.type with
  | 1 => vs.min?
  | 2 => vs.max?
  | 3 => (meanI vs).map (fun q => roundAway (256 * q))
  | 4 => (meanI vs).map (fun q => roundSqrt (65536 * ((vs.map (fun v => ((v : Rat) - q) ^ 2)).sum / vs.length)))
  | 5 => (meanI (vs.map (fun v => v * v))).map (fun q => roundSqrt (65536 * q))
  | 6 => mean (intervals upB dnB upA none two)
  | 7 => mean (intervals dnA upA dnB none two)
  | 8 => match ca.take (m.ncross + 1) with
    | t :: u :: ts => some (roundAway ((((u :: ts).getLastD 0 - t : Nat) : Rat) / (ts.length + 1 : Nat)))
    | _ => none
  | 9 => mean (intervals upA (fun _ => false) dnA none xa)
  | 10 => mean (intervals dnA (fun _ => false) upA none xa)
  | 11 => some ca.length
  | 12 => match ca.take m.ncross with
    | [] => none
    | ts => some (roundAway (intercept ts - t0))
  | 13 =>
    let cr := ((crossList m.lvlA h false peakR spR none false false refs).filter dir).map Cross.t
    (meanI ((cr.take m.ncross).filterMap (fun r => (nearest r ca).map (fun t => (t : Int) - r)))).map roundAway
  | _ => none

/-- The window of a measurement on its stored samples (R206): `ref` is the index of the reference sample in them. -/
def Meas.window (m : Meas) (xs : List OutSample) (ref : Int) : List OutSample :=
  if m.wlen = 0 then xs
  else
    let lo := max 0 (ref + m.wstart)
    let hi := min (xs.length : Int) (ref + m.wstart + m.wlen)
    (xs.drop lo.toNat).take (hi - lo).toNat

/-- PEAK elements are delivered (R142). -/
def State.peak (s : State) (n : Nat) : Bool := s.decMode n = 1 && 2 ≤ s.dec n

/-- Measurement i over a segment, frame or sweep (R206 to R208): `ref` gives each member's reference sample, `t0` the reference time. -/
def State.measure1 (s : State) (g i : Nat) (ps : List Part) (ref : Nat → Int) (t0 : Nat → Int) : Option Int :=
  let m := s.meas g i
  match ps.find? (fun p => p.n == m.src) with
  | none => none
  | some p =>
    let win := m.window p.xs (ref m.src)
    let lo := (win.headD default).stamp
    let hi := (win.getLastD default).stamp
    let refs := match ps.find? (fun q => q.n == m.ref) with
      | some (q : Part) => if win.isEmpty then [] else q.outs.filter (fun (x : OutSample) => lo ≤ x.stamp && x.stamp ≤ hi)
      | none => []
    m.value (s.regF (sndA g 4) 27 16 : Nat) (s.peak m.src) (s.peak m.ref) (s.spacing m.src) (s.spacing m.ref)
      (win.map OutSample.slot) (refs.map OutSample.slot) (t0 m.src)

/-- SND_NUM of group g. -/
def State.sndNum (s : State) (g : Nat) : Nat := s.regF (sndA g 4) 4 0

/-- All results of a segment, frame or sweep, none for NONE. -/
def State.sound (s : State) (g : Nat) (ps : List Part) (ref : Nat → Int) (t0 : Nat → Int) : List (Option Int) :=
  (List.range (s.sndNum g)).map (fun i => s.measure1 g i ps ref t0)

/-- A result as it is written (R209). -/
def sndWord : Option Int → Nat
  | none => 0x80000000
  | some v => unsgn 32 (clampI (-(2 ^ 31 - 1)) (2 ^ 31 - 1) v)

/-- SND_NONE and SND_SAT count the results written (R209). -/
def State.countSnd (s : State) (g : Nat) (rs : List (Option Int)) : State :=
  s.updSnd g (fun x =>
    { x with sndNone := satAdd 0xFFFFFFFF x.sndNone (rs.countP Option.isNone),
             sndSat := satAdd 0xFFFFFFFF x.sndSat (rs.countP (fun r => match r with | some v => decide (2 ^ 31 - 1 < v ∨ v < -(2 ^ 31 - 1)) | none => false)) })

/-! ### Accumulated records (R195 to R197) -/

/-- A sample's value as its format writes it, in its own unit. -/
def State.unitValue (s : State) (n : Nat) (x : OutSample) : Int := if s.fmt16 n then x.v else x.v / 16

/-- Add a sweep to one member's bank (R195); `fresh` says that it is the record's first. -/
def State.addSweep (s : State) (p : Part) (bank : Nat) (fresh : Bool) : State :=
  let accum := s.pondMode p.n = 1
  let s := forEach (s.converters p.n) s (fun s k => s.updPondCh k (fun x => { x with stacked := true }))
  s.updPondCh p.n (fun x =>
    let b := nth x.banks bank
    let pts := p.xs.zipIdx.map (fun (y, i) =>
      if accum then
        let old : Int := if fresh then 0 else (b.pts.getD i (0, 0)).1
        (old + s.unitValue p.n y, (0 : Int))
      else
        let (lo, hi) := if fresh then ((32767 : Int), (-32768 : Int)) else b.pts.getD i (32767, -32768)
        (min lo y.v, max hi y.v))
    let mark (old : List Bool) (f : OutSample → Bool) : List Bool := p.xs.zipIdx.map (fun (y, i) => (!fresh && old.getD i false) || f y)
    { x with bank := bank, banks := x.banks.set bank { pts := pts, ovr := mark b.ovr OutSample.ovr, slew := mark b.slew OutSample.slew } })

/-- One block of an accumulated record (R197). -/
def bankBlock (accum fmt16 : Bool) (epoch trigPt : Nat) (b : Bank) (m : Nat) : List Byte :=
  let take {α : Type} (xs : List α) : List α := (xs.drop (15 * m)).take 15
  padTo 60 ((take b.pts).flatMap (fun (x, y) => if accum then leBytes 4 (unsgn 32 x) else leBytes 2 (unsgn 16 x) ++ leBytes 2 (unsgn 16 y))) ++
    Sideband.bytes { ovr := (take b.ovr).any id, epoch := epoch, start := m == 0, trig := if trigPt / 15 = m then some (trigPt % 15) else none,
                     slew := (take b.slew).any id, fmt16 := fmt16 }

/-- Points per member of a sweep, and blocks of its area (R194, R197). -/
def State.avgPoints (s : State) (n pre post : Nat) : Nat := (pre + post) * s.perBlock n
def avgArea (p : Nat) : Nat := 4 * cdiv (cdiv p 15) 4

end Sys2Proof.Machine
end

