-- ==== Sys2Proof/Machine/Acquire.lean ====
section
/-! DEFINITION. Acquisition boundaries (R35 to R41, R62, R72, R151, R203) and the arming, filling and ending of acquisitions and
streams (R152, R171 to R180, R194 to R199, R205, R314 to R317). -/

namespace Sys2Proof.Machine

/-! ### Boundaries -/

/-- Group u stamps in the unit's present numbering again (R226). -/
def State.clearNumbering (s : State) (u : Nat) : State :=
  s.updTb (fun t => { t with grpOfs := t.grpOfs.set u 0, grpEpoch := t.grpEpoch.set u none })

/-- The address is a MEMBER register. -/
def isMember (a : Nat) : Bool := decide (0x40000 ≤ a ∧ a < 0x50000 ∧ 0x380 ≤ a % 0x800 ∧ a % 0x800 < 0x390)

/-- Channels a register concerns (R21). -/
def regChans (a : Nat) : List Nat :=
  if 0x1000000 ≤ a then [(a - 0x1000000) / 3072]
  else match (shReg a).map ShReg.owner with
    | some (.chan n) => [n]
    | some (.quad q) => [4 * q, 4 * q + 1, 4 * q + 2, 4 * q + 3]
    | _ => []

/-- A counting period begins for channel n (R72, R129). -/
def State.newPeriod (s : State) (n : Nat) : State :=
  (s.updAcqCh n (fun c => { c with period := s.now, ovrCnt := 0, max := -2048, min := 2047, clampCnt := 0 })).updWeir n
    (fun x => { x with fadeSkip := 0, fadeCut := 0, sat := 0, deferCnt := 0, deferRepl := 0 })

/-- The converter window a boundary opens on channel n, 0 for none (R62): s0 before, s after. -/
def inputWindow (s0 s : State) (n : Nat) : Nat :=
  let c0 := s0.reg (chCfgA n)
  let c := s.reg (chCfgA n)
  if !s.produces n then 0
  else if s0.gang (n / 4) ≠ s.gang (n / 4) || fld c0 4 3 ≠ fld c 4 3 || !bit c0 0 then 4096
  else if fld c0 2 1 ≠ fld c 2 1 || fld c0 14 5 ≠ fld c 14 5 || s0.reg (chOffsetA n) ≠ s.reg (chOffsetA n) then 2048
  else 0

/-- One channel at a boundary where a generation of unit u applies (R37 to R39, R52, R59, R62, R72, R85, R112 to R122, R203); a counting
period begins for the unit's own channels alone. -/
def chanBoundary (s0 : State) (u : Nat) (regs : List (Nat × Word)) (acc : State × Flags) (n : Nat) : State × Flags :=
  let (s, f) := weirBoundary s0 (if s0.activeUnit n = u then acc.1.newPeriod n else acc.1) regs n
  let w := inputWindow s0 s n
  let s := if w = 0 then s else s.openWindow n w
  let s := s.setLive n (s0.gang (n / 4) ≠ s.gang (n / 4))
  (pondBoundary s0 (calBoundary s0 s regs n) n, { deferred := acc.2.deferred || f.deferred, replaced := acc.2.replaced || f.replaced })

/-- A generation changes a field of group u's trigger program, or of the slot at an offset (R151). -/
def progChanged (s0 : State) (regs : List (Nat × Word)) (u lo hi : Nat) : Bool :=
  regs.any (fun (a, v) => trgA u lo ≤ a && a < trgA u hi && v.toNat ≠ s0.reg a)

/-- A boundary changes the program of group u (R151): the logic applies it where it reaches the boundary. -/
def State.postProgram (s : State) (s0 : State) (regs : List (Nat × Word)) (u : Nat) : State :=
  if !s.judging u || !progChanged s0 regs u 0 0xA0 then s
  else
    let p : ProgChange := { slots := allBelow 4 (fun k => progChanged s0 regs u (0x20 + 16 * k) (0x28 + 16 * k)),
                            evA := progChanged s0 regs u 0x60 0x64, evB := progChanged s0 regs u 0x80 0x84 }
    s.updTrg u (fun x => { x with inbox := insItem { t := 4096 * s.now, program := some p } x.inbox })

/-- Units whose membership the generation changes (R81). -/
def movedUnits (s0 : State) (regs : List (Nat × Word)) : List Nat :=
  (regs.flatMap (fun (a, v) =>
    if isMember a && memberUnit v.toNat ≠ memberUnit (s0.reg a) then [memberUnit (s0.reg a), memberUnit v.toNat] else [])).eraseDups

/-- A boundary of unit u now changes what is in force. -/
def State.boundaryChanges (s : State) (u : Nat) : Bool :=
  !(nth s.units u).pend.isEmpty || s.tb.grpOfs.getD u 0 ≠ 0 || (s.tb.grpEpoch.getD u none).isSome ||
    (s.unitChans u).any (fun n => (nth s.acq.cal n).ready.isSome || !(nth s.acq.cal n).failing.isEmpty || (nth s.weir n).defer.isSome || s.ditherTurns n)

/-- An acquisition boundary of unit u now: the oldest pending generation applies as one, then held swaps, correction sets, spares and
dither (R36, R37, R39 to R41, R80, R226). -/
def State.acqBoundaryAt (s : State) (u : Nat) : State :=
  let s0 := (if s.boundaryChanges u then s.remember else s).clearNumbering u
  if (nth s.units u).pend.isEmpty then
    let s := (s0.unitChans u).foldl (fun s n => if (nth s.weir n).defer.isSome then (weirBoundary s0 s [] n).1 else s) s0
    s.calUnit u false
  else
    let regs := s.nextRegs u
    let s1 := s0.putRegs regs
    let ns := allBelow 128 (fun n => s0.activeUnit n == u || s1.activeUnit n == u || regs.any (fun r => (regChans r.1).contains n))
    let (s, f) := ns.foldl (chanBoundary s0 u regs) (s1, {})
    let s := if u < 32 then s.postProgram s0 regs u else s
    let s := s.genDone u s.tb.count (b2n f.deferred + 2 * b2n f.replaced)
    let moved := movedUnits s0 regs
    let s := s.calUnit u (moved.contains u)
    forEach (moved.filter (· ≠ u)) s (fun s v => s.calUnit v true)

/-! ### Slots and segments -/

/-- The directory entry of an acquisition. -/
def Rsv.find (r : Rsv) (g acq : Nat) : Option AcqRec := r.dir.find? (fun a => a.group == g && a.acqNum == acq)
/-- Change the directory entry of an acquisition. -/
def State.updDir (s : State) (g acq : Nat) (f : AcqRec → AcqRec) : State :=
  s.updRsv (fun r => { r with dir := r.dir.map (fun a => if a.group = g && a.acqNum = acq then f a else a) })

/-- The bank a record uses (R196). -/
def State.bankOf (s : State) (r : Run) : Nat := if (nth s.pond.ch (r.members.headD 0)).banked then r.seg % 2 else 0

/-- The slot, and in AVERAGE the bank, of the run's next segment is free (R172, R196). -/
def State.slotFree (s : State) (g : Nat) (r : Run) : Bool :=
  (match s.rsv.find g r.acqNum with
    | some a => a.segs.all (fun x => x.slot ≠ r.seg % r.slots)
    | none => true) &&
  (r.mode ≠ 4 || r.sweeps ≠ 0 || r.writeout.all (fun w => w.bank ≠ s.bankOf r))

/-- Delivered samples of channel n before the first that no present window or restart makes invalid (R121, R194). -/
def State.validFrom (s : State) (n : Nat) : Nat :=
  let p := s.path n
  let span := if p.d ≤ 1 || p.mode = 0 then 0 else if p.mode = 3 then s.taps n p.sel - 1 else p.d - 1
  let c := s.countLt n (p.bad + cdiv (4096 * span) p.g)
  if p.mode = 1 && 2 ≤ p.d then c / 2 * 2 else c

/-- First trigger time accepted once samples from time t on fill the pre-trigger region (R38, R172, R194). -/
def State.acceptAt (s : State) (r : Run) (t : Nat) : Nat :=
  r.members.foldl (fun m n =>
    let j := s.countLt n t
    max m (s.stampAt n ((if r.mode = 4 then max j (s.validFrom n) else j) + r.pre * s.perBlock n))) t

/-- Byte address and length of a slot. -/
def AcqRec.slotBytes (a : AcqRec) (j : Nat) : Nat × Nat := (64 * (a.rgnBase + j * a.slotBlocks), 64 * a.slotBlocks)

/-- The content of a slot and its descriptor is undefined while its segment has no accepted trigger (R172). -/
def State.openSlot (s : State) (g acq j : Nat) : State :=
  match s.rsv.find g acq with
  | some a => (s.undefine (a.slotBytes j).1 (a.slotBytes j).2).undefine (256 * (a.descBase + j)) 256
  | none => s

/-- Open the next segment, record or sweep of group g for samples from time t on, or wait for its slot or bank (R172, R194, R196). -/
def State.openSeg (s : State) (g t : Nat) : State :=
  match (nth s.rsv.grp g).run with
  | none => s
  | some r =>
    if s.slotFree g r then
      let o := s.acceptAt r t
      let s := s.updRun g (fun r => { r with openT := t })
      let s := (s.updTrg g (fun x => { x with st := .preFill, openAt := some o })).updSnd g (fun x => { x with waitBank := false })
      if r.sweeps = 0 then s.openSlot g r.acqNum (r.seg % r.slots) else s
    else
      let bank := r.mode = 4 && !(r.writeout.all (fun w => w.bank ≠ s.bankOf r))
      let s := s.updRun g (fun r => { r with openT := t, waited := true })
      let s := s.updRec g (fun x => { x with waitFullCnt := satAdd 0xFFFFFFFF x.waitFullCnt 1 })
      (s.updTrg g (fun x => { x with st := .waitFull, openAt := none })).updSnd g (fun x => { x with waitBank := bank })

/-- WAIT_FULL_END (R172, R196): the slot or bank has freed, and pre-trigger fill begins. A slot that frees before the dead time has ended
was never waited for. -/
def execWaitFullEnd (g : Nat) (s : State) : Res :=
  match (nth s.rsv.grp g).run with
  | none => .next s
  | some r =>
    if (nth s.trg.grp g).st == .waitFull && s.slotFree g r then
      let early := 4096 * s.now < r.openT
      let s := if early then (s.updRun g (fun r => { r with waited := false })).updRec g (fun x => { x with waitFullCnt := x.waitFullCnt - 1 }) else s
      .next (s.openSeg g (max (4096 * s.now) r.openT))
    else .next s

/-! ### Arming checks (R69, R126, R131, R152, R180, R205, R241) -/

/-- The status of the first check that fails, OK when none does. -/
def firstFail : List (Bool × Nat) → Nat
  | [] => OK
  | (bad, st) :: rest => if bad then st else firstFail rest

/-- The layout an acquisition of group g would have (R171). -/
structure Layout where
  mode : Nat := 0
  members : List Nat := []
  pre : Nat := 0
  post : Nat := 0
  frame : Nat := 0
  base : Nat := 0
  rgn : Nat := 0
  desc : Nat := 0
  descSlots : Nat := 0
  area : Nat := 0
  slots : Nat := 0
  deriving DecidableEq, Repr, Inhabited

def State.layout (s : State) (g : Nat) : Layout :=
  let mode := s.regF (recA g 0) 2 0
  let ns := s.members g
  let pre := s.reg (recA g 4)
  let post := s.reg (recA g 8)
  let rgn := s.reg (recA g 0x14)
  let frame := s.reg (recA g 0x20)
  let area :=
    if mode = 2 then 4 * (rgn / (4 * ns.length))
    else if mode = 3 then frame
    else if mode = 4 then ns.foldl (fun m n => max m (avgArea (s.avgPoints n pre post))) 0
    else 4 * cdiv (pre + post) 4
  let ds := s.reg (recA g 0x1C)
  { mode := mode, members := ns, pre := pre, post := post, frame := frame, base := s.reg (recA g 0x10), rgn := rgn, desc := s.reg (recA g 0x18),
    descSlots := ds, area := area, slots := if mode = 2 then 1 else min (rgn / (ns.length * area)) ds }

/-- Two ranges meet. -/
def meets (a n b m : Nat) : Bool := a < b + m && b < a + n && 0 < n && 0 < m

/-- The region or descriptor range overlaps an armed group's, or holds an unreleased segment (R180). -/
def State.taken (s : State) (l : Layout) : Bool :=
  s.rsv.dir.any (fun a =>
    (a.active && (meets l.base l.rgn a.rgnBase a.rgnBlocks || meets l.desc l.descSlots a.descBase a.descSlots)) ||
      a.segs.any (fun x => meets l.base l.rgn (a.rgnBase + x.slot * a.slotBlocks) a.slotBlocks || meets l.desc l.descSlots (a.descBase + x.slot) 1))

/-- Two members differ in sample rate, ratio, mode or format (R180). -/
def State.unlike (s : State) (ns : List Nat) : Bool :=
  ns.any (fun n => ns.any (fun m => s.rate n ≠ s.rate m || s.dec n ≠ s.dec m || s.decMode n ≠ s.decMode m || s.fmt16 n ≠ s.fmt16 m))

/-- The region lies in its space (R160, R167, R180). -/
def Layout.inSpace (l : Layout) : Bool :=
  if l.mode = 3 then 67108864 ≤ l.base && l.base + l.rgn ≤ 100663296 else 134217728 ≤ l.base && l.base + l.rgn ≤ 1610612736

/-- Groups that stream. -/
def State.streams (s : State) : Nat := s.rsv.grp.countP (fun x => match x.run with | some r => r.mode == 3 | none => false)

/-- The checks of R180, in order. -/
def State.checks180 (s : State) (g : Nat) (stream : Bool) (l : Layout) : List (Bool × Nat) :=
  let short (blocks : Nat) (ts : Rat) := l.members.any (fun n => (blocks * s.perBlock n : Nat) * s.spacing n < ts)
  [ (s.armed g, GROUP_BUSY),
    ((l.mode = 3) != stream || 4 < l.mode, PARAM_RANGE),
    (l.mode ≤ 1 && (l.post = 0 || l.pre + l.post < 8 || short (l.pre + l.post) 320), PARAM_RANGE),
    (l.mode = 3 && (l.frame % 4 ≠ 0 || l.frame < 16 || short l.frame 640), PARAM_RANGE),
    ((l.mode = 2 || l.mode = 3) && s.unlike l.members, PARAM_RANGE),
    (l.base % 4 ≠ 0 || !l.inSpace || 16777216 < l.desc + l.descSlots, PARAM_RANGE),
    (l.slots < 1 || (l.mode = 3 && l.slots < 2), PARAM_RANGE),
    (s.taken l, NO_RESOURCE),
    (stream && 16 ≤ s.streams, NO_RESOURCE),
    (s.rsv.secondFault, STATE) ]

/-- An event of group g fails a check of R152 (R138 to R140). -/
def State.badEvent (s : State) (g : Nat) (c : EvCfg) : Bool :=
  let src (k : Nat) := s.slotSrc g k
  let bev (k : Nat) : Bool := 0x88 ≤ src k && src k ≤ 0x8F
  c.type ≠ 0 &&
    (c.slots.any (fun k =>
      (src k < 128 && !(s.members g).contains (src k)) || src k = 0xFF ||
        ((src k = 0x80 || src k = 0x81) && !s.regB (trgA 0 (0x390 + 4 * (src k - 0x80))) 0)) ||
      (if c.type = 6 then c.slots.isEmpty || c.slots.any bev
       else (bev c.slot && c.type ≠ 1) || ((src c.slot = 0x80 || src c.slot = 0x81) && c.type ≠ 1 && c.type ≠ 3)) ||
      ((c.type = 2 || c.type = 4 || c.type = 5) && s.lvlA g c.slot ≤ s.lvlB g c.slot)) ||
  (c.qual ≠ 0 && !(3 ≤ c.type && c.type ≤ 5) && !(c.type = 6 && c.pol = 1)) || (3 ≤ c.qual && c.tmax < c.tmin)

/-- The checks of R152. -/
def State.checks152 (s : State) (g : Nat) : List (Bool × Nat) :=
  let a := s.evCfg g false
  let b := s.evCfg g true
  let seq := s.seqMode g = 1
  [ ((s.members g).isEmpty, PARAM_RANGE),
    (s.badEvent g a || (seq && s.badEvent g b), PARAM_RANGE),
    (seq && (a.type = 0 || b.type = 0), PARAM_RANGE),
    (s.reg (trgA g 0x14) ≠ 0 && s.reg (trgA g 0x14) < s.reg (trgA g 0x10), PARAM_RANGE) ]

/-- The checks of R205. The Pond fields of a non-lead channel have no effect (R192). -/
def State.checks205 (s : State) (g : Nat) (l : Layout) : List (Bool × Nat) :=
  let ns := (s.unitChans g).filter s.lead
  let avg := l.mode = 4
  let mode := s.pondMode
  let dens (n : Nat) : Bool := mode n = 3
  let ms := (List.range (s.sndNum g)).map (s.meas g)
  [ (ns.any (fun n => mode n ≠ 0) && !s.domOn 36, STATE),
    (avg && l.members.any (fun n => mode n = 0 || dens n), PARAM_RANGE),
    (avg && ns.any (fun n => mode n ≠ 0 && (131072 * s.rate n < s.avgPoints n l.pre l.post || 8192 * s.rate n < l.pre * s.perBlock n)), PARAM_RANGE),
    (avg && 65536 < s.regF (sndA g 0) 20 0 && ns.any (fun n => mode n = 1 && s.fmt16 n), PARAM_RANGE),
    (ns.any (fun n => dens n && (s.reg (pondA n 8) * s.dec n < 128 * s.rate n * s.perInterval n || sgn 32 (s.reg (pondA n 0xC)) < -8192 * (s.rate n : Int))), PARAM_RANGE),
    (ns.any (fun n => s.borrows n && mode (n ^^^ 1) ≠ 0), PARAM_RANGE),
    (ns.any (fun n => (mode n ≠ 0 && (s.converters n).any s.borrowed) || (s.borrows n && s.borrowed (n ^^^ 1))), NO_RESOURCE),
    (ms.any (fun m => !l.members.contains m.src || (m.type = 13 && !l.members.contains m.ref)), PARAM_RANGE),
    (ms.any (fun m => (m.pol = 2 && (m.type = 8 || m.type = 12 || m.type = 13)) || ((m.type = 6 || m.type = 7) && m.lvlA ≤ m.lvlB)), PARAM_RANGE) ]

/-- A waiting command has this wait. -/
def Cp.waits (c : Cp) (w : Wait) : Bool := c.jrn.any (fun e => e.wait == some w)

/-- The checks of R69, R126, R131 and R241. -/
def State.checksRest (s : State) (g : Nat) (l : Layout) : List (Bool × Nat) :=
  [ (l.members.any (fun n => !(nth s.acq.quads (n / 4)).ready), STATE),
    ((s.unitChans g).any (fun n => !s.domOn (32 + n / 32)), STATE),
    (!s.domOn (32 + g / 8), STATE),
    (s.cp.waits .timeLoad, STATE) ]

/-- All arming checks, in the order of R314. -/
def State.armChecks (s : State) (g : Nat) (stream : Bool) (l : Layout) : Nat :=
  firstFail (s.checks180 g stream l ++ s.checks152 g ++ s.checks205 g l ++ s.checksRest g l)

/-! ### ARM and STREAM_START -/

/-- A pending generation moves a channel into or out of group g (R40). -/
def State.movePending (s : State) (g : Nat) : Bool :=
  (List.range 33).any (fun u => (nth s.units u).pend.any (fun gen => gen.regs.any (fun (a, v) =>
    isMember a && memberUnit v.toNat ≠ u && (u == g || memberUnit v.toNat == g))))

/-- Pond's part of a start: the banks of AVERAGE (R196). -/
def State.startPond (s : State) (l : Layout) : State :=
  if l.mode ≠ 4 then s
  else forEach l.members s (fun s n => s.updPondCh n (fun x =>
    { x with bank := 0, writeout := false, banked := l.members.all (fun m => s.avgPoints m l.pre l.post ≤ 65536 * s.rate m) }))

/-- CAP_HWM (R191): what capture takes of a superframe depends on a schedule that the manual does not give, so the high-water mark rises to
a free value of at most 77. -/
def State.captures (s : State) : State :=
  let (k, s) := s.draw 1
  s.updRsv (fun r => { r with capHwm := max r.capHwm (Config.freeNat k % 78) })

/-- Start the acquisition or stream of group g now (R38, R72, R145, R171, R183, R314). -/
def State.startRun (s : State) (g : Nat) (l : Layout) (tag : Option Nat) : State :=
  let old := (nth s.rsv.grp g).acqNum
  let acq := if old = 0xFFFFFFFF then 1 else old + 1
  let run : Run := { acqNum := acq, mode := l.mode, members := l.members, area := l.area, slots := l.slots,
                     pre := if l.mode = 3 then 0 else l.pre, post := if l.mode = 3 then l.frame else l.post,
                     segCount := if l.mode = 0 then 1 else s.reg (recA g 0xC), tag := tag, openT := 4096 * s.now }
  let s := forEach (s.unitChans g) s.slewSettle State.newPeriod
  let s := (s.startPond l).captures
  let s := s.updSnd g (fun x => { x with waitBank := false, sndNone := 0, sndSat := 0 })
  let s := s.updRec g (fun x => { x with run := some run, acqNum := acq, segsDone := 0, slots := l.slots, nextSlot := 0, dropped := 0, waitFullCnt := 0 })
  let entry : AcqRec := { group := g, acqNum := acq, mode := l.mode, rgnBase := l.base, descBase := l.desc, slots := l.slots,
                          slotBlocks := l.members.length * l.area, rgnBlocks := l.rgn, descSlots := l.descSlots }
  let s := s.updRsv (fun r => { r with dir := r.dir ++ [entry] })
  let s := s.updTrg g (fun x => { lastTb := x.lastTb, lastFrac := x.lastFrac, lastSrc := x.lastSrc, pos := 4096 * s.now,
                                  inbox := if l.mode = 2 then [] else s.trg.ahead.filter (fun i => 4096 * s.now ≤ i.t),
                                  st := if l.mode = 2 then .rolling else if l.mode = 3 then .streaming else .idle })
  let slot (k : Nat) : SlotSt :=
    let src := s.slotSrc g k
    { high := (src = 0x80 || src = 0x81) && s.inputState g (src - 0x80), fed := 4096 * s.now }
  let s := s.updTrg g (fun x => { x with slots := (List.range 4).map slot })
  if l.mode = 2 || l.mode = 3 then s.openSlot g acq 0 else s.openSeg g (4096 * s.now)

/-- ARM and STREAM_START (R40, R314): at the boundary the oldest generation applies, the checks run, and the group starts. -/
def armBody (stream : Bool) (s : State) (e : JEntry) : CmdOut :=
  let g := pktIndex e.pkt
  if s.armed g then refuse s GROUP_BUSY
  else if s.movePending g then .hold
  else
    let s := s.acqBoundaryAt g
    let l := s.layout g
    let st := s.armChecks g stream l
    if st ≠ OK then refuse s st
    else
      let s := s.startRun g l (doneTag e.pkt)
      .done s OK (leBytes 4 (nth s.rsv.grp g).acqNum ++ leBytes 4 l.slots ++ leBytes 8 s.tb.count.toNat)

/-- ARM (R314). -/
def execArm (q : Nat) (s : State) : Res := runCmd s q 0x20 [] (fun p => pktIndex p ≤ 31) (armBody false)
/-- STREAM_START (R314). -/
def execStreamStart (q : Nat) (s : State) : Res := runCmd s q 0x24 [] (fun p => pktIndex p ≤ 31) (armBody true)

/-! ### The end of an acquisition (R166, R174, R316, R317) -/

/-- Waiting forces end with ABORTED (R149). -/
def State.abortForces (s : State) (g : Nat) : State :=
  let fs := (nth s.trg.grp g).forces
  forEach fs (s.updTrg g (fun x => { x with forces := [] })) (fun s i => s.finish i ABORTED [])

/-- The group judges no further: sequence and hold-off are cleared (R147, R151). -/
def State.stopJudging (s : State) (g : Nat) : State :=
  s.updTrg g (fun x => { x with st := .idle, seqWaitB := false, seqNb := 0, hoEnd := none, hoLeft := 0, held := 0, openAt := none, inbox := [], evA := {}, evB := {} })

/-- RESULT of STOP, ABORT and STREAM_STOP (R316). -/
def endResult (acq stored freed reason : Nat) : List Byte := leBytes 4 acq ++ leBytes 4 stored ++ leBytes 4 freed ++ leBytes 1 reason

/-- RESULT on an idle group (R316). -/
def idleResult : List Byte := zeros 13 ++ [1]

/-- The acquisition has ended: ACQ_DONE, the commands that wait for it, the directory, and its channels' banks and maps (R174, R193, R211, R317). -/
def State.endAcq (s : State) (g : Nat) (reason : EndReason) : State :=
  match (nth s.rsv.grp g).run with
  | none => s
  | some r =>
    let done := ((s.rsv.find g r.acqNum).map AcqRec.done).getD 0
    let s := s.slewSettle.event 2 g r.tag (s.tbOf g) (leBytes 4 r.acqNum ++ leBytes 4 done ++ leBytes 4 r.freed ++ leBytes 1 reason.code ++ leBytes 1 r.mode)
    let gaps := ((s.rsv.find g r.acqNum).map AcqRec.gaps).getD [] ++ (if r.gapFrames = 0 then [] else [(r.gapFirst, r.gapFrames)])
    let past : PastAcq := { group := g, acqNum := r.acqNum, top := done + (gaps.map Prod.snd).sum, gaps := gaps }
    let s := (s.updRsv (fun x => { x with past := past :: x.past.filter (fun p => p.group ≠ g || p.acqNum ≠ r.acqNum) }))
    let s := (s.abortForces g).stopJudging g
    let s := s.updRec g (fun x => { x with run := none, lastEnd := some (r.acqNum, done, r.freed, reason.code) })
    let s := (s.updDir g r.acqNum (fun a => { a with active := false })).updRsv (fun x =>
      { x with dir := x.dir.filter (fun a => a.active || !a.segs.isEmpty) })
    let s := (forEach r.members s (fun s n => s.updPondCh n (fun x => { x with banked := false, writeout := false }))).stopMaps g
    let s := s.updSnd g (fun x => { x with waitBank := false })
    s.finishWaits (fun e => e.wait == some (.ending g)) OK (fun _ => endResult r.acqNum done r.freed reason.code)

/-- Nothing of the acquisition waits in the capture queues or in a write-out (R166, R199). -/
def State.drainedAcq (s : State) (g : Nat) (r : Run) : Bool :=
  r.writeout.isEmpty && (match s.rsv.find g r.acqNum with | some a => a.segs.all (fun x => x.st != .queued) | none => true)

/-- The descriptor fields every record shares (R181): the present numbering and epoch, the log and the counts of the segment. -/
def State.desc0 (s : State) (g : Nat) (r : Run) (slotBlk : Nat) (trig : Option TrigInfo) (final : Bool) : Desc :=
  { segNum := r.seg, acqNum := r.acqNum, group := g, mode := r.mode, calEpoch := s.acq.unitEpoch.getD g 0, tbEpoch := s.grpEpoch g,
    trig := trig.map (fun t => (s.trigTb g t.t, t.t % 4096)), trigSrc := (trig.map TrigInfo.src).getD 0, hoMode := (trig.map TrigInfo.hoMode).getD (s.regF (trgA g 0) 1 0),
    sndCount := if r.mode = 2 then 0 else s.sndNum g, held := (trig.map TrigInfo.held).getD 0, pre := r.pre, post := r.post, acc := r.accTimes.length,
    rej := (nth s.trg.grp g).rejSeg, startBlk := slotBlk, waitFull := r.waited, final := final,
    log := r.log.map (fun e => (s.logTime g e.1, e.2)), logFull := r.logDropped }

/-- What the samples of the members say in the descriptor. -/
def Desc.addParts (d : Desc) (s : State) (g : Nat) (ps : List Part) (invs : Bool) : Desc :=
  let all := ps.flatMap Part.xs
  let first := ((ps.headD default).xs.headD default).stamp
  { d with firstTb := s.stampTb g (first / 4096), firstFrac := first % 4096, invCount := if invs then all.countP (fun x => !x.valid) else 0,
           mask := ps.foldl (fun m p => m + 2 ^ p.n) 0, slew := all.any OutSample.slew, ovr := all.any OutSample.ovr, posFail := all.any OutSample.pos }

/-- A segment joins the directory, its writes in the capture queues. `fresh`: it was begun since the stack that is being rebuilt came
back; an accumulated record is written from its close on. -/
def State.queueSeg (s : State) (g : Nat) (r : Run) (slot : Nat) (trig : Option TrigInfo) : State :=
  s.captures.updDir g r.acqNum (fun a => { a with
    segs := a.segs ++ [{ num := r.seg, slot := slot, degraded := s.rsv.degraded, trigTb := (trig.map (fun t => s.trigTb g t.t)).getD 0,
                         trigFrac := (trig.map (fun t => t.t % 4096)).getD 0,
                         fresh := s.rsv.rebuildRun && (r.mode = 4 || 4096 * s.rsv.rebuildAt ≤ r.openT) }],
    anyDegraded := a.anyDegraded || s.rsv.degraded })

/-- The sums of Sounding over a record's sweeps as results (R209). -/
def sndMean (acc : List (Int × Nat)) : List (Option Int) :=
  acc.map (fun (t, k) => if k = 0 then none else some (roundAway ((t : Rat) / k)))

/-- Close the record being accumulated: its write-out begins (R196, R198, R199). -/
def State.closeRecord (s : State) (g : Nat) (final : Bool) : State :=
  match (nth s.rsv.grp g).run, ((nth s.rsv.grp g).run.bind (fun r => s.rsv.find g r.acqNum)) with
  | some r, some a =>
    let slot := r.seg % r.slots
    let snd := sndMean r.sndAcc
    let bank := s.bankOf r
    let marks (f : Bank → List Bool) : Bool := r.members.any (fun n => (f (nth (nth s.pond.ch n).banks bank)).any id)
    let (rej, log, logFull) := r.shut.getD ((nth s.trg.grp g).rejSeg, r.log, r.logDropped)
    let d := { s.desc0 g { r with log := log, logDropped := logFull } (a.rgnBase + slot * a.slotBlocks) r.recTrig final with
      rej := rej, acc := r.sweeps, held := r.heldSum, firstTb := r.firstTb, firstFrac := r.firstFrac, mask := r.members.foldl (fun m n => m + 2 ^ n) 0,
      snd := snd.map sndWord, slew := marks Bank.slew, ovr := marks Bank.ovr, posFail := r.posFail }
    let s := (s.countSnd g snd).queueSeg g r slot r.recTrig
    let s := forEach r.members s (fun s n => s.updPondCh n (fun x => { x with writeout := true }))
    s.updRun g (fun r => { r with writeout := r.writeout ++ [{ num := r.seg, bank := bank, desc := d }], sweeps := 0, recTrig := none, heldSum := 0,
                                  shut := none, waited := false, sndAcc := [], posFail := false })
  | _, _ => s

/-- The counts and log of what is judged begin afresh (R147). -/
def State.freshCounts (s : State) (g : Nat) : State :=
  (s.updRun g (fun r => { r with log := [], logDropped := false })).updTrg g (fun x => { x with rejSeg := 0 })

/-- The group goes on to its next segment. -/
def State.nextSeg (s : State) (g : Nat) : State :=
  let s := s.updRun g (fun r => { r with seg := (r.seg + 1) % 2 ^ 32, trig := none, accTimes := [], waited := false })
  match (nth s.rsv.grp g).run with
  | some r => s.updRec g (fun x => { x with nextSlot := r.seg % r.slots })
  | none => s

/-- The members' slices accumulate the present record in its bank (R196, R211). -/
def State.pickBank (s : State) (g : Nat) : State :=
  match (nth s.rsv.grp g).run with
  | some r => forEach r.members s (fun s n => s.updPondCh n (fun x => { x with bank := s.bankOf r }))
  | none => s

/-- The dead time after a record's last sweep has ended by an instant, in `State.now`: the record closes, and the next one opens or the
acquisition ends (R194, R199). -/
def State.closeBy (s : State) (g at_ : Nat) : State :=
  match (nth s.rsv.grp g).run with
  | none => s
  | some r => match r.closeAt with
    | none => s
    | some t =>
      if 4096 * at_ < t then s
      else
        let final := r.stopping || r.seg + 1 = r.segCount
        let s := ((s.closeRecord g final).nextSeg g).updRun g (fun r => { r with closeAt := none })
        if final then s.updRun g (fun x => { x with ending := some (if r.stopping then .stop else .complete) })
        else (s.pickBank g).openSeg g t

/-- What the end of a dead time does, by now (R194). -/
def State.closeDue (s : State) (g : Nat) : State := s.closeBy g s.now

/-- STOP (false) or ABORT (true), executed at an instant in `State.now`, acts on a running acquisition or stream (R174, R176, R178, R199).
Where it comes after a fill or frame has ended that is not yet stored, it acts once that is. -/
def State.stopAt (s0 : State) (g : Nat) (abort : Bool) (at_ : Nat) : State :=
  let s := s0.closeBy g at_
  match (nth s.rsv.grp g).run with
  | none => s
  | some r =>
    if r.ending.isSome || r.after.isSome then s
    else
      let filling := (nth s.trg.grp g).st == .postFill
      let reason : EndReason := if abort then .abort else .stop
      let s := s.abortForces g
      if s.fillEnded g then s.updRun g (fun r => { r with after := some (reason, at_) })
      else if filling && !abort then
        (s.updRun g (fun r => { r with stopping := true })).updTrg g (fun x =>
          { x with seqWaitB := false, seqNb := 0, hoEnd := none, hoLeft := 0, held := 0 })
      else
        let s := if r.mode = 4 && !abort && r.sweeps ≠ 0 then s.closeRecord g true else s
        let freed := abort && ((r.mode ≤ 1 && filling) || (r.mode = 4 && (filling || r.sweeps ≠ 0)) || (r.mode = 3 && !r.dropping))
        (s.updRun g (fun r => { r with ending := some reason, endNow := at_, closeAt := none, shut := none, freed := r.freed + b2n freed })).stopJudging g

/-- STOP (false) or ABORT (true) executes now. -/
def State.stopRun (s : State) (g : Nat) (abort : Bool) : State := s.stopAt g abort s.now

/-- FORCE_TRIGGER (R145, R149, R315): a force that waits has passed its checks, and its ACCEPTED is due (R302). A force, though it makes a
qualified trigger, leaves the sequence as it is (DESIGN CHOICE, log 111). -/
def execForceTrigger (q : Nat) (s : State) : Res :=
  runCmd s q 0x21 [(16, 1)] (fun p => pktIndex p ≤ 31 && rd p 16 1 < 2)
    (fun s e =>
      let g := pktIndex e.pkt
      let s := s.closeDue g
      if !s.judging g then refuse s STATE
      else
        let t := s.forceTime g
        let s := (s.updTrg g (fun x => { x with qualCnt := satAdd 0xFFFFFFFF x.qualCnt 1 })).outPulse g 1 t (t / 4096 + s.logicBack g)
        let seg := (((nth s.rsv.grp g).run.map Run.seg).getD 0)
        if s.accepting g t then
          let s := s.acceptForce g t
          .done s OK (forceResult s g t seg 0)
        else if rd e.pkt 16 1 = 0 then
          let s := s.reject g t
          .done s OK (forceResult s g t seg 1)
        else .wait (s.updTrg g (fun x => { x with forces := x.forces ++ [e.idx] })) (.force g) (some []))

/-- TRIGGER_DECISION (R133 to R148, R151, R153, R154): the group's slots compare the samples their channels deliver, and its logic handles
crossings, transitions and Beacon events in order of time, as far as R155 lets it be and every one of them is known. A record whose dead
time is over has closed. -/
def execTriggerDecision (g : Nat) (feeds : List Feed) (upTo : Nat) (s : State) : Res :=
  let s := (s.take feeds).closeDue g
  if !s.judging g then .next s
  else
    let s := forEach (List.range 4) s (fun s k => s.feedGroupSlot g k)
    let x := nth s.trg.grp g
    let limit := (s.usedSlots g).foldl (fun m k => if s.slotSrc g k < 128 then min m (nth x.slots k).known else m) (min upTo (4096 * (s.now - s.logicBack g)))
    let s := s.batches x.inbox.length g limit
    let limit := match s.logicEnd g with | some e => min limit e | none => limit
    let s := if s.judging g then s.forceBelow g (limit + 1) else s
    .next (s.updTrg g (fun x => { x with pos := max x.pos (limit + 1) })).drawMaps

/-- ACCEPTANCE_OPENS (R146, R149): the pre-trigger region is full, and the group accepts; a waiting force is judged once the logic has
reached the stamp. -/
def execAcceptanceOpens (g : Nat) (s0 : State) : Res :=
  let s := s0.closeDue g
  let x := nth s.trg.grp g
  match x.st, x.openAt with
  | .streaming, _ => .next (if s.forceTime g < s.logicPos g then s.judgeForce g (s.forceTime g) else s)
  | _, some o =>
    if (x.st == .preFill || x.st == .rearm || x.st == .accepting) && o ≤ 4096 * s.now then
      let s := s.updTrg g (fun x => { x with st := .accepting })
      .next (s.forceBelow g (s.logicPos g))
    else .next s
  | _, none => .next s

/-- The fill of a segment that another follows, or the frame, has ended, the dead time too, and no boundary has followed yet (R35). -/
def State.boundaryDue (s : State) (u : Nat) (r : Run) : Bool :=
  r.cut.isNone && r.ending.isNone && r.after.isNone &&
    (match s.fillLast u with
      | some e => if r.mode = 3 then decide (e < 4096 * s.now) else r.mode = 1 && r.seg + 1 ≠ r.segCount && !r.stopping && deadEnd e ≤ 4096 * s.now
      | none => false)

/-- The stream's frame that runs begins with the samples stamped from t on: where it is the first of a gap, the gap begins there (R178). -/
def State.frameFrom (s : State) (g t : Nat) : State :=
  s.updRun g (fun r => { r with openT := t, gapTb := if r.dropping && r.gapFirst == r.seg then s.stampTb g (t / 4096) else r.gapTb })

/-- ACQ_BOUNDARY (R35, R36): each core-cycle edge of an idle unit; between segments of SEGMENTED, which the next segment follows; between
frames of a stream. In AVERAGE no generation applies, and the dead time after a record's last sweep ends (R194). It may come before the row that stores the segment or frame. A boundary that is none changes nothing. -/
def execAcqBoundary (u : Nat) (s : State) : Res :=
  if 32 < u then .next s
  else match (nth s.rsv.grp u).run with
    | none => .next (s.acqBoundaryAt u)
    | some r =>
      let applies := !(nth s.units u).pend.isEmpty
      if r.mode = 4 then .next (s.closeDue u)
      else if r.mode = 1 && (nth s.trg.grp u).st == .rearm && r.openT ≤ 4096 * s.now then
        .next ((s.acqBoundaryAt u).openSeg u (4096 * s.now))
      else if s.boundaryDue u r then .next ((s.acqBoundaryAt u).updRun u (fun x => { x with cut := some (s.now, applies) }))
      else if r.mode = 3 && r.bndAt == some s.now then
        let s' := (s.acqBoundaryAt u).updRun u (fun x => { x with bndAt := none })
        .next (if applies then s'.frameFrom u (s'.firstFrom r (4096 * s.now)) else s')
      else .next s

/-- A command that ends a group's acquisition: it waits until it has ended (R316, R317). -/
def stopBody (s : State) (e : JEntry) (bad : Run → Bool) (act : State → State) (accepted : Bool) : CmdOut :=
  let g := pktIndex e.pkt
  match (nth s.rsv.grp g).run with
  | none => .done s OK idleResult
  | some r => if bad r then refuse s STATE else .wait (act s) (.ending g) (if accepted then some [] else none)

/-- STOP (R174, R316). -/
def execStop (q : Nat) (s : State) : Res :=
  runCmd s q 0x22 [] (fun p => pktIndex p ≤ 31) (fun s e => stopBody s e (fun r => r.mode == 3) (fun s => s.stopRun (pktIndex e.pkt) false) true)

/-- ABORT (R174, R178, R316). -/
def execAbort (q : Nat) (s : State) : Res :=
  runCmd s q 0x23 [] (fun p => pktIndex p ≤ 31) (fun s e => stopBody s e (fun _ => false) (fun s => s.stopRun (pktIndex e.pkt) true) false)

/-- STREAM_STOP acts on a stream: the frame that runs is its last (R178). -/
def State.stopStream (s : State) (g : Nat) : State :=
  let late := s.fillEnded g
  s.updRun g (fun r => if late && r.after.isNone then { r with after := some (.stop, s.now) } else { r with streamStop := true })

/-- STREAM_STOP (R178, R316): the stream ends at its next frame boundary. -/
def execStreamStop (q : Nat) (s : State) : Res :=
  runCmd s q 0x25 [] (fun p => pktIndex p ≤ 31)
    (fun s e => stopBody s e (fun r => r.mode != 3) (fun s => s.stopStream (pktIndex e.pkt)) true)

/-- A write of ABORT_ALL (R296). -/
def State.abortAll (s : State) (v : Nat) : State :=
  if !s.domOn 45 || fld v 15 0 ≠ 0xAB07 then s
  else forEach (List.range 32) (s.updCp (fun c => { c with abortCnt := satAdd 65535 c.abortCnt 1 })) (fun s g => s.stopRun g true)

/-- ABORT_ALL (R296). -/
def execAbortAll (v : Word) (s : State) : Res := .next (s.tlp.abortAll v.toNat)

/-! ### Filling (R173, R177, R179, R194) -/

/-- Store the members' blocks in a slot: data, then pads (R162, R171). -/
def State.storeParts (s : State) (g : Nat) (r : Run) (slotBlk nblk : Nat) (gap : Bool) (trigs : Part → List Nat) (ps : List Part) : State :=
  forEach ps s (fun s p =>
    let m := (r.members.findIdx? (· == p.n)).getD 0
    let a := 64 * (slotBlk + m * r.area)
    let s := s.putBytes a (memberBlocks (s.fmt16 p.n) (s.perBlock p.n) (s.acq.unitEpoch.getD g 0) gap (trigs p) nblk p.xs)
    s.putZeros (a + 64 * nblk) (64 * (r.area - nblk)))

/-- The last stamp of the parts, in Ts/4,096. -/
def lastStamp (ps : List Part) : Nat := ps.foldl (fun m p => max m (p.xs.getLastD default).stamp) 0

/-- Post-trigger fill of a segment ends (R173): blocks, Sounding and the descriptor. -/
def State.fillSegment (s : State) (g : Nat) (r : Run) (a : AcqRec) (t : TrigInfo) (ps : List Part) : State :=
  let slot := r.seg % r.slots
  let blk := a.rgnBase + slot * a.slotBlocks
  let final := r.seg + 1 = r.segCount || r.stopping
  let snd := s.sound g ps (fun n => r.pre * s.perBlock n) (fun _ => t.t)
  let d := { (s.desc0 g r blk (some t) final).addParts s g ps true with snd := snd.map sndWord }
  let s := (s.storeParts g r blk (r.pre + r.post) false (fun p => [r.pre * s.perBlock p.n]) ps).putDesc (a.descBase + slot) d
  let s := s.countSnd g snd
  let s := ((s.queueSeg g r slot (some t)).freshCounts g).nextSeg g
  let s := s.updRun g (fun r => { r with openT := deadEnd (lastStamp ps) })
  if final then
    (s.updRun g (fun r => { r with ending := some (if r.stopping then .stop else .complete) })).updTrg g (fun x => { x with st := .idle, openAt := none })
  else s.updTrg g (fun x => { x with st := .rearm, openAt := none })

/-- Add one sweep's Sounding results to the record's (R209). -/
def addSnd (acc : List (Int × Nat)) (rs : List (Option Int)) : List (Int × Nat) :=
  rs.zipIdx.map (fun (r, i) =>
    let (t, k) := acc.getD i (0, 0)
    match r with
    | some v => (t + v, k + 1)
    | none => (t, k))

/-- Post-trigger fill of a sweep ends (R194, R195, R199): the sweep joins the record, which closes at the end of the dead time where it
holds AVG_COUNT sweeps or STOP let this one complete. -/
def State.fillSweep (s : State) (g : Nat) (r : Run) (t : TrigInfo) (ps : List Part) : State :=
  let snd := s.sound g ps (fun n => r.pre * s.perBlock n) (fun _ => t.t)
  let bank := s.bankOf r
  let s := forEach ps s (fun s p => s.addSweep p bank (r.sweeps == 0))
  let first := ((ps.headD default).xs.headD default).stamp
  let dead := deadEnd (lastStamp ps)
  let closes := r.stopping || r.sweeps + 1 = s.regF (sndA g 0) 20 0
  let s := s.updRun g (fun r =>
    let r := if r.sweeps = 0 then { r with recTrig := some t, firstTb := s.stampTb g (first / 4096), firstFrac := first % 4096 } else r
    { r with sweeps := r.sweeps + 1, trig := none, sndAcc := addSnd r.sndAcc snd, posFail := r.posFail || (ps.any (fun p => p.xs.any OutSample.pos)),
             closeAt := if closes then some dead else none, openT := dead,
             shut := if closes then some ((nth s.trg.grp g).rejSeg, r.log, r.logDropped) else none })
  if closes then
    (s.freshCounts g).updTrg g (fun x => { x with st := if r.stopping || r.seg + 1 = r.segCount then .idle else .rearm, openAt := none })
  else
    let s := s.openSeg g dead
    if (nth s.trg.grp g).st == .preFill then s.updTrg g (fun x => { x with st := .rearm }) else s

/-- A fill has ended and its samples are known: it is stored under the configuration it began with. Where the boundary has passed, the
next segment follows it; a STOP or ABORT that came after the fill acts now (R35, R173, R174, R194). -/
def State.fillDone (s : State) (g : Nat) (r : Run) (a : AcqRec) (t : TrigInfo) (ps : List Part) : State :=
  let s := s.under (r.openT / 4096) (fun v => if r.mode = 4 then v.fillSweep g r t ps else v.fillSegment g r a t ps)
  let s := s.updRun g (fun r => { r with cut := none, after := none })
  let s := match r.cut with
    | some (c, _) => if (nth s.trg.grp g).st == .rearm then s.openSeg g (4096 * c) else s
    | none => s
  match r.after with
  | some (why, at_) => s.stopAt g (why == .abort) at_
  | none => s

/-- POST_FILL_END (R173, R194): the last member has stored its last block, or delivered its last point, and the group's logic has judged
the triggers of the fill; the dead time follows it. -/
def execPostFillEnd (g : Nat) (feeds : List Feed) (s0 : State) : Res :=
  let s := s0.take feeds
  match (nth s.rsv.grp g).run with
  | none => .next s
  | some r =>
    match r.trig, s.rsv.find g r.acqNum with
    | some t, some a =>
      if (nth s.trg.grp g).st != .postFill || !s.fillEnded g || !s.fillJudged g then .next s
      else
        let v := s.asOf (r.openT / 4096)
        match v.parts (r.members.filter v.produces) (fun n => (v.trigSample n t.t - r.pre * v.perBlock n, (r.pre + r.post) * v.perBlock n)) with
        | none => .next s
        | some ps => .next (s.fillDone g r a t ps)
    | _, _ => .next s

/-- A SEG_DONE event (R175, R279). -/
def State.segDone (s : State) (g acq : Nat) (x : Seg) : State :=
  let sh := s.regF (recA g 0) 7 3
  if sh ≤ 24 && x.num % 2 ^ sh = 0 then
    s.event 1 g none x.trigTb (leBytes 4 acq ++ leBytes 4 x.num ++ leBytes 4 x.slot ++ leBytes 2 x.trigFrac)
  else s

/-- The oldest queued segment of an acquisition is complete (R173, R175, R179): the directory, SEGS_DONE and SEG_DONE. -/
def State.completeSeg (s : State) (g : Nat) (r : Run) : State :=
  match (s.rsv.find g r.acqNum).bind (fun a => a.segs.find? (fun x => x.st == .queued)) with
  | none => s
  | some x =>
    let s := s.updDir g r.acqNum (fun a => { a with
      segs := a.segs.map (fun y => if y.num = x.num then { y with st := .complete } else y), done := satAdd 0xFFFFFFFF a.done 1 })
    (s.updRec g (fun y => { y with segsDone := satAdd 0xFFFFFFFF y.segsDone 1 })).segDone g r.acqNum x

/-- An acquisition that ends by completion ends once everything of it is written (R166, R174). -/
def State.endIfComplete (s : State) (g : Nat) : State :=
  match (nth s.rsv.grp g).run with
  | some r => if r.ending == some .complete && s.drainedAcq g r then s.endAcq g .complete else s
  | none => s

/-- SEGMENT_COMPLETE (R173 to R175): a segment's or frame's blocks and descriptor have reached the stacks. -/
def execSegmentComplete (g : Nat) (s : State) : Res :=
  match (nth s.rsv.grp g).run with
  | some r => if r.mode = 4 then .next s else .next ((s.completeSeg g r).endIfComplete g)
  | none => .next s

/-- The blocks of an accumulated record's members go into its slot (R197). -/
def State.storeRecord (s : State) (r : Run) (w : WriteOut) : State :=
  forEach (r.members.zipIdx) s (fun s (n, m) =>
    let p := s.avgPoints n r.pre r.post
    let b := nth (nth s.pond.ch n).banks w.bank
    let nblk := cdiv p 15
    let bytes := (List.range nblk).flatMap (bankBlock (s.pondMode n = 1) (s.fmt16 n) w.desc.calEpoch (r.pre * s.perBlock n) b)
    let a := 64 * (w.desc.startBlk + m * r.area)
    (s.putBytes a bytes).putZeros (a + 64 * nblk) (64 * (r.area - nblk)))

/-- The oldest write-out ends: its descriptor is written, its bank is free, and its record is complete (R179, R196 to R199). -/
def State.writeoutDone (s : State) (g : Nat) : State :=
  match (nth s.rsv.grp g).run with
  | none => s
  | some r =>
    match r.writeout, s.rsv.find g r.acqNum with
    | w :: rest, some a =>
      let s := (s.storeRecord r w).putDesc (a.descBase + w.num % r.slots) w.desc
      let s := s.updRun g (fun r => { r with writeout := rest })
      let s := if rest.isEmpty then forEach r.members s (fun s n => s.updPondCh n (fun x => { x with writeout := false })) else s
      s.completeSeg g r
    | _, _ => s

/-- AVG_WRITEOUT_DONE (R179, R196 to R199). -/
def execAvgWriteoutDone (g : Nat) (s : State) : Res := .next (((s.closeDue g).writeoutDone g).endIfComplete g)

/-! ### Streams (R177, R178) -/

/-- Store the frame that ends, with its descriptor (R177, R178). -/
def State.storeFrame (s : State) (g : Nat) (r : Run) (a : AcqRec) (ps : List Part) : State :=
  let slot := r.seg % r.slots
  let blk := a.rgnBase + slot * a.slotBlocks
  let first (n : Nat) := s.countLt n r.openT
  let ends (n : Nat) := first n + r.post * s.perBlock n
  let snd := s.sound g ps (fun _ => 0) (fun n => s.stampAt n (first n))
  let d := { (s.desc0 g r blk r.trig r.streamStop).addParts s g ps true with snd := snd.map sndWord, gapFrames := r.gapFrames }
  let marks (p : Part) : List Nat :=
    (r.accTimes.filter (fun t => first p.n < s.countLt p.n (t + 1))).map (fun t => min (s.trigSample p.n t) (ends p.n - 1) - first p.n)
  let s := (s.storeParts g r blk r.post (r.gapFrames ≠ 0) marks ps).putDesc (a.descBase + slot) d
  let s := s.countSnd g snd
  let s := if r.gapFrames = 0 then s
    else (s.updDir g r.acqNum (fun a => { a with gaps := a.gaps ++ [(r.gapFirst, r.gapFrames)] })).event 3 g none r.gapTb
      (leBytes 4 r.acqNum ++ leBytes 4 r.gapFirst ++ leBytes 4 r.gapFrames)
  let s := s.queueSeg g r slot r.trig
  (s.updRun g (fun r => { r with gapFrames := 0, trig := none, accTimes := [], log := [], logDropped := false })).updTrg g (fun x => { x with rejSeg := 0 })

/-- The next frame of a stream begins with the samples stamped from t on, stored or dropped (R172, R178). -/
def State.openFrame (s : State) (g t : Nat) : State :=
  let s := s.updRun g (fun r => { r with seg := (r.seg + 1) % 2 ^ 32, openT := t, bndAt := if r.cut.isSome then none else some s.now, cut := none,
                                         streamStop := (r.after.map Prod.fst) == some .stop, after := none })
  match (nth s.rsv.grp g).run with
  | none => s
  | some r =>
    let s := s.updRec g (fun x => { x with nextSlot := r.seg % r.slots })
    if s.slotFree g r then (s.updRun g (fun r => { r with dropping := false })).openSlot g r.acqNum (r.seg % r.slots)
    else
      let s := s.updRec g (fun x => { x with dropped := satAdd 0xFFFFFFFF x.dropped 1 })
      s.updRun g (fun r =>
        let r := if r.gapFrames = 0 then { r with gapFirst := r.seg, gapTb := s.stampTb g (t / 4096) } else r
        { r with dropping := true, gapFrames := satAdd 0xFFFFFFFF r.gapFrames 1 })

/-- A frame has ended and is stored or dropped: the stream ends, or its next frame follows (R177, R178, R226). -/
def State.frameDone (s : State) (g : Nat) (r : Run) : State :=
  let next := s.frameNext r
  let s := if r.cut.isSome then s else (if s.boundaryChanges g then s.remember else s).clearNumbering g
  if r.streamStop then ((s.abortForces g).updRun g (fun r => { r with ending := some .stop, endNow := s.now })).stopJudging g
  else
    let s := s.openFrame g next
    match r.after with | some (.abort, at_) => s.stopAt g true at_ | _ => s

/-- STREAM_FRAME_END (R177, R178): a frame's last block is complete, the group's logic has judged its triggers, and the next frame begins
or the stream ends. -/
def execStreamFrameEnd (g : Nat) (feeds : List Feed) (s0 : State) : Res :=
  let s := s0.take feeds
  match (nth s.rsv.grp g).run with
  | none => .next s
  | some r =>
    match s.rsv.find g r.acqNum, s.fillLast g with
    | some a, some last =>
      if r.mode ≠ 3 || r.ending.isSome || 4096 * s.now ≤ last || !s.fillJudged g then .next s
      else if r.dropping then .next (s.frameDone g r)
      else
        let v := s.asOf (r.openT / 4096)
        match v.parts (r.members.filter v.produces) (fun n => (v.countLt n r.openT, r.post * v.perBlock n)) with
        | none => .next s
        | some ps => .next ((s.under (r.openT / 4096) (fun v => v.storeFrame g r a ps)).frameDone g r)
    | _, _ => .next s

/-! ### ROLL and the end by command (R166, R176) -/

/-- A ROLL record's extent (R176): whole blocks that every member took, and those of them that it holds. The pads that complete the ring's
last stripe take the place of the oldest blocks of a ring that has wrapped. -/
def State.rollHeld (s : State) (r : Run) : Nat × Nat :=
  let ns := r.members.filter s.produces
  let blocks (n : Nat) : Nat := (s.countLt n (4096 * r.endNow) - s.countLt n r.openT) / s.perBlock n
  let all := ns.foldl (fun m n => min m (blocks n)) (blocks (ns.headD 0))
  (all, min all (r.area - (4 * cdiv all 4 - all)))

/-- The samples of a ROLL record; none while one is not known. -/
def State.rollParts (s : State) (r : Run) : Option (List Part) :=
  let (all, held) := s.rollHeld r
  s.parts (r.members.filter s.produces) (fun n => (s.countLt n r.openT + (all - held) * s.perBlock n, held * s.perBlock n))

/-- Block k of a ROLL ring of M blocks; a region too small for a stripe of every member has a ring of none (R171, R176). -/
def ringAt (m k : Nat) : Nat := if m = 0 then 0 else k % m

/-- The record of a ROLL acquisition (R176): the newest whole blocks in ring order, its last stripe completed with pads; a ring of no blocks
holds nothing. -/
def State.storeRoll (s : State) (g : Nat) (r : Run) (a : AcqRec) (ps : List Part) : State :=
  let (all, held) := s.rollHeld r
  let at_ := ringAt r.area (all - held)
  let pads := if r.area = 0 then 0 else 4 * cdiv all 4 - all
  let tail := (r.members.filter s.produces).foldl (fun t n => t + (s.countLt n (4096 * r.endNow) - s.countLt n r.openT - all * s.perBlock n)) 0
  let d := { (s.desc0 g r (a.rgnBase + at_) none true).addParts s g ps true with pre := held, post := 0, tail := tail, acc := 0 }
  let s := forEach ps s (fun s p =>
    let m := (r.members.findIdx? (· == p.n)).getD 0
    let base := a.rgnBase + m * r.area
    let bs := memberBlocks (s.fmt16 p.n) (s.perBlock p.n) (s.acq.unitEpoch.getD g 0) false [] held p.xs
    let s := forEach (List.range held) s (fun s k => s.putBytes (64 * (base + ringAt r.area (at_ + k))) ((bs.drop (64 * k)).take 64))
    forEach (List.range pads) s (fun s k => s.putZeros (64 * (base + ringAt r.area (all + k))) 64))
  (s.putDesc a.descBase d).queueSeg g r 0 none

/-- ACQUISITION_ENDED (R166, R176, R316): an acquisition or stream that a command ended counts as ended, its writes done. -/
def execAcquisitionEnded (g : Nat) (feeds : List Feed) (s0 : State) : Res :=
  let s := (s0.take feeds).closeDue g
  match (nth s.rsv.grp g).run with
  | none => .next s
  | some r =>
    match r.ending, s.rsv.find g r.acqNum with
    | some why, some a =>
      if r.mode = 2 then
        match s.rollParts r with
        | none => .next s
        | some ps => .next (((s.storeRoll g r a ps).completeSeg g r).endAcq g why)
      else if why != .complete && s.drainedAcq g r then .next (s.endAcq g why)
      else .next s
    | _, _ => .next s

end Sys2Proof.Machine
end

