-- ==== Sys2Proof/Machine/Spring.lean ====
section
/-! DEFINITION. Spring (chapter 9): sample-rate changes and relocks, holdover and the returning reference, clock outputs and clock
monitors (R213, R216 to R234, R309, R310), the steps of the timebase (R226, R238, R242), and Beacon's choice of its upstream (R252 to R254). -/

namespace Sys2Proof.Machine

/-- f_pfd and f_VCO of a setting lie in their ranges (R213). -/
def pllOk (hz rdiv nInt nFrac : Nat) : Bool :=
  let n := nInt * 2 ^ 24 + nFrac
  5000000 * rdiv ≤ hz && hz ≤ 125000000 * rdiv &&
    16000000000 * rdiv * 2 ^ 24 ≤ hz * n && hz * n ≤ 20480000000 * rdiv * 2 ^ 24

/-! ### Beacon's upstream, HOLD and alignment (R252 to R254) -/

/-- Beacon may correct the timebase, so a SECONDARY need not be in HOLD (R253). -/
def State.sprTracks (s : State) : Bool := s.spr.st == .locked || s.spr.st == .slewing

/-- A port may be upstream (R252). -/
def BcnPort.mayLead (p : BcnPort) : Bool := p.link == .up && p.peerMv && !p.peerUpHere && p.peerHops ≤ 14

/-- The port R252 chooses: lowest HOPS, then lowest number. -/
def Bcn.choose (b : Bcn) : Option Nat :=
  (List.range 4).foldl (fun best p =>
    if !(nth b.ports p).mayLead then best
    else match best with
      | none => some p
      | some j => if (nth b.ports p).peerHops < (nth b.ports j).peerHops then some p else best) none

/-- A SECONDARY with no upstream is in HOLD (R252). -/
def Bcn.hold (b : Bcn) : Bool := b.role == 2 && b.upPort.isNone

/-- A unit reconsiders its upstream; HOLD begins with REF_LOST and ends with REF_RETURN (R252, R254). -/
def State.reselect (s : State) (wasHold : Bool) : State :=
  let up := if s.bcn.role = 2 && s.sprTracks then s.bcn.choose else none
  let hops := if s.bcn.role = 1 then 0 else match up with | some p => (nth s.bcn.ports p).peerHops + 1 | none => 15
  let s := s.updBcn (fun b => { b with upPort := up, hops := hops, aligned := b.aligned && up.isSome })
  if s.bcn.hold && !wasHold then s.event 0x20 1 none s.tb.count [3]
  else if wasHold && s.bcn.role = 2 && up.isSome then
    s.event 0x21 1 none s.tb.count (leBytes 8 (unsgn 64 (nth s.bcn.ports (up.getD 0)).theta))
  else s

/-- Reconsider the upstream after any change. -/
def State.rechoose (s : State) : State := s.reselect s.bcn.hold

/-- Begin the running measurements of every port afresh (R248; a step or a slew moves what they average). -/
def State.restartArr (s : State) : State :=
  s.updBcn (fun b => { b with ports := b.ports.map (fun p => { p with accSum := 0, accN := 0 }) })

/-! ### Steps of the timebase (R226, R238, R242) -/

/-- The relation of TB_COUNT to the samples taken so far is kept, before a step or a gate changes it (R55, R58). -/
def State.markBase (s : State) : State := s.updTb (fun t => { t with bases := (s.now, (t.count.toNat : Int) - s.now) :: t.bases })

/-- TB_COUNT steps by d and the epoch advances; an armed or streaming group keeps its old numbering until its next acquisition boundary. -/
def State.shiftTb (s : State) (d : Int) : State :=
  let e := s.tb.epoch
  let s := s.markBase.updBcn (fun b => { b with ports := b.ports.map (fun p => { p with moved := p.moved + d }) })
  (s.updTb (fun t =>
    { t with count := t.count + BitVec.ofInt 64 d, epoch := (e + 1) % 65536, steps := (s.now :: t.steps).take 2,
             grpOfs := t.grpOfs.mapIdx (fun g o => if (nth s.rsv.grp g).run.isSome then o - d else 0),
             grpEpoch := t.grpEpoch.mapIdx (fun g o => if (nth s.rsv.grp g).run.isSome then some (o.getD e) else none) })).restartArr

/-- A step other than TIME_SET's: the anchor moves with the count (R242). -/
def State.stepTb (s : State) (d : Int) : State :=
  (s.shiftTb d).updTb (fun t => { t with anchorTb := t.anchorTb + BitVec.ofInt 64 d })

/-! ### The loop's phase offset (R226, R227, R253) -/

/-- The state of a loop that is locked: low-power lock in IDLE and STANDBY (R230). -/
def State.lockedSt (s : State) : SprSt := if (nth s.pwr.doms 42).lowPower then .lpLock else .locked

/-- Spring enters a state; samples are marked TB_SLEW from its entry to SLEWING until it leaves it (R169, R226, R236). -/
def State.toSpr (s : State) (st : SprSt) : State :=
  s.updSpr (fun x => { x with st := st, slewSpans := if st == .slewing then x.slewSpans.start s.now else x.slewSpans.stop s.now })

/-- Add an offset in fs to what is slewed, positive where the clock is ahead; the loop is locked (R226, R253). -/
def State.slewBy (s : State) (fs : Int) (beacon : Bool) : State :=
  let left := s.slewLeft
  (s.updSpr (fun x => { x with slewFs := left + fs, slewAt := s.now, slewFast := beacon || (x.slewFast && left ≠ 0), stuck := false })).toSpr .slewing

/-- Mode 1, SLEW, with a jump in ps (R226). -/
def State.actSlew (s : State) (j : Int) : State := (s.slewBy (1000 * j) false).updSpr (fun x => { x with jumpValid := false })

/-- Mode 2, STEP_AT_BOUNDARY, with a jump in ps (R226). -/
def State.actStep (s : State) (j : Int) : State :=
  let k := roundAway ((j : Rat) * s.fsQ / 10 ^ 12)
  let r : Int := if s.fsQ = 0 then 1000 * j else 1000 * j - roundAway (k * 10 ^ 15 / s.fsQ)
  let st := s.lockedSt
  let s := s.stepTb (-k)
  let s := (s.updSpr (fun x => { x with phaseOfs := x.phaseOfs + r, slewFs := 0, jumpValid := false, stuck := false })).toSpr st
  s.lockEvent false 3 none

/-- The loop begins to lock to the returned reference, the jump held as a phase offset; the action is pending until it has locked, as R216
declares it (R226, R227). Once a step has moved TB_COUNT it is pending no more, although a running group takes the new numbering only at
its next boundary (DESIGN CHOICE, log 113). -/
def State.returnBy (s : State) (a : ReturnAct) (j : Int) : State :=
  s.updSpr (fun x => { x with ret := some (a, j), good := 0, bad := 0, stuck := false })

/-- The loop has locked to the returned reference: the action is taken (R226). -/
def State.returned (s : State) : State :=
  match s.spr.ret with
  | none => s
  | some (a, j) =>
    let s := s.updSpr (fun x => { x with ret := none })
    (match a with | .slew => s.actSlew j | .step => s.actStep j).rechoose

/-- A jump in ps, wrapped to half a phase-detector period (R226). -/
def State.wrapJump (s : State) (j : Int) : Int :=
  let p : Rat := if s.spr.nomHz = 0 then 0 else (10 ^ 12 * s.spr.rdiv : Nat) / (s.spr.nomHz : Rat)
  if p = 0 then j else roundAway ((j : Rat) - roundAway ((j : Rat) / p) * p)

/-- REF_HZ measured anew: a free value within ±1,000 ppm of the nominal frequency while the reference is valid (R224, R236). -/
def State.measureRef (s : State) : State :=
  let (k, s) := s.draw 1
  let w := s.spr.nomHz / 1000
  s.updSpr (fun x => { x with refHz := if x.refOk then x.nomHz - w + Config.freeNat k % (2 * w + 1) else Config.freeNat k % 2 ^ 32 })

/-! ### Relocks (R219 to R223, R228, R229) -/

/-- What makes a relock be refused with STATE (R219). -/
def State.relockBusy (s : State) : Bool :=
  s.anyArmed || s.acq.skew.isSome || s.bcn.meas.isSome || s.spr.relock.isSome || !s.spr.refOk

/-- Step 1 of R220: the settings are buffered and STATE reads RELOCK; a latched jump, what was to be done with it and a slew are void.
`tag`: that of the end event. -/
def State.startRelock (s : State) (next : Nat × Nat × Nat × Nat × Nat) (hold : Bool) (tag : Option Nat) : State :=
  ((s.updSpr (fun x => { x with relock := some .buffered, next := some next, holdOutputs := hold, relockTag := tag, stuck := false, slewFs := 0,
                                jumpValid := false, ret := none })).toSpr .relock).rechoose

/-- SET_SAMPLE_RATE (R213, R219 to R223, R309). -/
def execSetSampleRate (q : Nat) (s : State) : Res :=
  runCmd s q 0x10 [(16, 2), (20, 4), (24, 1)]
    (fun p => pktIndex p == 0 && 128 ≤ rd p 16 2 && rd p 16 2 ≤ 4096 && rd p 20 4 < 2 ^ 24 && rd p 24 1 < 2)
    (fun s e =>
      let n := rd e.pkt 16 2
      let f := rd e.pkt 20 4
      if !pllOk s.spr.nomHz s.spr.rdiv n f then refuse s PARAM_RANGE
      else if s.relockBusy || !s.domOn 42 then refuse s STATE
      else
        let res := leBytes 2 s.spr.nInt ++ leBytes 2 n ++ leBytes 4 s.spr.nFrac ++ leBytes 4 f
        let s := s.updJ e.idx (fun x => { x with result := padTo 16 res })
        .wait (s.startRelock (s.spr.fmt, s.spr.rdiv, n, f, s.spr.nomHz) (bit (rd e.pkt 24 1) 0) (doneTag e.pkt)) .gate none)

/-- The fields of SET_REFERENCE that WHICH selects lie in their ranges (R310). -/
def refFieldsOk (p : Packet) : Bool :=
  let w := rd p 16 1
  1 ≤ w && w ≤ 15 &&
    (!bit w 0 || (rd p 17 1 ≤ 3 && 1 ≤ rd p 18 1 && rd p 18 1 ≤ 100 && 128 ≤ rd p 20 2 && rd p 20 2 ≤ 4096 && rd p 24 4 < 2 ^ 24 &&
      5000000 ≤ rd p 28 4 && rd p 28 4 ≤ 500000000)) &&
    (!bit w 1 || (16 ≤ rd p 22 2 && 1 ≤ rd p 32 1 && rd p 32 1 ≤ 64)) &&
    (!bit w 2 || (rd p 19 1 ≤ 2 && 1 ≤ rd p 34 2 && rd p 34 2 ≤ 1000)) &&
    (!bit w 3 || rd p 33 1 ≤ 2)

/-- A new reference and feedback give the present f_VCO to within 1 ppm (R310). -/
def State.sameVco (s : State) (hz rdiv nInt nFrac : Nat) : Bool :=
  let a := hz * (nInt * 2 ^ 24 + nFrac) * s.spr.rdiv
  let c := s.spr.nomHz * (s.spr.nInt * 2 ^ 24 + s.spr.nFrac) * rdiv
  (a - c + (c - a)) * 1000000 ≤ c

/-- RESULT of SET_REFERENCE (R310). -/
def refResult (relock acted : Nat) (jump : Int) : List Byte :=
  leBytes 1 relock ++ leBytes 1 acted ++ zeros 2 ++ leBytes 4 (unsgn 32 jump)

/-- The fields of SET_REFERENCE that need no relock take effect (R228). -/
def State.refFields (s : State) (p : Packet) : State :=
  let w := rd p 16 1
  let left := s.slewLeft
  let s := if bit w 1 then s.updSpr (fun x => { x with lockCnt := rd p 22 2, lockWin := rd p 32 1 }) else s
  if bit w 2 then s.updSpr (fun x => { x with retMode := rd p 19 1, slewRate := rd p 34 2, slewFs := left, slewAt := s.now }) else s

/-- RETURN_ACTION has something to act on: a latched jump, or, for SLEW on a locked loop, a held remainder (R226, R228). -/
def State.returnOk (s : State) (action : Nat) : Bool :=
  s.spr.jumpValid || (action == 1 && s.spr.phaseOfs != 0 && s.spr.lock && s.spr.relock.isNone)

/-- RETURN_ACTION with the jump measured at that moment: the state and the jump acted on, once the loop has locked; SLEW with no jump removes
a held remainder (R226, R228). -/
def State.returnAction (s : State) (action : Nat) (jumpNow : Int) : State × Int :=
  if action = 0 then (s, 0)
  else if s.spr.jumpValid then
    let j := s.wrapJump jumpNow
    ((s.updSpr (fun x => { x with jump := j, jumpTb := s.tb.count })).returnBy (if action = 1 then .slew else .step) j, j)
  else
    let r := s.spr.phaseOfs
    ((s.slewBy r false).updSpr (fun x => { x with phaseOfs := 0 }), roundAway ((r : Rat) / 1000))

/-- SET_REFERENCE (R213, R219, R226, R228, R310). -/
def execSetReference (q : Nat) (jumpNow : Int) (s : State) : Res :=
  runCmd s q 0x11 [(16, 20)] (fun p => pktIndex p == 0 && refFieldsOk p)
    (fun s e =>
      let p := e.pkt
      let w := rd p 16 1
      let action := if bit w 3 then rd p 33 1 else 0
      if bit w 0 && !(pllOk (rd p 28 4) (rd p 18 1) (rd p 20 2) (rd p 24 4) && s.sameVco (rd p 28 4) (rd p 18 1) (rd p 20 2) (rd p 24 4)) then
        refuse s PARAM_RANGE
      else if bit w 0 && s.relockBusy then refuse s STATE
      else if action ≠ 0 && !s.returnOk action then refuse s STATE
      else if !s.domOn 42 then refuse s STATE
      else
        let (s, j) := (s.refFields p).returnAction action jumpNow
        if bit w 0 then
          let s := s.updJ e.idx (fun x => { x with result := padTo 16 (refResult 1 action j) })
          .wait (s.startRelock (rd p 17 1, rd p 18 1, rd p 20 2, rd p 24 4, rd p 28 4) false (doneTag p)) .gate none
        else .done s.rechoose OK (refResult 0 action j))

/-! ### Clock outputs (R221, R231 to R233) -/

/-- CLK_OUT[k] is enabled. -/
def State.outEn (s : State) (k : Nat) : Bool := s.regB (outCfgA k) 0
/-- DIV, PHASE and DIR of CLK_OUT[k]. -/
def State.outDiv (s : State) (k : Nat) : Nat := s.regF (outCfgA k) 19 4
def State.outTarget (s : State) (k : Nat) : Nat := s.regF (outPhaseA k) 22 0
def State.outDir (s : State) (k : Nat) : Bool := s.regB (outPhaseA k) 23

/-- Steps still to walk. -/
def walkDist (m phase target : Nat) (earlier : Bool) : Nat := if earlier then (phase + m - target) % m else (target + m - phase) % m

/-- PHASE_NOW of CLK_OUT[k]: one step per output period, in direction DIR (R233); an output that a gate holds low has no periods. -/
def State.phaseNow (s : State) (k : Nat) : Nat :=
  let o := nth s.spr.outs k
  let m := 128 * s.outDiv k
  let n := (s.now - o.since) * 2 / s.outDiv k
  if o.gated then o.phase
  else if walkDist m o.phase (s.outTarget k) (s.outDir k) ≤ n then s.outTarget k
  else if s.outDir k then (o.phase + m - n % m) % m else (o.phase + n) % m

/-- CLK_OUT[k] begins at an edge now plus its PHASE. -/
def State.outStart (s : State) (k : Nat) : State :=
  s.updSpr (fun x => { x with outs := upd x.outs k (fun _ => { phase := s.outTarget k, since := s.now }) })

/-- A divider generation has applied (s0: before): an output that is new or has a new DIV starts at its PHASE; another walks on from
where it stands (R232, R233). -/
def State.outApplied (s s0 : State) (k : Nat) : State :=
  if s.outDiv k ≠ s0.outDiv k || (s.outEn k && !s0.outEn k) then s.outStart k
  else s.updSpr (fun x => { x with outs := upd x.outs k (fun _ => { phase := s0.phaseNow k, since := s.now }) })

/-- The OUTPUTS registers (R437). -/
def BootCfg.outs (b : BootCfg) : List (Nat × Nat) :=
  (List.range 4).flatMap (fun k => [(outCfgA k, rd b.bytes (44 + 8 * k) 4), (outPhaseA k, rd b.bytes (48 + 8 * k) 4)])

/-- The boot configuration's outputs become the divider unit's active set (R43, R438). -/
def State.loadOuts (s : State) : State :=
  if s.pwr.boot.outValid then s.putRegs (s.pwr.boot.outs.map (fun p => (p.1, BitVec.ofNat 32 p.2))) else s

/-- A divider boundary has something to apply (R232, R235). -/
def State.dividerDue (s : State) : Bool := !(nth s.units 35).pend.isEmpty || s.pwr.outsDue

/-- What waits for a divider boundary applies: the boot configuration's outputs, then the generations pending. -/
def State.applyDivider (s : State) : State :=
  let s := if s.pwr.outsDue then s.loadOuts.updPwr (fun p => { p with outsDue := false }) else s
  if (nth s.units 35).pend.isEmpty then s else s.applyGen 35 s.tb.count

/-- DIVIDER_BOUNDARY (R35, R36, R232): what is pending applies, and the outputs realign. -/
def execDividerBoundary (s : State) : Res :=
  if !s.dividerDue || !s.spr.lock || s.spr.relock.isSome || !s.domOn 42 then .next s
  else .next ((forEach (List.range 4) s.applyDivider (fun x k => x.outApplied s k)).updSpr (fun x => { x with outHeld := false }))

/-! ### Gate and release (R187, R220, R261, R400) -/

/-- Every enabled output is gated, its walk standing where it is (R220, R233). -/
def State.gateOuts (s : State) : List ClkOut :=
  s.spr.outs.mapIdx (fun k o => if s.outEn k then { phase := s.phaseNow k, since := s.now, gated := true } else o)

/-- Every stack in service enters, or leaves, self-refresh (R187). -/
def State.stacksSr (s : State) (enter : Bool) : State :=
  s.updRsv (fun r => { r with stk := r.stk.map (fun k =>
    if enter && k.st == .inService then { k with st := .selfRefresh }
    else if !enter && k.st == .selfRefresh then { k with st := .inService } else k) })

/-- SPRING_GATE (R187, R215, R220, R400): step 2 of a relock. The command that started it completes. -/
def execSpringGate (s : State) : Res :=
  if s.spr.relock ≠ some .buffered then .next s
  else
    let (fmt, rdiv, n, f, hz) := s.spr.next.getD (s.spr.fmt, s.spr.rdiv, s.spr.nInt, s.spr.nFrac, s.spr.nomHz)
    let s1 := s.markBase.updSpr (fun x =>
      { x with relock := some .gated, next := none, fmt := fmt, rdiv := rdiv, nInt := n, nFrac := f, nomHz := hz, lock := false, good := 0,
               fallback := true, gateTb := s.tb.count, outs := s.gateOuts })
    let s1 := (s1.updTb (fun t => { t with counting := false })).stacksSr true
    let s1 := s1.updLtn (fun l => { l with stopped := l.scanning })
    .next (s1.finishWaits (fun e => e.wait == some .gate) OK JEntry.result)

/-- TB_COUNT at a release, g phase-detector periods after the gate (R223). -/
def State.releaseCount (s : State) (g : Nat) : BitVec 64 :=
  s.spr.gateTb + BitVec.ofInt 64 (roundAway ((g * (s.spr.nInt * 2 ^ 24 + s.spr.nFrac) : Nat) / ((2 ^ 25 : Nat) : Rat)))

/-- The divider unit at a release (R221): a pending generation applies, and outputs that are not held restart, each at its PHASE: a walk that
the gate cut short has ended (DESIGN CHOICE, log 41). -/
def State.outRelease (s : State) : State :=
  let applies := s.dividerDue
  let s := s.applyDivider
  let held := s.spr.holdOutputs && !applies
  let s := s.updSpr (fun x => { x with outHeld := held && (List.range 4).any s.outEn })
  if held then s else forEach (List.range 4) s State.outStart

/-- What a release brings back, at a count of TB (R65, R101, R120, R187, R223, R242, R261, R400). -/
def State.resume (s : State) (count : BitVec 64) : State :=
  let s := s.updTb (fun t => { t with count := count, counting := true, epoch := (t.epoch + 1) % 65536, anchorValid := false })
  let s := s.updSpr (fun x => { x with bad := 0, relock := none, next := none, fallback := false, phaseOfs := 0, slewFs := 0, jumpValid := false })
  let s := s.measureRef
  let s := s.outRelease
  let s := if (nth s.pwr.doms 37).lowPower then s else s.stacksSr false
  let s := s.newFs
  let s := s.updBcn (fun b => { b with ports := b.ports.map (fun p =>
    if p.en && !p.failed then { p with link := .training, validRun := 0, accSum := 0, accN := 0 } else p) })
  if s.ltn.stopped then (s.updLtn (fun l => { l with stopped := false, blankNext := true })).newFrame else s

/-- Step 5 of R220, the release of a relock: the command that began it has its end event (R269, R301). -/
def State.release (s : State) (g : Nat) : State :=
  let tag := s.spr.relockTag
  let s := (s.resume (s.releaseCount g)).toSpr s.lockedSt
  let s := s.updSpr (fun x => { x with lock := true, relockTag := none, relockCnt := satAdd 65535 x.relockCnt 1 })
  (s.lockEvent false 1 tag).rechoose

/-- The first lock after power-up (R229, R237): TB_COUNT counts from 0. -/
def State.firstLock (s : State) : State :=
  let s := (s.toSpr s.lockedSt).updSpr (fun x => { x with lock := true, refOk := true, bad := 0 })
  let s := (s.updTb (fun t => { t with counting := true })).measureRef
  (s.lockEvent false 1 none).rechoose

/-- Phase comparisons with one error (R216). -/
def Spring.compare (x : Spring) (c : PdRun) : Spring :=
  let e := max c.err (-c.err)
  if c.edges = 0 then x
  else if x.lock then
    let bad := if (8 * x.lockWin : Nat) < e then x.bad + c.edges else 0
    if 16 ≤ bad then { x with lock := false, good := 0, bad := 16 } else { x with bad := bad }
  else
    let good := if e ≤ (x.lockWin : Nat) then x.good + c.edges else 0
    if x.lockCnt ≤ good then { x with lock := true, good := x.lockCnt, bad := 0 } else { x with good := good }

/-- Spring counts the comparisons of a row. -/
def State.compareAll (s : State) (cs : List PdRun) : State := s.updSpr (fun x => cs.foldl Spring.compare x)

/-! ### Loss of lock, loss and return of the reference (R218, R224 to R227) -/

/-- Enter holdover: a slew and a pending step are abandoned and the jump is void (R224, R227). -/
def State.holdover (s : State) (cause : Nat) : State :=
  let s := (s.updSpr (fun x => { x with lock := false, good := 0, bad := 0, slewFs := 0, jumpValid := false, ret := none })).toSpr .holdover
  (s.event 0x20 0 none s.tb.count [BitVec.ofNat 8 cause]).rechoose

/-- LOSS_OF_LOCK (R216, R218, R475): the comparisons are counted, and sixteen bad ones in a row lose lock. -/
def execLossOfLock (cmps : List PdRun) (s : State) : Res :=
  if !s.spr.lock || s.spr.relock.isSome then .next s
  else
    let s := s.compareAll cmps
    if s.spr.lock then .next s
    else
      let again := match s.spr.lossAt with | some t => ((s.now - t : Nat) : Rat) ≤ 60 * s.fsQ | none => false
      let err := ((cmps.getLast?.map PdRun.err).getD 0).floor
      let s := s.updSpr (fun x => { x with lossAt := some s.now, stuck := again })
      let s := s.log (if again then FATAL else DEGRADED) bSPRING (if again then 2 else 1) 0 (unsgn 64 err)
      let s := s.lockEvent false 0 none
      .next (s.holdover 2)

/-- REF_LOST (R224, R227, R475). During a relock the loop keeps waiting for the reference, and FREE_RUN goes on. -/
def execRefLost (cause : Nat) (s : State) : Res :=
  if !s.spr.refOk then .next s
  else
    let s := s.updSpr (fun x => { x with refOk := false, refLostCnt := satAdd 65535 x.refLostCnt 1 })
    let s := (s.log DEGRADED bSPRING 3 0 cause).measureRef
    if s.spr.st == .relock || s.spr.st == .freeRun || s.spr.st == .start then .next (s.event 0x20 0 none s.tb.count [BitVec.ofNat 8 cause])
    else .next (s.holdover cause)

/-- REF_RETURN (R218, R226, R229): the reference is valid again and the jump is measured; REF_RETURN_MODE acts once the loop has locked
again, except after a FATAL loss of lock. In FREE_RUN, START and a relock only REF_OK rises. -/
def execRefReturn (jump : Int) (s : State) : Res :=
  if s.spr.st == .freeRun || s.spr.st == .relock || s.spr.st == .start then
    .next ((s.updSpr (fun x => { x with refOk := true })).measureRef)
  else if s.spr.st ≠ .holdover then .next s
  else
    let j := s.wrapJump jump
    let s := s.updSpr (fun x => { x with refOk := true, jump := j, jumpTb := s.tb.count, jumpValid := true })
    let s := s.measureRef
    let s := s.event 0x21 0 none s.tb.count (leBytes 8 (unsgn 64 j) ++ [BitVec.ofNat 8 s.spr.retMode])
    .next (if s.spr.stuck then s
      else if s.spr.retMode = 1 then s.returnBy .slew j
      else if s.spr.retMode = 2 then s.returnBy .step j
      else s)

/-- SLEW_DONE (R226, R253): the offset has reached 0; a LOCK event posts. -/
def execSlewDone (s : State) : Res :=
  if s.spr.st ≠ .slewing || s.slewLeft ≠ 0 then .next s
  else
    let s := (s.updSpr (fun x => { x with slewFs := 0, slewFast := false })).toSpr s.lockedSt
    .next ((s.lockEvent false 2 none).restartArr.rechoose)

/-- FREE_RUN_RELOCK (R229): with a valid reference, Spring relocks once no group is armed and no stream runs. -/
def execFreeRunRelock (s : State) : Res :=
  if s.spr.st ≠ .freeRun then .next s
  else
    let s := s.updSpr (fun x => { x with refOk := true })
    .next (if s.anyArmed then s else s.startRelock (s.spr.fmt, s.spr.rdiv, s.spr.nInt, s.spr.nFrac, s.spr.nomHz) false none)

/-- CLOCK_MONITOR_ALARM (R234, R463): the CLOCK source is raised; the VCO is not judged in a relock, the oscillator only against a locked
VCO. -/
def execClockMonitorAlarm (what : Nat) (s : State) : Res :=
  if (what = 0 && s.spr.relock.isSome) || (what = 2 && !s.spr.lock) then .next s
  else .next (s.raiseAlarm 1 0)

/-- TB_WRAP (R237, R238): the core cycle in which TB_COUNT wraps to 0; the epoch advances. -/
def execTbWrap (s : State) : Res :=
  if s.tb.counting && 2 ^ 64 ≤ s.tb.count.toNat + 16 then .next s.tick else .next s

end Sys2Proof.Machine
end

