-- ==== Sys2Proof/Machine/Timebase.lean ====
section
/-! DEFINITION. Site time: PPS_IN, TIME_SET, PPS_OUT and PTM (R240 to R244, R313). -/

namespace Sys2Proof.Machine

/-- A count and fraction of a time in Ts/4,096 of TB_COUNT. -/
def tbCount (t : Int) : BitVec 64 := BitVec.ofInt 64 (t / 4096)
def tbFrac (t : Int) : Nat := (t % 4096).toNat
/-- A `State.now` stamp in Ts/4,096 in the unit's present numbering. -/
def State.unitTime (s : State) (t : Int) : Int := t + 4096 * ((s.tb.count.toNat : Int) - s.now)

/-! ### TIME_SET (R241, R313) -/

/-- The parameters TIME_SET names. -/
def timeSpans : List (Nat × Nat) := [(16, 1), (24, 8), (32, 8), (40, 2)]

/-- RESULT of TIME_SET (R313). -/
def timeResult (s : State) : List Byte := leBytes 8 s.tb.anchorTb.toNat ++ leBytes 2 s.tb.anchorFrac ++ leBytes 2 s.tb.epoch

/-- Set the anchor (R241). -/
def State.setAnchor (s : State) (tb : BitVec 64) (frac sec : Nat) : State :=
  s.updTb (fun t => { t with anchorTb := tb, anchorFrac := frac, anchorSec := BitVec.ofNat 64 sec, anchorValid := true, fromBeacon := false })

/-- TIME_SET MAP (R241). -/
def execTimeSetMap (q : Nat) (s : State) : Res :=
  runCmdSel s q 0x3A (fun p => rd p 16 1 ≠ 1 && rd p 16 1 ≠ 2) timeSpans
    (fun p => pktIndex p == 0 && rd p 16 1 == 0 && rd p 32 8 == 0 && rd p 40 2 == 0)
    (fun s _ => if s.bcn.role = 2 || !s.tb.ppsEn || !s.domOn 43 then refuse s STATE else .wait s .timeMap (some []))

/-- TIME_SET LOAD (R241). -/
def execTimeSetLoad (q : Nat) (s : State) : Res :=
  runCmdSel s q 0x3A (fun p => rd p 16 1 == 1) timeSpans (fun p => pktIndex p == 0 && rd p 40 2 == 0)
    (fun s _ =>
      if s.bcn.role = 2 || !s.tb.ppsEn || s.anyArmed || !s.domOn 43 then refuse s STATE else .wait s .timeLoad (some []))

/-- TIME_SET MANUAL (R241). -/
def execTimeSetManual (q : Nat) (s : State) : Res :=
  runCmdSel s q 0x3A (fun p => rd p 16 1 == 2) timeSpans (fun p => pktIndex p == 0 && rd p 40 2 < 4096)
    (fun s e =>
      if s.bcn.role = 2 || !s.domOn 43 then refuse s STATE
      else
        let s := s.setAnchor (BitVec.ofNat 64 (rd e.pkt 32 8)) (rd e.pkt 40 2) (rd e.pkt 24 8)
        .done s OK (timeResult s))

/-- TIME_SET_TIMEOUT (R241): no edge within 2.0 s. -/
def execTimeSetTimeout (q : Nat) (s : State) : Res :=
  match s.cp.current q with
  | some e => if e.wait == some .timeMap || e.wait == some .timeLoad then .next (s.finish e.idx STATE []) else .next s
  | none => .next s

/-! ### PPS_IN (R240) -/

/-- One waiting TIME_SET acts at an edge of `State.now` stamp t (R241): LOAD steps the count so that the edge reads TB_LOAD. -/
def State.timeSetAct (s : State) (t : Int) (e : JEntry) : State :=
  let u := s.unitTime t
  let s :=
    if e.wait == some .timeLoad then
      let s := s.shiftTb (((rd e.pkt 32 8 : Nat) : Int) - u / 4096)
      s.setAnchor (BitVec.ofNat 64 (rd e.pkt 32 8)) (tbFrac u) (rd e.pkt 24 8)
    else s.setAnchor (tbCount u) (tbFrac u) (rd e.pkt 24 8)
  s.finish e.idx OK (timeResult s)

/-- The edge lies more than PPS_TOL from one second of Fs after the one before (R240). -/
def State.ppsBadAt (s : State) (t : Nat) : Bool :=
  match s.tb.ppsPrev with
  | some p =>
    let d : Rat := ((t : Rat) - p) / 4096 - s.fsQ
    decide ((s.tb.ppsTol : Rat) < d) || decide ((s.tb.ppsTol : Rat) < -d)
  | none => false

/-- PPS_IN_EDGE (R240, R241): an edge of the selected polarity is stamped, latched and checked, and waiting TIME_SETs act. -/
def execPpsInEdge (stamp : Nat) (rise : Bool) (s : State) : Res :=
  if !s.domOn 43 || !s.tb.ppsEn || rise != (s.tb.ppsEdge == 0) then .next s
  else
    let t := stamp + 4096 * s.tb.ppsInt + s.tb.ppsFrac
    let u := s.unitTime t
    let bad := s.ppsBadAt t
    let s := s.updTb (fun x =>
      { x with ppsLast := tbCount u, ppsLastFrac := tbFrac u, ppsEdges := satAdd 65535 x.ppsEdges 1, ppsBad := satAdd 65535 x.ppsBad (b2n bad),
               ppsPrev := some t })
    .next (forEach (s.cp.jrn.filter (fun e => e.wait == some .timeMap || e.wait == some .timeLoad)) s (fun s e => s.timeSetAct t e))

/-- PPS_MISSING (R240): 1.5 s have passed without an edge. -/
def execPpsMissing (s : State) : Res :=
  if s.domOn 43 && s.tb.ppsEn then .next (s.updTb (fun x => { x with ppsBad := satAdd 65535 x.ppsBad 1 })) else .next s

/-! ### PPS_OUT (R243) -/

/-- Base and spacing of PPS_OUT's pulses in Ts/64, where the output runs. -/
def State.ppsGrid (s : State) : Option (Rat × Rat) :=
  let t := s.tb
  if t.outMode = 1 && t.anchorValid then
    some (64 * (t.anchorTb.toNat : Rat) + (t.anchorFrac : Rat) / 64 + t.outDly, 64 * s.fsQ)
  else if t.outMode = 2 then
    some (if t.anchorValid then 64 * (t.anchorTb.toNat : Rat) else 0, 64 * (t.outPeriod : Rat))
  else none

/-- PPS_OUT_PULSE (R243): a pulse starts at its newest instant, placed to Ts/64. -/
def execPpsOutPulse (s : State) : Res :=
  match s.ppsGrid with
  | some (base, step) =>
    if !s.domOn 43 || step = 0 then .next s
    else
      let m := ((64 * (s.tb.count.toNat : Rat) - base) / step).floor
      .next (s.updTb (fun t => { t with ppsPulse := some (roundAway (base + m * step) - 64 * ((s.tb.count.toNat : Int) - s.now)) }))
  | none => .next s

/-! ### PTM (R244) -/

/-- PTM_DIALOG (R244): a dialog latches a pair. -/
def execPtmDialog (ns : DWord) (ago : Nat) (s : State) : Res :=
  if !s.domOn 43 || !s.tb.ptmEn || !s.pcie.cfg.ptmEn || !s.busOk then .next s
  else
    let u := s.unitTime (4096 * (s.now : Int) - ago)
    .next (s.tlp.updTb (fun t => { t with ptmNs := ns, ptmTb := tbCount u, ptmFrac := tbFrac u, ptmSeq := (t.ptmSeq + 1) % 65536 }))

end Sys2Proof.Machine
end

