-- ==== Sys2Proof/Machine/Beacon.lean ====
section
/-! DEFINITION. Beacon: configuration, frames, link states, link measurement, alignment and event lines (R245 to R261, R311, R312). -/

namespace Sys2Proof.Machine

/-! ### BEACON_CONFIG (R243, R251, R260, R311) -/

/-- Reserved words and bits of the groups WHICH selects are 0 and their fields lie in range (R264, R263, R311). -/
def beaconTableOk (w : Nat) (b : List Byte) : Bool :=
  let r (o : Nat) := rd b o 4
  r 4 == 0 && r 68 == 0 && rd b 88 40 == 0 &&
    (!bit w 0 || (fld (r 0) 31 28 == 0 && fld (r 0) 7 6 ≤ 2 && 10 ≤ fld (r 0) 27 23 && fld (r 0) 27 23 ≤ 24)) &&
    (!bit w 1 || (List.range 4).all (fun k => r (8 + 4 * k) < 8)) &&
    (!bit w 2 || (fld (r 40) 31 18 == 0 && 1 ≤ fld (r 40) 17 2 && fld (r 44) 31 28 == 0)) &&
    (!bit w 3 || (fld (r 48) 31 20 == 0 && fld (r 48) 1 0 ≤ 2 && 1 ≤ fld (r 48) 19 4 && r 60 < 512)) &&
    (!bit w 4 || (fld (r 64) 15 1 == 0 && 1 ≤ fld (r 64) 31 16))

/-- MODE 2 of PPS_OUT has its period in range (R243). -/
def ppsOutOk (mode period : Nat) : Bool := mode ≠ 2 || (1024 ≤ period && period ≤ 2 ^ 40)
/-- A quiet window leaves 6,400 Ts between windows (R260); QW_PERIOD 0 means none (R263). -/
def qwOk (period len : Nat) : Bool := period == 0 || len + 6400 ≤ period

/-- A port's EN, QUIET, QW_GATE and ASYM (R246, R264). -/
def BcnPort.config (x : BcnPort) (cfg asym : Nat) : BcnPort :=
  let x := { x with quiet := bit cfg 1, qwGate := bit cfg 2, asym := sgn 32 asym }
  if bit cfg 0 && x.en then x
  else if bit cfg 0 then { x with en := true, link := if x.failed then .failed else .training, validRun := 0 }
  else { x with en := false, link := .disabled, validRun := 0, gated := false }

/-- A LINK change into UP or DISABLED is logged (R246). R475 gives it no row: class (of the two below DEGRADED), CODE and DETAIL are free
values. -/
def State.linkLog (s : State) (p : Nat) : State :=
  let (k, s) := s.draw 3
  s.log (if Config.freeBool k then CORRECTED else CONTAINED) bBCN (6 + Config.freeNat (k + 1) % 250) p (Config.freeNat (k + 2))

/-- Port p enters UP or DISABLED where its LINK was another (R246). -/
def State.linkLogged (s s0 : State) (p : Nat) : State :=
  let l := (nth s.bcn.ports p).link
  if l != (nth s0.bcn.ports p).link && (l == .up || l == .disabled) then s.linkLog p else s

/-- The selected fields of a BEACON_CONFIG table take effect (R311). -/
def State.beaconApply (s : State) (w : Nat) (b : List Byte) : State :=
  let s0 := s
  let r (o : Nat) := rd b o 4
  let wasHold := s.bcn.hold
  let s := if bit w 0 then s.updBcn (fun x =>
    { x with unitId := fld (r 0) 5 0, role := fld (r 0) 7 6, track := bit (r 0) 8, deadband := fld (r 0) 22 9, measShift := fld (r 0) 27 23,
             aligned := x.aligned && fld (r 0) 7 6 == 2 }) else s
  let s := if bit w 1 then s.updBcn (fun x => { x with ports := x.ports.mapIdx (fun k p => p.config (r (8 + 4 * k)) (r (24 + 4 * k))) }) else s
  let s := if bit w 2 then s.updTb (fun t =>
    { t with ppsEn := bit (r 40) 0, ppsEdge := fld (r 40) 1 1, ppsTol := fld (r 40) 17 2, ppsFrac := fld (r 44) 11 0, ppsInt := fld (r 44) 27 12,
             ppsPrev := if t.ppsEn then t.ppsPrev else none }) else s
  let s := if bit w 3 then s.updTb (fun t =>
    { t with outMode := fld (r 48) 1 0, outPol := fld (r 48) 2 2, outQuiet := bit (r 48) 3, outWidth := fld (r 48) 19 4, outDly := sgn 32 (r 52),
             outPeriod := rd b 56 8 }) else s
  let s := if bit w 4 then s.updTb (fun t => { t with ptmEn := bit (r 64) 0, ptmInt := fld (r 64) 31 16 }) else s
  let s := if bit w 5 then s.updTb (fun t => { t with qwOrigin := BitVec.ofNat 64 (rd b 72 8), qwPeriod := r 80, qwLen := r 84 }) else s
  (forEach (List.range 4) s (fun s p => s.linkLogged s0 p)).reselect wasHold

/-- BEACON_CONFIG (R243, R260, R311). -/
def execBeaconConfig (q : Nat) (tbl : Table) (s : State) : Res :=
  runCmd s q 0x38 [(16, 1), (48, 16)] (fun p => pktIndex p == 0 && rd p 16 1 < 64 && bulkOk p && bulkLen p == 128)
    (fun s e => withTable s e tbl (fun b =>
      let w := rd e.pkt 16 1
      let mode := if bit w 3 then fld (rd b 48 4) 1 0 else s.tb.outMode
      let period := if bit w 3 then rd b 56 8 else s.tb.outPeriod
      if !(beaconTableOk w b && ppsOutOk mode period && (!bit w 5 || qwOk (rd b 80 4) (rd b 84 4))) then refuse s PARAM_RANGE
      else if !s.domOn 43 then refuse s STATE
      else .done (s.beaconApply w b) OK []))

/-! ### Sending frames (R245, R251, R257, R260) -/

/-- CRC-8 with polynomial x^8 + x^2 + x + 1 and initial value 0 (R245). -/
def crc8Bit (c : Nat) : Nat := if 128 ≤ c then (c * 2 % 256) ^^^ 7 else c * 2
def crc8Byte (c : Nat) (b : Byte) : Nat :=
  crc8Bit (crc8Bit (crc8Bit (crc8Bit (crc8Bit (crc8Bit (crc8Bit (crc8Bit (c ^^^ b.toNat))))))))
def crc8 (bs : List Byte) : Nat := bs.foldl crc8Byte 0

/-- A slot of 1,280 Ts from b meets a quiet window (R260). -/
def Tb.inQuiet (t : Tb) (b : Nat) : Bool :=
  t.qwPeriod ≠ 0 && t.qwLen ≠ 0 &&
    (let o := ((b : Int) - (t.qwOrigin.toNat : Int)) % (t.qwPeriod : Int)
     decide (o < t.qwLen) || decide ((t.qwPeriod : Int) < o + 1280))

/-- MASTER_VALID as this unit sends it (R245, R251, R252). -/
def Bcn.masterValid (b : Bcn) : Bool := b.role == 1 || (b.role == 2 && b.upPort.isSome)

/-- The 16 words of a payload message of port p (R245). -/
def State.payload (s : State) (p slot : Nat) : List Nat :=
  let x := nth s.bcn.ports p
  let a := unsgn 64 x.arr
  let t := s.tb
  [a % 2 ^ 32, a / 2 ^ 32, x.measSeq, x.measN, slot / 2 ^ 48, 0, t.anchorTb.toNat % 2 ^ 32, t.anchorTb.toNat / 2 ^ 32,
   t.anchorFrac + 4096 * b2n t.anchorValid, t.anchorSec.toNat % 2 ^ 32, t.anchorSec.toNat / 2 ^ 32, 0, 0, 0, 0, 0]

/-- An EVENT entry (R257). -/
def eventEntry (slot : Nat) : Option BevEvent → List Byte
  | some e => [BitVec.ofNat 8 (e.line + 8 + 16 * e.seq), BitVec.ofNat 8 e.origin] ++ leBytes 5 (unsgn 40 (e.t - 4096 * (slot : Int)))
  | none => zeros 7

/-- The frame port p sends in the slot (R245). -/
def State.frame (s : State) (p slot : Nat) (words : List Nat) (evs : List BevEvent) : List Byte :=
  let b := s.bcn
  let x := nth b.ports p
  let body : List Byte :=
    [BitVec.ofNat 8 (x.txSeq + 16 * b2n b.masterValid + 32 * b2n b.aligned + 64 * b2n (b.upPort == some p)),
     BitVec.ofNat 8 (b.unitId + 64 * p), BitVec.ofNat 8 b.hops] ++ leBytes 6 slot ++ leBytes 2 s.tb.epoch ++
      eventEntry slot evs[0]? ++ eventEntry slot evs[1]? ++ leBytes 4 (words.getD x.txSeq 0)
  [0xBC] ++ body ++ [BitVec.ofNat 8 (crc8 body), 0xFD]

/-- BEACON_FRAME_SEND (R245, R257, R260): the frame of the present slot, or the gated transmitter of a quiet window. -/
def execBeaconFrameSend (p : Nat) (s : State) : Res :=
  let x := nth s.bcn.ports p
  if 4 ≤ p || !s.domOn 43 || !x.en || x.failed || !s.tb.counting then .next s
  else
    let slot := s.tb.count.toNat - s.tb.count.toNat % 1280
    if x.qwGate && (s.bcn.aligned || s.bcn.role = 1) && s.tb.inQuiet slot then
      .next (s.updPort p (fun x => { x with gated := true, resync := true, txFrame := [] }))
    else if x.resync then .next (s.updPort p (fun x => { x with gated := false, resync := false, txFrame := List.replicate 32 0xBC }))
    else
      let words := (if x.txSeq = 0 then s.payload p slot else x.txWords).set 4 (slot / 2 ^ 48)
      let evs := if s.bcn.treeLink p && s.bcn.role ≠ 0 then (x.queue.takeWhile (fun e => e.from_ ≤ s.now)).take 2 else []
      .next (s.updPort p (fun x =>
        { x with txFrame := s.frame p slot words evs, txWords := words, txSeq := (x.txSeq + 1) % 16, queue := x.queue.drop evs.length, gated := false }))

/-! ### Alignment (R248, R253 to R255) -/

/-- fs as Ts/65,536, and Ts/65,536 as fs. -/
def State.fsToTb (s : State) (fs : Int) : Int := roundAway ((fs : Rat) * 65536 * s.fsQ / 10 ^ 15)
def State.tbToFs (s : State) (t : Int) : Rat := if s.fsQ = 0 then 0 else (t : Rat) * 10 ^ 15 / 65536 / s.fsQ

/-- Half of a link sum, rounded. -/
def half (i : Int) : Int := roundAway ((i : Rat) / 2)

/-- Solve port p's link from its own ARR and its peer's (R248). -/
def State.solve (s : State) (p : Nat) : State :=
  let x := nth s.bcn.ports p
  let a := s.fsToTb x.asym
  s.updPort p (fun x => { x with rtt := x.arr + x.peerArr, dIn := half (x.arr + x.peerArr + a), theta := half (x.arr - x.peerArr - a), moved := 0, solved := true, used := false })

/-- Correct the timebase for θ in Ts/65,536 (R253); the whole-Ts step made. -/
def State.correct (s : State) (theta : Int) : State × Int :=
  if !s.sprTracks then (s, 0)
  else
    let k := roundAway ((theta : Rat) / 65536)
    let r := theta - 65536 * k
    let s := if k = 0 then s else s.stepTb (-k)
    let s := if r = 0 then s else s.slewBy (roundAway (s.tbToFs r)) true
    (s, -k)

/-- |θ| exceeds n × DEADBAND (R254). -/
def State.beyond (s : State) (theta : Int) (n : Nat) : Bool := decide (((n * s.bcn.deadband : Nat) : Rat) < s.tbToFs (theta.natAbs : Nat))

/-- Copy the upstream's anchor, adjusted to the unit's own numbering: by θ as it was measured and the steps made since (R255). -/
def State.copyAnchor (s : State) (p : Nat) : State :=
  let a := (nth s.bcn.ports p).peerAnchor
  if !a.valid then s
  else
    let k := roundAway (((nth s.bcn.ports p).theta : Rat) / 65536) + (nth s.bcn.ports p).moved
    s.updTb (fun t => { t with anchorTb := a.tb + BitVec.ofInt 64 k, anchorFrac := a.frac, anchorSec := a.sec, anchorValid := true, fromBeacon := true })

/-- No step of the timebase waits for an armed group's boundary, and nothing is slewed (R226, R254). -/
def State.noneOutstanding (s : State) : Bool :=
  s.spr.slewFs == 0 && (List.range 32).all (fun g => (nth s.rsv.grp g).run.isNone || (s.tb.grpEpoch.getD g none).isNone)

/-- ALIGNED sets and clears from a θ of the upstream (R254). -/
def State.judgeAligned (s : State) (p : Nat) (theta : Int) : State :=
  if s.bcn.aligned then (if s.beyond theta 4 then s.updBcn (fun b => { b with aligned := false }) else s)
  else if !s.beyond theta 1 && s.noneOutstanding then
    ((s.updBcn (fun b => { b with aligned := true })).lockEvent true 4 none).copyAnchor p
  else s

/-- The timebase is corrected for port p's θ, once (R253). -/
def State.correctFor (s : State) (p : Nat) : State × Int :=
  let x := nth s.bcn.ports p
  if x.used then (s, 0) else (s.updPort p (fun x => { x with used := true })).correct x.theta

/-- What a new θ of port p does where p is upstream (R253, R254); a BEACON_MEASURE with ACTION 1 that names p corrects from it at its
end (R250). -/
def State.newTheta (s : State) (p : Nat) (named : Bool) : State :=
  if s.bcn.upPort ≠ some p then s
  else
    let theta := (nth s.bcn.ports p).theta
    let s := s.updBcn (fun b => { b with theta := theta })
    let s := s.judgeAligned p theta
    if s.bcn.track && s.beyond theta 1 && !named then (s.correctFor p).1 else s

/-- A BEACON_MEASURE waits for port p, and its present result is one of the command's own frames (R250). -/
def Bcn.measures (b : Bcn) (p : Nat) (m : BcnMeas) : Bool := bit m.left p && (nth b.ports p).measSeq ≠ m.before.getD p 0

/-- Solve port p once both results of one sequence number are there; a BEACON_MEASURE that names it has its measurement where it began with
the command (R248, R250). -/
def State.trySolve (s : State) (p : Nat) : State :=
  let x := nth s.bcn.ports p
  if x.solved || x.measSeq = 0 || x.peerSeq ≠ x.measSeq then s
  else
    let s := s.solve p
    let named := match s.bcn.meas with | some m => m.action == 1 && s.bcn.measures p m | none => false
    let s := s.updBcn (fun b => { b with meas := b.meas.map (fun m => if b.measures p m then { m with left := m.left - 2 ^ p } else m) })
    s.newTheta p named

/-! ### Receiving frames (R245, R246, R257, R258) -/

/-- A received event entry: none when it is not VALID. The time is in the sender's numbering. -/
def parseEvent (tb : Nat) (b : List Byte) : Option BevEvent :=
  if bit (rd b 0 1) 3 then
    some { line := fld (rd b 0 1) 2 0, seq := fld (rd b 0 1) 7 4, origin := fld (rd b 1 1) 5 0, t := 4096 * (tb : Int) + sgn 40 (rd b 2 5) }
  else none

/-- A received event (R257, R258): discarded as a repeat or as too old, else delivered and sent on every other tree link. -/
def State.bevReceive (s : State) (p : Nat) (e : BevEvent) : State :=
  let mine := s.bcn.seen.filter (fun x => x.1 == e.origin)
  if mine.contains (e.origin, e.line, e.seq) then s.updBcn (fun b => { b with evDup := satAdd 65535 b.evDup 1 })
  else
    let s := s.updBcn (fun b =>
      { b with seen := keepSeen b.seen (e.origin, e.line, e.seq) })
    let t := s.ofTb e.t
    let old : Bool := match s.tb.steps with | _ :: n :: _ => decide (t < 4096 * ((n : Nat) : Int)) | _ => false
    if old then
      forEach (List.range 32) s (fun s g =>
        if s.judging g && (List.range 4).any (fun k => s.slotSrc g k == 0x88 + e.line) then
          s.updTrg g (fun x => { x with bevLate := satAdd 0xFFFFFFFF x.bevLate 1 })
        else s)
    else
      let s := if s.bcn.role = 0 then s
        else forEach ((List.range 4).filter (· ≠ p)) s (fun s k => if s.bcn.treeLink k then s.bevQueue k e else s)
      s.bevDeliver e.line t s.now

/-- A frame a receiver accepts: 32 characters, its K28.5 and K29.7 in place, its CRC good (R245). -/
def frameOk (f : List Byte) : Bool := f.length == 32 && f.getD 0 0 == 0xBC && f.getD 31 0 == 0xFD
def frameCrcOk (f : List Byte) : Bool := crc8 ((f.drop 1).take 29) == rd f 30 1

/-- A complete payload message: the peer's result and anchor (R245, R248). -/
def BcnPort.message (x : BcnPort) : BcnPort :=
  let w := fun (i : Nat) => x.rxWords.getD i 0
  { x with solved := x.solved && x.peerSeq == w 2, peerSeq := w 2, peerArr := sgn 64 (w 0 + 2 ^ 32 * w 1), rxMask := 0,
           peerAnchor := { tb := BitVec.ofNat 64 (w 6 + 2 ^ 32 * w 7), frac := fld (w 8) 11 0, valid := bit (w 8) 12,
                           sec := BitVec.ofNat 64 (w 9 + 2 ^ 32 * w 10) } }

/-- The full FRAME_TB of a valid frame (R245, R248): its high 16 bits from payload word 4 where the frame carries it, else those of the
frame before, one more where the low 48 bits have wrapped. -/
def BcnPort.fullTb (x : BcnPort) (f : List Byte) : Nat :=
  let low : Nat := rd f 4 6
  let high : Nat := x.rxTb / 2 ^ 48
  if fld (rd f 1 1) 3 0 = 4 then low + 2 ^ 48 * (rd f 26 4 % 65536)
  else low + 2 ^ 48 * ((if low + 2 ^ 47 < x.rxTb % 2 ^ 48 then high + 1 else high) % 65536)

/-- The port's part of a valid frame: the peer's fields, the payload word, the stamp. -/
def BcnPort.take (x : BcnPort) (f : List Byte) (edge : Nat) : BcnPort :=
  let fl := rd f 1 1
  let i := fld fl 3 0
  let x := { x with peerMv := bit fl 4, peerUpHere := bit fl 6, peerId := fld (rd f 2 1) 5 0, peerHops := fld (rd f 3 1) 3 0,
                    validRun := x.validRun + 1, rxWords := x.rxWords.set i (rd f 26 4), rxMask := (if i = 0 then 0 else x.rxMask) ||| 2 ^ i }
  let tb : Nat := x.fullTb f
  let x := { x with rxTb := tb }
  let measures := x.link == .up || x.link == .rateMismatch
  if measures then { x with accSum := x.accSum + ((edge : Int) - 65536 * (tb : Int)), accN := x.accN + 1 } else x

/-- BEACON_FRAME_RECEIVE (R245, R246, R248, R252, R255, R257, R258). -/
def execBeaconFrameReceive (p : Nat) (f : List Byte) (edge : Nat) (s : State) : Res :=
  let x := nth s.bcn.ports p
  if 4 ≤ p || !s.domOn 43 || !x.en || x.failed || s.spr.fallback then .next s
  else if !frameOk f then .next (s.updPort p (fun x => { x with validRun := 0 }))
  else if !frameCrcOk f then .next (s.updPort p (fun x => { x with crcErr := satAdd 65535 x.crcErr 1, validRun := 0 }))
  else
    let wasHold := s.bcn.hold
    let s := s.updPort p (fun x => x.take f edge)
    let s := (s.updPort p (fun x =>
      if 64 ≤ x.validRun && (x.link == .training || x.link == .down) then
        { x with link := .up, accSum := 0, accN := 0, arrTb := none, overRun := 0, underRun := 0 } else x)).linkLogged s p
    let done := fld (rd f 1 1) 3 0 = 15 && (nth s.bcn.ports p).rxMask = 65535
    let anchor := (nth s.bcn.ports p).peerAnchor
    let s := if done then (s.updPort p BcnPort.message).trySolve p else s
    let s := s.reselect wasHold
    let s := if done && s.bcn.role = 2 && s.bcn.upPort == some p && (nth s.bcn.ports p).peerAnchor != anchor then s.copyAnchor p else s
    let tb := (nth s.bcn.ports p).rxTb
    let evs := [parseEvent tb (f.drop 12), parseEvent tb (f.drop 19)].filterMap id
    .next (forEach evs s (fun s e => s.bevReceive p e))

/-! ### Link states (R246, R247, R261) -/

/-- PORT_DOWN (R246, R252, R475). -/
def execPortDown (p : Nat) (s : State) : Res :=
  let x := nth s.bcn.ports p
  if 4 ≤ p || !s.domOn 43 || !(x.link == .up || x.link == .training || x.link == .rateMismatch) then .next s
  else
    let wasHold := s.bcn.hold
    let s := s.updPort p (fun x => { x with link := .down, lossCnt := satAdd 65535 x.lossCnt 1, validRun := 0 })
    .next ((s.log DEGRADED bBCN 1 p x.peerId).reselect wasHold)

/-- PORT_SELF_TEST (R16, R18, R246, R475): a pass returns the port to training, a failure takes it out of service. -/
def execPortSelfTest (p : Nat) (pass : Bool) (result : Nat) (s : State) : Res :=
  let x := nth s.bcn.ports p
  if 4 ≤ p || !s.domOn 43 || x.failed || !((x.en && x.link == .down) || (s.pwr.starting && x.link != .up)) then .next s
  else if pass then .next (if x.en then s.updPort p (fun x => { x with link := .training, validRun := 0 }) else s)
  else
    let wasHold := s.bcn.hold
    let second := s.bcn.ports.any BcnPort.failed
    let s := s.updPort p (fun x => { x with link := if x.en then .failed else x.link, failed := true, validRun := 0 })
    .next ((s.log (if second then FATAL else DEGRADED) bBCN (if second then 4 else 2) p result).reselect wasHold)

/-- RECEIVER_LOSES_ALIGNMENT (R247): a port in RATE_MISMATCH returns to TRAINING. -/
def execReceiverLosesAlignment (p : Nat) (s : State) : Res :=
  let x := nth s.bcn.ports p
  if 4 ≤ p || x.link ≠ .rateMismatch then .next s else .next (s.updPort p (fun x => { x with link := .training, validRun := 0 }))

/-! ### Measurement (R247, R248, R250, R312) -/

/-- Frames of the measurement that runs on port p. -/
def Bcn.frames (b : Bcn) (p : Nat) : Nat :=
  match b.meas with
  | some m => 2 ^ (if bit m.left p then m.shift else b.measShift)
  | none => 2 ^ b.measShift

/-- A rate judgement in ppb: the change in ARR over the time between the two slot boundaries (R247). -/
def rateOf (dArr : Int) (dT : Int) : Rat := if dT = 0 then 0 else (dArr : Rat) * 10 ^ 9 / 65536 / dT

/-- The rate judgement of a new ARR (R247). -/
def State.judgeRate (s : State) (p : Nat) (old : Int) (prev : Nat) (slot : Nat) : State :=
  let x := nth s.bcn.ports p
  let r := rateOf (x.arr - old) ((slot : Int) - prev)
  let wide := decide (10 < r) || decide (r < -10)
  let close := !(decide (5 < r) || decide (r < -5))
  let s := s.updPort p (fun x => { x with overRun := if wide then x.overRun + 1 else 0, underRun := if close then x.underRun + 1 else 0 })
  let x := nth s.bcn.ports p
  if x.link == .up && 2 ≤ x.overRun then
    (s.updPort p (fun x => { x with link := .rateMismatch, overRun := 0, underRun := 0 })).log DEGRADED bBCN 5 p (unsgn 64 (roundAway r))
  else if x.link == .rateMismatch && 2 ≤ x.underRun then (s.updPort p (fun x => { x with link := .up, overRun := 0, underRun := 0 })).linkLogged s p
  else s

/-- ARR_MEASURED (R247, R248, R252 to R255). -/
def execArrMeasured (p : Nat) (s : State) : Res :=
  let x := nth s.bcn.ports p
  if 4 ≤ p || !s.domOn 43 || !(x.link == .up || x.link == .rateMismatch) || x.accN < s.bcn.frames p then .next s
  else
    let wasHold := s.bcn.hold
    let slot := s.tb.count.toNat - s.tb.count.toNat % 1280
    let arr := roundAway ((x.accSum : Rat) / x.accN)
    let s := s.updPort p (fun x =>
      { x with arr := arr, measSeq := (x.measSeq + 1) % 2 ^ 32, measN := x.accN, accSum := 0, accN := 0, arrTb := some slot, solved := false })
    let s := match x.arrTb with | some prev => s.judgeRate p x.arr prev slot | none => s
    .next ((s.reselect wasHold).trySolve p)

/-- BEACON_MEASURE (R250, R312). -/
def execBeaconMeasure (q : Nat) (s : State) : Res :=
  runCmd s q 0x39 [(16, 1), (17, 1), (18, 1), (48, 16)]
    (fun p => pktIndex p == 0 && 1 ≤ rd p 16 1 && rd p 16 1 < 16 && 10 ≤ rd p 17 1 && rd p 17 1 ≤ 24 && rd p 18 1 ≤ 1 && bulkOk p)
    (fun s e =>
      let mask := rd e.pkt 16 1
      let action := rd e.pkt 18 1
      if !s.spr.lock || (allBelow 4 (bit mask)).any (fun p => (nth s.bcn.ports p).link ≠ .up) ||
          (action = 1 && !(s.bcn.role = 2 && s.bcn.upPort.isSome)) || !s.domOn 43 then refuse s STATE
      else if s.bcn.meas.isSome then .hold
      else
        let s := s.updBcn (fun b =>
          { b with meas := some { cmd := e.idx, mask := mask, left := mask, action := action, shift := rd e.pkt 17 1, before := b.ports.map BcnPort.measSeq },
                   ports := b.ports.mapIdx (fun p x => if bit mask p then { x with accSum := 0, accN := 0 } else x) })
        .wait s .beacon (some []))

/-- One port's entry of the BEACON_MEASURE report (R312). -/
def BcnPort.entry (x : BcnPort) : List Byte :=
  leBytes 8 (unsgn 64 x.rtt) ++ leBytes 8 (unsgn 64 x.dIn) ++ leBytes 8 (unsgn 64 (x.rtt - x.dIn)) ++ leBytes 8 (unsgn 64 x.theta)

/-- BEACON_MEASURE_DONE (R250, R253, R312): each named port has finished; the report, the correction and the completion. -/
def execBeaconMeasureDone (writeOk : Bool) (s : State) : Res :=
  match s.bcn.meas with
  | none => .next s
  | some m =>
    match s.jget m.cmd with
    | none => .next s
    | some e =>
      if m.left ≠ 0 then .next s
      else
        let ps := allBelow 4 (bit m.mask)
        let bs := (ps.map (fun p => (nth s.bcn.ports p).entry)).take (bulkLen e.pkt / 32) |>.flatten
        let s1 := s.updBcn (fun b => { b with meas := none })
        if !bs.isEmpty && !s.busOk then .next s
        else if !bs.isEmpty && !writeOk then .next ((s1.logCp7 e).finish m.cmd PARAM_RANGE [])
        else
          let s1 := s1.hostWrite (bulkAddr e.pkt) bs
          let p := if m.action = 1 then s.bcn.upPort.getD (ps.headD 0) else ps.headD 0
          let theta := (nth s.bcn.ports p).theta
          let (s1, k) := if m.action = 1 && s.bcn.upPort.isSome then s1.correctFor p else (s1, 0)
          .next ((s1.rechoose).finish m.cmd OK
            (leBytes 8 (unsgn 64 theta) ++ leBytes 4 (unsgn 32 (clampI (-2147483647) 2147483647 k)) ++ leBytes 2 s1.tb.epoch))

end Sys2Proof.Machine
end

