-- ==== Sys2Proof/Machine/Sequencer.lean ====
section
/-! DEFINITION. The sequencer pair, micro-traps, journal copies and recovery (R282, R285 to R294, R498). -/

namespace Sys2Proof.Machine

/-- A frame of free values: what a handler leaves in the live registers is the microcode's (R286). -/
def freeFrame (k : Nat) : Frame :=
  { microPc := Config.freeNat k, scratch := (List.range 16).map (fun i => Config.freeNat (k + 1 + i)),
    loops := (List.range 4).map (fun i => Config.freeNat (k + 17 + i)), flags := Config.freeNat (k + 21) }

def State.updThread (s : State) (k : Nat) (f : Thread → Thread) : State :=
  { s with cp := { s.cp with threads := upd s.cp.threads k f } }

/-- A FORCE_TRIGGER that waited is cancelled (R150). -/
def State.cancelForces (s : State) : State := { s with trg := { s.trg with grp := s.trg.grp.map (fun x => { x with forces := [] }) } }

/-- Every thread stops, and the lists of commands rolled back are discarded (R288, R289). -/
def Cp.stopThreads (c : Cp) : Cp := { c with threads := c.threads.map (fun _ => {}), changeLog := List.replicate 8 0 }

/-- Begin an engine restart: every thread stops (R289), and no waiting force is judged from here on (R150). -/
def State.startRestart (s : State) (r : Restart) : State :=
  s.cancelForces.updCp (fun c => { c.stopThreads with st := .restarting, restart := some r, restartCnt := satAdd 255 c.restartCnt 1 })

/-! ### Recovery (R290 to R294, R498) -/

/-- A wait that comes before its command's micro-commit: a reset rolls the command back (R241, R250, R434). -/
def Wait.uncommitted : Wait → Bool
  | .beacon | .timeMap | .timeLoad | .block | .convert _ => true
  | .power started => !started
  | _ => false

/-- What a recovery is told: KIND, DOMAIN, the units whose sets the reset discarded (R44), the units whose pending generations
it discarded whether or not they held anything, and whether activities were stopped. -/
structure RecoveryIn where
  kind : Nat := 4
  domain : Nat := 0xFF
  unitMask : Nat := 0
  /-- Waits the reset discarded. -/
  lost : Wait → Bool := fun _ => false

/-- The command is COMMIT with ACTION APPLY. -/
def isApply (p : Packet) : Bool := opcode p == 0x09 && rd p 16 1 == 0

/-- The recovery is that of a warm reset. -/
def RecoveryIn.warm (r : RecoveryIn) : Bool := r.kind == 1 || r.kind == 2

/-- R290 and R302 for a command that has not made its micro-commit: requeued (true) or not executed (false). -/
def RecoveryIn.requeues (r : RecoveryIn) (p : Packet) : Bool :=
  let op := opcode p
  if op == 0x21 || op == 0x6A then false
  else if op == 0x20 || op == 0x24 then !(r.warm || bit r.unitMask (pktIndex p))
  else if isApply p then !(r.warm || bit r.unitMask (pktIndex p))
  else true

/-- An entry made ROLLED_BACK_REQUEUED (R290, R291). -/
def JEntry.requeue (e : JEntry) : JEntry :=
  { e with st := .requeued, wait := none, acceptedDue := none, rollbackDue := true, recovered := true, outcome := some 1 }
/-- An entry made NOT_EXECUTED_RESET (R290, R291). -/
def JEntry.notRun (e : JEntry) : JEntry :=
  { e with st := .notExecuted, status := NOT_EXECUTED_RESET, result := zeros 16, wait := none, acceptedDue := none, rollbackDue := false,
           finalDue := true, recovered := true, outcome := some 2 }
/-- A DONE entry whose completion is owed (R291). -/
def JEntry.keepDone (e : JEntry) : JEntry := { e with recovered := e.recovered || !e.posted, outcome := some 0 }

/-- The outcome of one entry (R290, R44, R150). A warm reset makes every COMMIT with APPLY that has not made its final completion
NOT_EXECUTED_RESET, one whose generation had applied included (R44). -/
def classify (r : RecoveryIn) (e : JEntry) : JEntry :=
  if !e.posted && r.warm && isApply e.pkt then e.notRun
  else if e.posted || e.finalDue then (if e.st == .notExecuted then e else e.keepDone)
  else match e.wait with
    | some (.force _) => e.notRun
    | some w =>
      if w.uncommitted then (if r.requeues e.pkt then e.requeue else e.notRun)
      else if r.lost w || (isApply e.pkt && (r.warm || bit r.unitMask (pktIndex e.pkt))) then e.notRun
      else e.keepDone
    | none =>
      if e.st == .requeued && (!isApply e.pkt || r.requeues e.pkt) then e
      else if r.requeues e.pkt then e.requeue else e.notRun

/-- The report entry of a journal entry (R293). -/
def repEntry (before e : JEntry) : RepEntry :=
  { seq := pktSeq e.pkt, queue := e.queue, opcode := opcode e.pkt, tag := pktTag e.pkt,
    outcome := match e.st with | .requeued => 1 | .notExecuted => 2 | _ => 0,
    posted := before.posted, owed := !e.posted,
    status := if e.st == .done then e.status else 0, idx := e.idx }

/-- A RECOVERY event, SUBTYPE 0 (R292). -/
def State.recoveryEvent (s : State) (r : RecoveryIn) (lostEvents journaled requeued notExec : Nat) : State :=
  s.event 0x32 0 none s.tb.count
    ([BitVec.ofNat 8 r.kind, 0, BitVec.ofNat 8 r.domain, BitVec.ofNat 8 (min 255 lostEvents)] ++ leBytes 2 journaled ++
      leBytes 2 requeued ++ leBytes 2 notExec ++ leBytes 5 r.unitMask)

/-- A RECOVERY event, SUBTYPE 1 (R292). -/
def State.recoveryGroupEvent (s : State) (r : RecoveryIn) (x : EndedGroup) : State :=
  s.event 0x32 x.g none s.tb.count
    ([BitVec.ofNat 8 r.kind, 1, 0, 0] ++ leBytes 4 x.acqNum ++ leBytes 4 x.freed ++ leBytes 4 x.kept)

/-- Record a recovery: RECOVERY_NUM, the report and the RECOVERY events (R292, R293); every reset ends a debug challenge (R328). -/
def State.report (s : State) (r : RecoveryIn) (old : List JEntry) (lostEvents : Nat) (ended : List EndedGroup) : State :=
  let new := s.cp.jrn
  let req := (old.zip new).countP (fun (a, b) => a.st != .requeued && b.st == .requeued)
  let nex := (old.zip new).countP (fun (a, b) => a.st != .notExecuted && b.st == .notExecuted)
  let num := (s.cp.recNum + 1) % 65536
  let rep : Report := { num := num, kind := r.kind, tb := s.tb.count, unitMask := r.unitMask, entries := (old.zip new).map (fun (a, b) => repEntry a b) }
  let s := s.updCp (fun c => { c with recNum := num, lastKind := r.kind, report := some rep })
  let s := s.updPwr (fun p => { p with lastKind := if 3 ≤ r.kind then r.kind else p.lastKind })
  let s := s.updKpr (fun k => { k with challenge := none })
  let s := s.recoveryEvent r lostEvents old.length req nex
  forEach ended s (fun s x => s.recoveryGroupEvent r x)


/-- Classify the journal and report the recovery (R150, R290, R292, R293). -/
def State.recover (s : State) (r : RecoveryIn) (lostEvents : Nat) (ended : List EndedGroup) : State :=
  let old := s.cp.jrn
  let s := s.cancelForces.updCp (fun c => c.mapJrn (List.map (classify r)))
  s.report r old lostEvents ended

/-- R498: what a domain restart other than PD45's does to one entry. -/
def classifyDomain (r : RecoveryIn) (needs : JEntry → Bool) (e : JEntry) : JEntry :=
  let gone := bit r.unitMask (pktIndex e.pkt)
  let op := opcode e.pkt
  if e.posted || e.finalDue then e
  else if gone && isApply e.pkt then e.notRun
  else match e.wait with
    | some w =>
      if w.uncommitted then
        (if needs e then { e with st := .done, status := STATE, result := zeros 16, wait := none, finalDue := true } else e)
      else if r.lost w then e.notRun else e
    | none =>
      if gone && (op == 0x20 || op == 0x24) && e.st == .accepted then e.notRun
      else if e.st == .executing && needs e then
        { e with st := .done, status := STATE, result := zeros 16, wait := none, finalDue := true }
      else e

/-- The journal side of a domain restart other than PD45's (R498). -/
def State.recoverDomain (s : State) (r : RecoveryIn) (needs : JEntry → Bool) (ended : List EndedGroup) : State :=
  let old := s.cp.jrn
  let s := s.updCp (fun c => c.mapJrn (List.map (classifyDomain r needs)))
  s.report r old 0 ended

/-- Stop the activities whose command an engine restart or FLR rolled back: a link measurement (R250). -/
def State.dropRolledBack (s : State) : State :=
  if s.bcn.meas.isSome then s.updBcn (fun b => { b with meas := none }) else s

/-! ### Lockstep (R285) -/

/-- LOCKSTEP_MISMATCH: the output is blocked and an engine restart begins; the sixteenth within 1 s raises LOCKSTEP. -/
def execLockstepMismatch (s : State) : Res :=
  if s.cp.st ≠ .running || !s.cp.lockstep then .next s
  else
    let t := s.tb.count
    let tbs := (t :: s.cp.mismatchTb).take 16
    let s := s.updCp (fun c => { c with mismatchCnt := satAdd 65535 c.mismatchCnt 1, mismatchTb := tbs })
    let storm := tbs.length == 16 && tbs.all (fun x => (t - x).toNat < s.fs)
    let s := if storm then s.raiseAlarm 5 0 else s
    .next (s.startRestart { kind := 4, mismatch := true })

/-- Both self-tests' outcome on the pair: who is in service, the log (R285, R475); false when no sequencer is left. -/
def State.selfTest (s : State) (aPass bPass mismatch : Bool) : State × Bool :=
  let result := b2n (!aPass) + 2 * b2n (!bPass)
  match s.cp.retiredA, s.cp.retiredB with
  | false, false =>
    if aPass && bPass then
      let s := if mismatch then s.log CORRECTED bCP 1 0 s.cp.mismatchCnt else s
      (s.updCp (fun c => { c with lockstep := true }), true)
    else if aPass || bPass then
      let s := s.log DEGRADED bCP 2 (if aPass then 1 else 0) result
      (s.updCp (fun c => { c with lockstep := false, retiredA := !aPass, retiredB := !bPass }), true)
    else ((s.log FATAL bCP 3 0 result).updCp (fun c => { c with lockstep := false }), false)
  | ra, rb =>
    let live := (!ra && aPass) || (!rb && bPass)
    let s := s.updCp (fun c => { c with lockstep := false })
    if live then (s, true) else (s.log FATAL bCP 3 0 result, false)

/-- SEQUENCER_SELF_TEST_DONE (R285, R289, R441): the restart classifies the journal and resumes the queues, or commands stop. -/
def execSequencerSelfTestDone (aPass bPass : Bool) (s : State) : Res :=
  match s.cp.restart with
  | some r =>
    if s.cp.st ≠ .restarting then .next s
    else
      let (s, live) := s.selfTest aPass bPass r.mismatch
      if live then
        let s := s.dropRolledBack
        let s := s.recover { kind := r.kind, domain := r.domain } 0 []
        .next (s.updCp (fun c => { c.stopThreads with st := .running, restart := none }))
      else .next (s.updCp (fun c => { c with st := .stopped, restart := none }))
  | none =>
    if s.cp.st ≠ .recovering then .next s
    else
      let (s, live) := s.selfTest aPass bPass false
      if live then .next (s.updCp (fun c => { c with st := .running }))
      else .next ((s.updCp (fun c => { c with st := .stopped })).updPwr (fun p => { p with phase := .failed, starting := false }))

/-! ### Micro-traps (R286, R287) -/

/-- The command has not made its micro-commit: it has not ended, and what it waits for, if anything, comes before (R286, R288). -/
def JEntry.open (e : JEntry) : Bool := !e.finalDue && e.wait.all Wait.uncommitted

/-- What an uncommitted command had asked of a block is dropped as the command ends: a link measurement (R250). -/
def State.dropAsked (s : State) (e : JEntry) : State := if e.wait == some .beacon then s.dropRolledBack else s

/-- End the command a thread runs before its micro-commit, with a status (R286). -/
def State.endCommand (s : State) (k status : Nat) (log : Bool) : State :=
  match s.cp.current k with
  | some e =>
    if !e.open then s
    else
      let s := if log then s.logCp7 e else s
      (s.dropAsked e).finish e.idx status []
  | none => s

/-- A third trap locks the thread: FATAL, count, engine restart; a command that locks a thread again ends (R287). -/
def State.lockThread (s : State) (k : Nat) : State :=
  let t := nth s.cp.threads k
  let s := s.log FATAL bCP 4 k t.cur.microPc
  let s := s.updCp (fun c => { c with trapLockCnt := satAdd 255 c.trapLockCnt 1 })
  let s :=
    match s.cp.current k with
    | some e =>
      if !e.open then s
      else if e.lockedOnce then (s.dropAsked e).finish e.idx INTERNAL_FAULT []
      else s.updJ e.idx (fun x => { x with lockedOnce := true, st := .executing })
    | none => s
  let s := s.startRestart { kind := 4 }
  s.updThread k (fun x => { x with st := .locked })

/-- The thread has a command, so a trap can concern it. -/
def State.trapReady (s : State) (k : Nat) : Bool :=
  s.cp.st == .running && (s.cp.current k).isSome && (nth s.cp.threads k).st != .locked

/-- A trap stops thread k at some micro-instruction of a command before its micro-commit: how much of its change list stands in the change
log then is free, up to the room there is (R286, R288). -/
def State.listAtTrap (s : State) (k n : Nat) : State :=
  match s.cp.current k with
  | some e =>
    if e.open && (nth s.cp.threads k).frames.isEmpty then
      s.updCp (fun c => { c with changeLog := upd c.changeLog k (fun _ => min (Config.freeNat n % (changesOf e.pkt + 1)) (c.logSpace k)) })
    else s
  | none => s

/-- MICRO_TRAP (R286, R287): save the frame and run the handler of the condition; the third nested trap locks the thread. -/
def execMicroTrap (k : Nat) (c : TrapCond) (s : State) : Res :=
  let t := nth s.cp.threads k
  match c with
  | .handlerEnd =>
    match t.frames with
    | f :: rest =>
      let st := match rest with | [] => (if (s.cp.current k).any (fun e => e.wait.isSome) then .wait else .idle) | _ => .trap1
      .next (s.updThread k (fun x => { x with cur := f, frames := rest, st := st }))
    | [] => .next s
  | c =>
    if !s.trapReady k then .next s
    else if 2 ≤ t.frames.length then .next (s.lockThread k)
    else
      let (n, s) := s.draw 23
      let s := (s.listAtTrap k (n + 22)).updThread k (fun x =>
        { x with frames := x.cur :: x.frames, cur := freeFrame n, st := if x.frames.isEmpty then .trap1 else .trap2 })
      match c with
      | .corrected a => .next (s.log CORRECTED bCP 8 k a)
      | .bulkReadError => .next ((s.endCommand k PARAM_RANGE true).updThread k (fun _ => {}))
      | .noReply => .next ((s.endCommand k INTERNAL_FAULT true).updThread k (fun _ => {}))
      | .uncorrectable => .next (s.startRestart { kind := 4 })
      | _ => .next s

/-- BLOCK_REPLY_TIMEOUT (R286): the command ends before its micro-commit with INTERNAL_FAULT, and CONTAINED is logged. -/
def execBlockReplyTimeout (q : Nat) (s : State) : Res :=
  .next (if s.trapReady q then s.endCommand q INTERNAL_FAULT true else s)

/-! ### Requeued commands and the journal copies (R282, R290) -/

/-- Every requeued entry with a lower index has begun (R290). -/
def Cp.requeueTurn (c : Cp) (e : JEntry) : Bool := c.jrn.all (fun f => f.st != .requeued || e.idx ≤ f.idx)

/-- REQUEUED_EXECUTE (R290): after start-up completes, the queue's requeued command begins when its turn has come. -/
def execRequeuedExecute (q : Nat) (s : State) : Res :=
  match s.cp.current q with
  | some e =>
    if e.st == .requeued && s.cp.st == .running && !s.pwr.starting && (nth s.cp.queues q).st != .suspended && s.cp.requeueTurn e &&
        (!fence e.pkt || s.cp.jrn.all (fun f => f.idx ≥ e.idx || f.posted))
    then .next (s.updJ e.idx (fun x => { x with st := .executing }))
    else .next s
  | none => .next s

/-- A journal copy leaves service: DEGRADED for the first, FATAL for the second (R16, R282). -/
def State.copyFail (s : State) (copy cause : Nat) : State :=
  let ok := if copy = 0 then s.cp.aOk else s.cp.bOk
  if !ok then s
  else
    let other := if copy = 0 then s.cp.bOk else s.cp.aOk
    let s := if other then s.log DEGRADED bJRNL 1 copy cause else s.log FATAL bJRNL 2 copy cause
    let s := if copy = 0 then s.updCp (fun c => { c with aOk := false, aFailed := true })
      else s.updCp (fun c => { c with bOk := false, bRebuild := cause == 1 })
    if other then s else s.updCp (fun c => { c with st := .stopped })

/-- JOURNAL_COPY_FAIL (R282). -/
def execJournalCopyFail (copy cause : Nat) (s : State) : Res := .next (s.copyFail copy cause)

/-- JOURNAL_B_REBUILD (R282): copy B is rebuilt from copy A once PD43 is on again, and returns to service. -/
def execJournalBRebuild (s : State) : Res :=
  if s.cp.aOk && !s.cp.bOk && s.cp.bRebuild && s.domOn 43 then
    .next (s.updCp (fun c => { c with jrnB := c.jrnA, bOk := true, bRebuild := false }))
  else .next s

/-- BAD_OPCODE (R283, R302): an opcode the command reference does not list ends with BAD_OPCODE. -/
def listedOpcodes : List Nat :=
  [0x00, 0x01, 0x02, 0x03, 0x08, 0x09, 0x0A, 0x10, 0x11, 0x12, 0x13, 0x18, 0x19, 0x1A, 0x1B, 0x20, 0x21, 0x22, 0x23, 0x24, 0x25,
   0x28, 0x29, 0x2A, 0x2B, 0x30, 0x31, 0x32, 0x38, 0x39, 0x3A, 0x48, 0x4A, 0x50, 0x51, 0x58, 0x59, 0x60, 0x61, 0x68, 0x69, 0x6A,
   0x6B, 0x6C, 0x70, 0x71, 0x78]

def execBadOpcode (q : Nat) (s : State) : Res :=
  match s.cp.current q with
  | some e =>
    if listedOpcodes.contains (opcode e.pkt) || e.dup || !s.ready q e then .next s
    else .next (s.finish e.idx BAD_OPCODE [])
  | none => .next s

/-- DUPLICATE_COMMAND (R270): a duplicate changes nothing and completes with STATE, DUPLICATE and LAST_SEQ. -/
def execDuplicateCommand (q : Nat) (s : State) : Res :=
  match s.cp.current q with
  | some e =>
    if e.dup && s.ready q e then .next (s.finish e.idx STATE (leBytes 8 (nth s.cp.queues q).lastSeq.toNat)) else .next s
  | none => .next s

end Sys2Proof.Machine
end

