-- ==== Sys2Proof/Machine/Directory.lean ====
section
/-! DEFINITION. The record directory, release, and Reservoir's faults (R184, R188 to R190, R318, R319); the end of an acquisition by a
reset or a fault (R19, R174). -/

namespace Sys2Proof.Machine

/-- The first segment number of a running acquisition that is not yet complete (R184). -/
def AcqRec.firstOpen (a : AcqRec) (next : Nat) : Nat :=
  (a.segs.filter (fun x => x.st == .queued)).foldl (fun m x => min m x.num) next

/-- The number a running acquisition has reached, where it runs. -/
def State.reached (s : State) (a : AcqRec) : Option Nat :=
  if a.active then (nth s.rsv.grp a.group).run.map (fun r => a.firstOpen r.seg) else none

/-- Release the segments of an acquisition that `p` names: slot and descriptor are free, their content undefined (R184). -/
def State.releaseSegs (s : State) (a : AcqRec) (p : Nat → Bool) : State :=
  let s := forEach (a.segs.filter (fun x => p x.num)) s (fun s x =>
    (s.undefine (a.slotBytes x.slot).1 (a.slotBytes x.slot).2).undefine (256 * (a.descBase + x.slot)) 256)
  let s := s.updDir a.group a.acqNum (fun a => { a with segs := a.segs.filter (fun x => !p x.num) })
  s.updRsv (fun r => { r with dir := r.dir.filter (fun a => a.active || !a.segs.isEmpty) })

/-- Release numbers first to first + count − 1 of an acquisition (R184, R318): the state and how many were released, or none when one of
them is not yet complete, as every number of an acquisition that has not begun is. -/
def State.tryRelease (s : State) (g acq first count : Nat) : Option (State × Nat) :=
  let mine (n : Nat) : Bool := first ≤ n && n < first + count
  match s.rsv.find g acq with
  | none => if (nth s.rsv.grp g).acqNum < acq then none else some (s, 0)
  | some a =>
    if (match s.reached a with | some k => decide (k < first + count) | none => false) then none
    else some (s.releaseSegs a mine, a.segs.countP (fun x => mine x.num))

/-- RECORD_RELEASE (R184, R318). -/
def execRecordRelease (q : Nat) (s : State) : Res :=
  runCmd s q 0x28 [(16, 4), (20, 4), (24, 4)] (fun p => pktIndex p ≤ 31 && 1 ≤ rd p 24 4 && rd p 24 4 ≤ 16777216)
    (fun s e =>
      let count := rd e.pkt 24 4
      match s.tryRelease (pktIndex e.pkt) (rd e.pkt 16 4) (rd e.pkt 20 4) count with
      | none => refuse s STATE
      | some (s, n) => .done s OK (leBytes 4 n ++ leBytes 4 (count - n)))

/-- Unreleased segments of an acquisition that are complete (R319). -/
def AcqRec.unrel (a : AcqRec) : Nat := a.segs.countP (fun x => x.st != .queued)

/-- A directory entry (R319). -/
def AcqRec.entry (a : AcqRec) : List Byte :=
  leBytes 4 a.acqNum ++ leBytes 1 a.group ++ leBytes 1 a.mode ++
    leBytes 1 (b2n a.active + 2 * b2n (a.segs.any (fun x => x.st == .lost)) + 4 * b2n a.anyDegraded) ++ zeros 1 ++
    leBytes 8 a.rgnBase ++ leBytes 4 a.descBase ++ leBytes 4 a.slots ++ leBytes 4 a.done ++ leBytes 4 a.unrel

/-- The code of a segment in a map (R318, R319): 0 RELEASED, 1 UNRELEASED, 2 INCOMPLETE, 3 LOST. -/
def State.segCode (s : State) (a : Option AcqRec) (n : Nat) : Nat :=
  match a with
  | none => 0
  | some a =>
    match a.segs.find? (fun x => x.num == n) with
    | some x => (match x.st with | .queued => 2 | .complete => 1 | .lost => 3)
    | none => (match s.reached a with | some k => if k ≤ n then 2 else 0 | none => 0)

/-- Two-bit codes as bytes, the first lowest (R319). -/
def packCodes : List Nat → List Byte
  | a :: b :: c :: d :: rest => BitVec.ofNat 8 (a + 4 * b + 16 * c + 64 * d) :: packCodes rest
  | [a, b, c] => [BitVec.ofNat 8 (a + 4 * b + 16 * c)]
  | [a, b] => [BitVec.ofNat 8 (a + 4 * b)]
  | [a] => [BitVec.ofNat 8 a]
  | [] => []

/-- RECORD_QUERY (R319). -/
def execRecordQuery (q : Nat) (writeOk : Bool) (s : State) : Res :=
  runCmd s q 0x29 [(16, 4), (20, 4), (24, 4), (48, 16)]
    (fun p => bulkOk p && (if rd p 16 4 = 0 then (pktIndex p ≤ 31 || pktIndex p == 255) && rd p 20 8 == 0 else pktIndex p ≤ 31))
    (fun s e =>
      let g := pktIndex e.pkt
      let len := bulkLen e.pkt
      if rd e.pkt 16 4 = 0 then
        let all := (s.rsv.dir.filter (fun a => g == 255 || a.group == g)).take (len / 32)
        withReport s e writeOk (all.flatMap AcqRec.entry) (fun s =>
          .done s OK (leBytes 4 all.length ++ leBytes 4 (all.map AcqRec.unrel).sum ++
            leBytes 4 ((all.map (fun a => a.segs.countP (fun x => x.st == .lost))).sum)))
      else
        let n := min (rd e.pkt 24 4) (4 * len)
        let a := s.rsv.find g (rd e.pkt 16 4)
        let cs := (List.range n).map (fun j => s.segCode a (rd e.pkt 20 4 + j))
        withReport s e writeOk (packCodes cs) (fun s =>
          .done s OK (leBytes 4 n ++ leBytes 4 (cs.countP (fun c => c == 1 || c == 3)) ++ leBytes 4 (cs.countP (· == 3)))))

/-! ### The end by a reset or a fault (R19, R174, R178, R210) -/

/-- Complete every segment that waits in the capture queues (R166). -/
def State.flushSegs : Nat → State → Nat → Run → State
  | 0, s, _, _ => s
  | n + 1, s, g, r => (s.completeSeg g r).flushSegs n g r

/-- The last sweep of a record has ended, and the row that adds it has not come (R19, R210): the record closes with it; where the model was
not given every sample of it, the record's content is undefined. A record that it does not close is freed with it. -/
def State.keepRecord (s : State) (g : Nat) (r : Run) (t : TrigInfo) (ps : Option (List Part)) : State :=
  if !(r.stopping || r.sweeps + 1 = (s.asOf (r.openT / 4096)).regF (sndA g 0) 20 0) then s
  else match ps with
    | some ps => s.under (r.openT / 4096) (fun v => v.fillSweep g r t ps)
    | none => ((s.queueSeg g r (r.seg % r.slots) (some (r.recTrig.getD t))).updRun g (fun r => { r with sweeps := 0 })).updTrg g (fun x => { x with st := .rearm })

/-- A fill or frame that has ended keeps its segment or frame, although the row that stores it has not come; so does a ROLL acquisition that
a command has ended (R19, R166). Where the model was not given every sample, the content is undefined. `keep`: accumulated records last. -/
def State.keepEnded (s : State) (g : Nat) (r : Run) (a : AcqRec) (keep : Bool) : State :=
  let v := s.asOf (r.openT / 4096)
  let ns := r.members.filter v.produces
  let filled (t : TrigInfo) := v.parts ns (fun n => (v.trigSample n t.t - r.pre * v.perBlock n, (r.pre + r.post) * v.perBlock n))
  if r.mode = 2 then
    if r.ending.isNone then s
    else match s.rollParts r with
      | some ps => s.storeRoll g r a ps
      | none => s.queueSeg g r 0 none
  else if !s.fillEnded g then s
  else match r.mode, r.trig with
    | 3, _ =>
      if r.dropping || r.ending.isSome then s
      else match v.parts ns (fun n => (v.countLt n r.openT, r.post * v.perBlock n)) with
        | some ps => s.under (r.openT / 4096) (fun v => v.storeFrame g r a ps)
        | none => s.queueSeg g r (r.seg % r.slots) r.trig
    | 4, some t => if keep then s.keepRecord g r t (filled t) else s
    | _, some t => match filled t with
      | some ps => s.under (r.openT / 4096) (fun v => v.fillSegment g r a t ps)
      | none => (s.queueSeg g r (r.seg % r.slots) (some t)).updTrg g (fun x => { x with st := .rearm })
    | _, none => s

/-- A stream stores the frame that fills now (R178): where the frame that the model still holds has ended, that is the next one, unless the
stream has ended with it or no slot is free. -/
def State.frameFills (s : State) (g : Nat) (r : Run) : Bool :=
  if s.fillEnded g then !r.streamStop && s.slotFree g { r with seg := (r.seg + 1) % 2 ^ 32 } else !r.dropping

/-- What the acquisition of group g was filling is freed (R19, R174, R178, R199): one segment, frame or record, or none. -/
def State.frees (s : State) (g : Nat) (r : Run) : Bool :=
  let filling := (nth s.trg.grp g).st == .postFill
  r.ending.isNone && ((r.mode ≤ 1 && filling) || (r.mode = 4 && (filling || r.sweeps ≠ 0)) || (r.mode = 3 && s.frameFills g r) || r.mode = 2)

/-- Every write-out that runs ends (R199). -/
def State.finishWrites : Nat → State → Nat → State
  | 0, s, _ => s
  | n + 1, s, g => (s.writeoutDone g).finishWrites n g

/-- End a group's acquisition or stream at once with reason RESET or FAULT (R19): what the capture queues hold is complete, and what fills
is freed. Accumulated records whose fill had ended are written out where `keep` says that their banks last; where not, as at a cold or
warm reset and a restart of PD36, they are freed (R210). -/
def State.forceEnd (s0 : State) (g : Nat) (reason : EndReason) (keep : Bool) : State :=
  let s := s0.closeDue g
  match (nth s.rsv.grp g).run, (nth s.rsv.grp g).run.bind (fun r => s.rsv.find g r.acqNum) with
  | some r, some a =>
    let s := s.keepEnded g r a keep
    let r := ((nth s.rsv.grp g).run).getD r
    let s := if r.closeAt.isSome && keep then s.closeRecord g (r.stopping || r.seg + 1 = r.segCount) else s
    let r := ((nth s.rsv.grp g).run).getD r
    let free := s.frees g r
    let queued := match s.rsv.find g r.acqNum with | some a => a.segs.countP (fun x => x.st == .queued) | none => 0
    let s :=
      if r.mode ≠ 4 then s.flushSegs queued g r
      else if keep then (s.finishWrites r.writeout.length g).flushSegs (queued - r.writeout.length) g r
      else s.updDir g r.acqNum (fun a => { a with segs := a.segs.filter (fun x => x.st != .queued) })
    let freed := r.freed + b2n free + (if r.mode = 4 && !keep then queued else 0)
    (s.updRun g (fun r => { r with freed := freed })).endAcq g reason
  | _, _ => s

/-- The account of a group whose acquisition has just ended, for RECOVERY (R292): KEPT counts the complete segments still held. -/
def State.endedGroup (s : State) (g : Nat) : EndedGroup :=
  match (nth s.rsv.grp g).lastEnd with
  | some (acq, _, freed, _) => { g := g, acqNum := acq, freed := freed, kept := ((s.rsv.find g acq).map AcqRec.unrel).getD 0 }
  | none => { g := g }

/-- End the armed or streaming groups that `p` names, and give their accounts. -/
def State.endGroups (s : State) (p : Nat → Bool) (reason : EndReason) (keep : Bool) : State × List EndedGroup :=
  let gs := allBelow 32 (fun g => s.armed g && p g)
  let s := forEach gs s (fun s g => s.forceEnd g reason keep)
  (s, gs.map s.endedGroup)

/-! ### Stack faults (R188 to R190) -/

/-- Stripes of Reservoir that are retained (R167, R186): segments, their descriptors, and the kept parts of the system region. -/
def Rsv.retained (r : Rsv) : Nat :=
  1310720 + (r.dir.map (fun a => a.segs.length * (cdiv a.slotBlocks 4 + 1))).sum

def State.updStack (s : State) (k : Nat) (f : Stack → Stack) : State := s.updRsv (fun r => { r with stk := upd r.stk k f })

/-- A fault of the stack's domain: the stack comes back and is rebuilt (R188); every other cause is a stack failure. -/
def domainCause (cause : Nat) : Bool := cause == 3 || cause == 4 || cause == 5

/-- Mark the segments that cannot be read after a second stack fault (R190): all of them, or, with the first stack half rebuilt, of
those not written since it came back the ones that the rebuild had not reached, which is a free value. -/
def State.markLost (s : State) (half : Bool) : State :=
  let n := (s.rsv.dir.map (fun a => a.segs.length)).sum
  let (d, s) := s.draw n
  let mark : Nat × List AcqRec → AcqRec → Nat × List AcqRec := fun (i, out) a =>
    (i + a.segs.length, out ++ [{ a with segs := a.segs.zipIdx.map (fun (x, j) =>
      if !half || (!x.fresh && Config.freeBool (d + i + j)) then { x with st := .lost } else x) }])
  s.updRsv (fun r => { r with dir := (r.dir.foldl mark (0, [])).2 })

/-- Stripes still to rebuild (R189, R191): a rebuild writes at most 704 in a superframe of 2,560 Ts. -/
def State.rebuildNow (s : State) : Nat :=
  let r := s.rsv
  if r.rebuildRun then r.rebuildLeft - ((List.range ((s.now - r.rebuildAt) / 2560)).map (fun k => Config.rebuildPace r.rebuildKey k % 705)).sum
  else r.rebuildLeft

/-- The second stack fault (R190): of another stack, or of the first one again while it is rebuilt (R473), which leaves every block
readable from the other four. -/
def State.secondStack (s : State) (k cause : Nat) : State :=
  let s := s.log FATAL bRSV 4 k cause
  let s := (s.endGroups (fun _ => true) .fault true).1
  let left := s.rebuildNow
  let s := if s.rsv.missing == some k then s else s.markLost s.rsv.rebuildRun
  s.updRsv (fun r =>
    { r with second := some k, secondFault := true, rebuildRun := false, rebuildLeft := left, stk := upd r.stk k (fun x => { x with st := .failed }) })

/-- The rebuild of stack k begins (R188, R189). -/
def State.startRebuild (s : State) (k : Nat) : State :=
  if s.rsv.missing ≠ some k || (nth s.rsv.stk k).st ≠ .rebuilding || s.rsv.rebuildRun || s.rsv.secondFault then s
  else
    let (key, s) := s.draw 1
    s.updRsv (fun r => { r with rebuildRun := true, rebuildLeft := r.retained, rebuildAt := s.now, rebuildKey := key,
                                dir := r.dir.map (fun a => { a with segs := a.segs.map (fun x => { x with fresh := false }) }) })

/-- A stack or its domain faults (R188 to R190, R473). A stack out of service faults no more; a stack whose domain faulted is rebuilt once
the domain is on again. -/
def State.stackFault (s : State) (k cause : Nat) : State :=
  if 5 ≤ k || (nth s.rsv.stk k).st == .failed then s
  else match s.rsv.missing with
    | none =>
      let dom := domainCause cause
      let s := s.log DEGRADED bRSV 3 k cause
      (s.updStack k (fun x => { x with st := if dom then .rebuilding else .failed })).updRsv (fun r => { r with missing := some k })
    | some _ =>
      if s.rsv.secondFault then
        ((s.log FATAL bRSV 4 k cause).markLost false).updStack k (fun x => { x with st := .failed })
      else s.secondStack k cause

/-- STACK_FAILURE (R188 to R190, R475). -/
def execStackFailure (k cause : Nat) (s : State) : Res :=
  let s := s.stackFault k cause
  .next (if s.domOn (37 + k) then s.startRebuild k else s)

/-- REBUILD_DONE (R189): the rebuild ends, and Reservoir leaves degraded mode. -/
def execRebuildDone (s : State) : Res :=
  match s.rsv.missing with
  | some k =>
    if s.rsv.rebuildRun && s.domOn (37 + k) then
      .next ((s.updStack k (fun x => { x with st := .inService })).updRsv (fun r => { r with missing := none, rebuildRun := false, rebuildLeft := 0 }))
    else .next s
  | none => .next s

/-! ### Where blocks lie (R161) -/

/-- The stripe of a usable block, which is its row in every stack, and its position in the stripe. -/
def stripeOf (a : Nat) : Nat := a / 4
def stripePos (a : Nat) : Nat := a % 4
/-- The stack that holds a stripe's parity block. -/
def parityStack (stripe : Nat) : Nat := stripe % 5
/-- The stack that holds a block's data. -/
def dataStack (a : Nat) : Nat := (parityStack (stripeOf a) + 1 + stripePos a) % 5
/-- The pseudo-channel of a stripe's blocks in each stack. -/
def pseudoChannel (stripe : Nat) : Nat := stripe % 32
/-- Two blocks, byte-wise exclusive or. -/
def xorBlock (x y : List Byte) : List Byte := List.zipWith (· ^^^ ·) x y
/-- The parity block of a stripe: the exclusive or of its four data blocks. -/
def Mem.parity (m : Mem) (stripe : Nat) : List Byte :=
  ((List.range 4).map (fun j => Mem.read m (64 * (4 * stripe + j)) 64)).foldl xorBlock (zeros 64)
/-- A block rebuilt from the other four blocks of its stripe (R162, R189). -/
def Mem.rebuilt (m : Mem) (a : Nat) : List Byte :=
  (((List.range 4).filter (· ≠ stripePos a)).map (fun j => Mem.read m (64 * (4 * stripeOf a + j)) 64)).foldl xorBlock (m.parity (stripeOf a))

/-! ### Errors of stored blocks (R162, R188, R475) -/

/-- Spare rows left in a stack, of which it has at least 1,024 at shipment (R188, R497). -/
def State.sparesLeft (s : State) (k : Nat) : Nat := max 1024 (Config.spareRows k).toNat - (nth s.rsv.stk k).rowsUsed

/-- A row fault: the row is remapped to a spare row, or the stack fails for want of one (R188). -/
def State.rowFault (s : State) (k row : Nat) : State :=
  if s.sparesLeft k = 0 then s.stackFault k 1
  else
    let s := s.updStack k (fun x =>
      { x with rowsUsed := x.rowsUsed + 1, remapped := x.remapped ++ [row], rowCe := x.rowCe.filter (fun r => r.1 ≠ row) })
    s.log CORRECTED bRSV 2 k row

/-- A time lies at most n seconds back. -/
def State.within (s : State) (n t : Nat) : Bool := decide (((s.now - t : Nat) : Rat) ≤ n * s.fsQ)

/-- A block's code corrected an error (R188, R191): the fourth in one row within 24 h is a row fault. -/
def State.eccCorrected (s : State) (x : Nat × Nat) : State :=
  let k := x.2
  let row := stripeOf x.1
  let s := s.updStack k (fun y => { y with ce := satAdd 0xFFFFFFFF y.ce 1, rowCe := (row, s.now) :: y.rowCe })
  if 4 ≤ (nth s.rsv.stk k).rowCe.countP (fun r => r.1 == row && s.within 86400 r.2) then s.rowFault k row else s

/-- A block is rebuilt from its stripe and written back (R162); its row is a row fault, and 16 rows within 1 s a stack failure (R188). -/
def State.eccRebuilt (s : State) (x : Nat × Nat) : State :=
  let k := x.2
  let row := stripeOf x.1
  let s := s.updStack k (fun y => { y with ue := satAdd 0xFFFFFFFF y.ue 1, rowUe := (row, s.now) :: y.rowUe })
  let s := s.log CORRECTED bRSV 1 k x.1
  let rows := ((nth s.rsv.stk k).rowUe.filter (fun r => s.within 1 r.2)).map Prod.fst
  if 16 ≤ rows.eraseDups.length then s.stackFault k 2 else s.rowFault k row

/-- What a read meets in the stacks (R161, R162, R188): a block is met on the stack that holds it, and a corrected one also on the stack of
its stripe's parity, which a rebuilt block's read takes in. -/
def State.eccApply (s : State) (r : EccReport) : State :=
  let corrected := r.corrected.filter (fun x => x.2 = dataStack x.1 || x.2 = parityStack (stripeOf x.1))
  forEach (r.rebuilt.filter (fun x => x.2 = dataStack x.1)) (forEach corrected s State.eccCorrected) State.eccRebuilt

end Sys2Proof.Machine
end

