-- ==== Sys2Proof/Machine/Lamp.lean ====
section
/-! DEFINITION. The lamp matrix: row slots, frames, compensation, quiet windows and diagnosis (R404 to R413). -/

namespace Sys2Proof.Machine

/-! ### Fields (R414) -/

def State.lampRun (s : State) : Bool := s.regB (lampA 0) 0
/-- SYNC_MODE is EXTERNAL. -/
def State.lampExt (s : State) : Bool := s.regB (lampA 0) 1
def State.qwSync (s : State) : Bool := s.regB (lampA 0) 3
def State.diagEn (s : State) : Bool := s.regB (lampA 0) 4
def State.shortOff (s : State) : Bool := s.regB (lampA 0) 5
/-- Periods of the 50 MHz oscillator in a tick, and ticks in a guard. -/
def State.tickDiv (s : State) : Nat := s.regF (lampA 0) 15 8
def State.rowGuard (s : State) : Nat := s.regF (lampA 0) 23 16
/-- DUTY of lamp colour i = 3 n + c. -/
def State.duty (s : State) (i : Nat) : Nat := s.regF (lampDutyA (i / 3)) (8 * (i % 3) + 7) (8 * (i % 3))

/-- The on-time of a lamp colour is shorter than 2 µs, 100 periods of the oscillator (R411). -/
def State.shortOn (s : State) (i : Nat) : Bool := decide (s.duty i * s.tickDiv < 100)
/-- The lamp colour is driven by row slots (R412). -/
def State.driven (s : State) (i : Nat) : Bool := !(s.shortOff && (nth s.lamp.colour i).status == .short)
/-- It is measured in a diagnostic sub-frame (R411, R412). -/
def State.needsDiag (s : State) (i : Nat) : Bool := s.diagEn && (s.shortOn i || !s.driven i)
/-- Ticks of a diagnostic pulse. -/
def State.pulseTicks (s : State) : Nat := cdiv 100 s.tickDiv

/-! ### Statuses (R410, R412) -/

/-- The status of lamp colour i becomes x: LAMP_FAULT when it becomes OPEN or SHORT or leaves either. -/
def State.lampStatus (s : State) (i : Nat) (x : LampDiag) : State :=
  let old := (nth s.lamp.colour i).status
  let bad (y : LampDiag) : Bool := y == .opened || y == .short
  if x == old then s
  else
    let s := s.updLamp (fun l => { l with colour := upd l.colour i (fun c => { c with status := x }) })
    if bad x || bad old then
      s.event 0x41 (i / 3) none s.tb.count [0, BitVec.ofNat 8 (i % 3), BitVec.ofNat 8 x.code, BitVec.ofNat 8 old.code]
    else s

/-- A finding of lamp colour i: two consecutive findings that agree set the status. -/
def State.lampFind (s : State) (i : Nat) (f : LampDiag) : State :=
  if f == .notVerified then s
  else
    let agrees := (nth s.lamp.colour i).last == f
    let s := s.updLamp (fun l => { l with colour := upd l.colour i (fun c => { c with last := f, found := true, idle := 0 }) })
    if agrees then s.lampStatus i f else s

/-- Lamp colour i is no longer verified. -/
def State.lampForget (s : State) (i : Nat) : State :=
  (s.updLamp (fun l => { l with colour := upd l.colour i (fun c => { c with last := .notVerified }) })).lampStatus i .notVerified

/-- The end of a frame for lamp colour i: 512 frames with no finding make it NOT_VERIFIED (R410). -/
def State.lampAge (s : State) (i : Nat) : State :=
  let c := nth s.lamp.colour i
  let idle := if c.found then 0 else min 512 (c.idle + 1)
  let s := s.updLamp (fun l => { l with colour := upd l.colour i (fun c => { c with idle := idle, found := false }) })
  if idle = 512 then s.lampForget i else s

/-- With DIAG_EN 0 a lamp colour of a short on-time reads NOT_VERIFIED (R411). -/
def State.lampBlind (s : State) (i : Nat) : State := if !s.diagEn && s.shortOn i then s.lampForget i else s

/-! ### Current (R407) -/

/-- The input TC_SRC selects; none for no compensation. -/
def tcInput (src : Nat) : Option Nat := if src = 1 then some 50 else if src = 2 then some 56 else if src = 3 then some 57 else none

/-- Gain of a colour at a temperature of t tenths of a degree. -/
def State.tcGain (s : State) (colour : Nat) (t : Int) : Rat :=
  let entry (k : Nat) : Rat := (s.regF (lampA (0x40 + 8 * colour + 4 * (k / 4))) (8 * (k % 4) + 7) (8 * (k % 4)) : Nat)
  if t ≤ -400 then entry 0
  else if 1000 ≤ t then entry 7
  else
    let k := ((t + 400) / 200).toNat
    entry k + (entry (k + 1) - entry k) * (((t + 400) % 200 : Int) : Rat) / 200

/-- The gains, the stale mark and I_eff at a lamp frame boundary. -/
def State.lampCurrent (s : State) : State :=
  let (gain, stale) : List Rat × Bool :=
    match tcInput (s.regF (lampA 0) 7 6) with
    | none => ([128, 128, 128], false)
    | some i =>
      let r := nth s.buoy.res i
      if r.stale || s.fs < 10 * (s.now - r.at_) then (s.lamp.gain, true) else ((List.range 3).map (fun c => s.tcGain c r.value), false)
  s.updLamp (fun l =>
    { l with gain := gain, tcStale := stale,
             iEff := (List.range 3).map (fun c =>
               min 255 (roundAway ((s.regF (lampA 4) (8 * c + 7) (8 * c) : Nat) * gain.getD c 128 / 128)).toNat) })

/-! ### Quiet windows (R260, R409) -/

/-- What a number of ticks lasts, in Ts. -/
def State.ticksTs (s : State) (n : Nat) : Rat := (n * s.tickDiv * s.fs : Nat) / (50000000 : Rat)

/-- Quiet windows restrain the matrix; a Spring relock, from its first step on, lies outside every window. -/
def State.qwHolds (s : State) : Bool :=
  s.qwSync && !s.spr.fallback && s.spr.relock.isNone && s.tb.qwPeriod != 0 && s.tb.qwLen != 0

/-- A slot of this many ticks may begin now: it ends before the next window starts. -/
def State.slotFits (s : State) (ticks : Nat) : Bool :=
  let t := s.tb
  if !s.qwHolds then true
  else
    let o := (((t.count.toNat : Int) - (t.qwOrigin.toNat : Int)) % (t.qwPeriod : Int)).toNat
    decide (t.qwLen ≤ o) && decide (s.ticksTs ticks < (t.qwPeriod : Rat) - o)

/-- The time between windows is shorter than the longest slot. -/
def State.qwStarves (s : State) : Bool := s.qwHolds && decide ((s.tb.qwPeriod : Rat) - s.tb.qwLen < s.ticksTs (256 + 2 * s.rowGuard))

/-- Run a slot of this many ticks, or wait dark for the end of a window. -/
def State.lampSlot (s : State) (ticks : Nat) (run : State → State) : State :=
  if s.qwStarves then
    let s := s.updLamp (fun l => { l.dark with st := .qwStarved })
    if s.lamp.starved then s else (s.event 0x41 0 none s.tb.count [1]).updLamp (fun l => { l with starved := true })
  else
    let s := s.updLamp (fun l => { l with starved := false })
    if s.slotFits ticks then run s
    else if s.lamp.st == .waitQw then s
    else s.updLamp (fun l => { l.dark with st := .waitQw, qwWait := satAdd 65535 l.qwWait 1 })

/-! ### Frames and slots (R405, R406, R411) -/

/-- Lamp colours of row r, in column order. -/
def rowColours (r : Nat) : List Nat := (List.range 24).map (24 * r + ·)

/-- A lamp frame starts: with its diagnostic sub-frame, when one is due, or with row slot 0. -/
def State.lampStart (s : State) : State :=
  if s.lamp.frameNum % 256 = 0 && (List.range 384).any s.needsDiag then
    s.updLamp (fun l => { l.dark with st := .diag, diagSlot := some 0, slot := none, row := 0 })
  else s.updLamp (fun l => { l.dark with st := .rows, diagSlot := none, slot := some 0, row := 0 })

/-- Between frames: FREE starts the next frame, EXTERNAL waits for an edge, and RUN 0 stops. -/
def State.lampNext (s : State) : State :=
  let dark (st : LampSt) : State := s.updLamp (fun l => { l.dark with st := st, slot := none, diagSlot := none, row := 0 })
  if !s.lampRun then dark .stopped else if s.lampExt then dark .waitSync else s.lampStart

/-- Ticks of the present slot that have passed; none while the matrix is dark or once the slot has ended (R405). -/
def State.slotTick (s : State) : Option Rat :=
  match s.lamp.begun with
  | none => none
  | some (at_, n) =>
    let t := (s.now - at_ : Nat) / s.ticksTs 1
    if t < n then some t else none

/-- LAMP_ROW_N[r] is driven low: the present slot selects row r (R404, R405). -/
def State.rowLow (s : State) (r : Nat) : Bool := s.slotTick.isSome && s.lamp.row == r

/-- Sink c carries current: its on-time runs from the start of tick ROW_GUARD (R405). -/
def State.sinkOn (s : State) (c : Nat) : Bool :=
  match s.slotTick with
  | some t => decide ((s.rowGuard : Rat) ≤ t) && decide (t < (s.rowGuard : Rat) + (nth s.lamp.drive c : Nat))
  | none => false

/-- LAMP_ROW_SLOT (R404, R405, R408 to R410, R412): the next row slot of the frame. -/
def execLampRowSlot (findings : List Nat) (s : State) : Res :=
  match s.lamp.slot with
  | none => .next s
  | some r =>
    if 16 ≤ r || !s.domOn 47 then .next s
    else .next (s.lampSlot (256 + 2 * s.rowGuard) (fun s =>
      let is := rowColours r
      let on (i : Nat) : Nat := if s.driven i then s.duty i else 0
      let s := s.updLamp (fun l =>
        { l with st := .rows, row := r, slot := some (r + 1), begun := some (s.now, 256 + 2 * s.rowGuard), drive := is.map on,
                 current := is.map (fun i => nth l.iEff (i % 3)) })
      forEach is s (fun s i => if 100 ≤ on i * s.tickDiv then s.lampFind i (LampDiag.ofCode (findings.getD (i % 24) 0)) else s)))

/-- LAMP_DIAG_SUBFRAME (R409 to R411): the next row slot of a diagnostic sub-frame; the sixteenth ends it. -/
def execLampDiagSubframe (findings : List Nat) (s : State) : Res :=
  match s.lamp.diagSlot with
  | none => .next s
  | some r =>
    if !s.domOn 47 then .next s
    else .next (s.lampSlot (s.pulseTicks + 2 * s.rowGuard) (fun s =>
      let is := rowColours r
      let needs := is.map s.needsDiag
      let s := s.updLamp (fun l =>
        { l with st := .diag, row := r, begun := some (s.now, s.pulseTicks + 2 * s.rowGuard), drive := needs.map (fun b => if b then s.pulseTicks else 0),
                 current := is.map (fun i => max 1 ((2 * nth l.iEff (i % 3) + 8) / 16)) })
      let s := forEach is s (fun s i => if needs.getD (i % 24) false then s.lampFind i (LampDiag.ofCode (findings.getD (i % 24) 0)) else s)
      if r < 15 then s.updLamp (fun l => { l with diagSlot := some (r + 1) })
      else s.updLamp (fun l => { l with diagSlot := none, slot := some 0, diagCnt := satAdd 0xFFFFFFFF l.diagCnt 1 })))

/-- LAMP_FRAME_BOUNDARY (R35, R36, R405 to R407): the end of row slot 15, or a core-cycle edge while the matrix is stopped, as it is while
PD47 is off (R413). -/
def execLampFrameBoundary (s : State) : Res :=
  let stopped := s.lamp.st == .stopped
  if !s.domOn 47 then .next (if (nth s.units 34).pend.isEmpty then s else s.applyGen 34 0)
  else if !(stopped || s.lamp.slot == some 16) then .next s
  else
    let num := if stopped then 0 else satAdd 0xFFFFFFFF s.lamp.frameNum 1
    let s := if stopped then s else forEach (List.range 384) s State.lampAge
    let s := if (nth s.units 34).pend.isEmpty then s else s.applyGen 34 (BitVec.ofNat 64 num)
    let s := (forEach (List.range 384) s State.lampBlind).lampCurrent
    if stopped && !s.lampRun then .next s
    else .next ((s.updLamp (fun l => { l with frameNum := num })).lampNext)

/-- LAMP_SYNC_EDGE (R406): a frame starts in EXTERNAL mode; an edge that meets a frame is counted. -/
def execLampSyncEdge (s : State) : Res :=
  if !s.domOn 47 || !s.lampExt || s.lamp.st == .stopped then .next s
  else if s.lamp.st == .waitSync then .next s.lampStart
  else .next (s.updLamp (fun l => { l with syncEarly := satAdd 65535 l.syncEarly 1 }))

end Sys2Proof.Machine
end

