-- ==== Sys2Proof/Machine/Lantern.lean ====
section
/-! DEFINITION. Lantern's frame events, its DisplayPort outputs and EDID_READ (R322, R383 to R400). -/

namespace Sys2Proof.Machine

/-! ### DisplayPort outputs (R279, R398, R399) -/

/-- DPk_EN (R403). -/
def State.dpEn (s : State) (k : Nat) : Bool := s.regB (ltnA 0) (4 + k)

/-- An enabled output whose HPD has been high for 100 ms trains; one without HPD waits for it (R398). -/
def State.dpStart (s : State) (k : Nat) : State := s.dpTo k (if (nth s.ltn.dp k).hpd then .training else .waitHpd)

/-- A generation changed DPk_EN. -/
def State.dpEnable (s0 s : State) (k : Nat) : State :=
  if (nth s.ltn.dp k).failed || s0.dpEn k == s.dpEn k then s
  else if s.dpEn k then s.dpStart k
  else (s.dpTo k .off).updDp k (fun d => { d with lanes := 0, rate := 0 })

/-- DP_TRAIN (R398): HPD has been high for 100 ms. The pin is read whether or not PD46 is on. -/
def execDpTrain (k : Nat) (s : State) : Res :=
  if 2 ≤ k then .next s
  else
    let s := s.updDp k (fun d => { d with hpd := true })
    let d := nth s.ltn.dp k
    .next (if s.domOn 46 && s.dpEn k && !d.failed && d.st != .up && d.st != .training then s.dpTo k .training else s)

/-- The configurations (log2 lanes, rate) that training walks through from the widest and fastest: the rates downwards, then half the
lanes from the highest rate again (R398). -/
def trainOrder (lanes rate : Nat) : List (Nat × Nat) :=
  (List.range (lanes + 1)).reverse.flatMap (fun l => (List.range (rate + 1)).reverse.map (fun r => (l, r)))

/-- The walk that training takes with a sink of these lanes and this rate: the first configuration, and those that carry the pixel rate. -/
def State.trainWalk (s : State) (lanes rate : Nat) : List (Nat × Nat) :=
  trainOrder (min lanes (s.regF (ltnA 0) 7 6)) (min rate (s.regF (ltnA 0) 9 8))

/-- DP_TRAIN_END (R398): the first configuration that trains; NO_BW when the first of all is too small, LOST when all fail. -/
def execDpTrainEnd (k : Nat) (sink : DpSink) (tries : List Bool) (s : State) : Res :=
  if (nth s.ltn.dp k).st ≠ .training || !s.domOn 46 then .next s
  else
    let walk := s.trainWalk sink.lanes sink.rate
    let fits := walk.filter (fun c => s.linkFits c.1 c.2)
    if !walk.head?.any (fun c => s.linkFits c.1 c.2) then .next (s.dpTo k .noBw)
    else match (fits.zip tries).find? Prod.snd with
      | some (c, _) => .next ((s.updDp k (fun d => { d with lanes := c.1, rate := c.2 })).dpTo k .up)
      | none => .next (s.dpTo k .lost)

/-- HPD_LOW (R399): HPD has been low for more than 2 ms. The pin is read whether or not PD46 is on. -/
def execHpdLow (k : Nat) (s : State) : Res :=
  let s := s.updDp k (fun d => { d with hpd := false })
  if !s.domOn 46 then .next s
  else
    match (nth s.ltn.dp k).st with
    | .up => .next (s.dpTo k .lost)
    | .training | .noBw => .next (s.dpTo k .waitHpd)
    | _ => .next s

/-- HPD_IRQ (R398): the sink reports lost lock; the output retrains. -/
def execHpdIrq (k : Nat) (s : State) : Res := .next (if s.domOn 46 && (nth s.ltn.dp k).st == .up then s.dpTo k .training else s)

/-- DP_RETRY (R398): a LOST output retries every 1 s while HPD stays high. -/
def execDpRetry (k : Nat) (s : State) : Res :=
  let d := nth s.ltn.dp k
  .next (if s.domOn 46 && d.st == .lost && d.hpd && s.dpEn k then s.dpTo k .training else s)

/-- DP_SELF_TEST (R399, R475): at power-up of PD46, or after a LOST state of 10 s. -/
def execDpSelfTest (k : Nat) (pass : Bool) (result : Nat) (s : State) : Res :=
  let d := nth s.ltn.dp k
  if 2 ≤ k || !s.domOn 46 || d.failed || d.st == .up || d.st == .training || pass then .next s
  else
    let other := (nth s.ltn.dp (1 - k)).failed
    let s := if other then s.log FATAL bLTN 2 k result else s.log DEGRADED bLTN 1 k result
    .next ((s.updDp k (fun d => { d with failed := true })).dpTo k .failed)

/-- RESULT of EDID_READ (R322). -/
def edidResult (bytes ext fail : Nat) : List Byte := leBytes 4 bytes ++ leBytes 1 ext ++ leBytes 1 fail

/-- EDID_READ (R299, R322). -/
def execEdidRead (q : Nat) (aux : Option (List Byte)) (writeOk : Bool) (s : State) : Res :=
  runCmd s q 0x4A [(16, 1), (17, 1), (48, 16)]
    (fun p => pktIndex p ≤ 1 && 1 ≤ rd p 17 1 && rd p 17 1 ≤ 4 && bulkOk p && (bulkLen p == 0 || 128 * rd p 17 1 ≤ bulkLen p))
    (fun s e =>
      let n := 128 * rd e.pkt 17 1
      if !s.domOn 46 then refuse s STATE
      else if !(nth s.ltn.dp (pktIndex e.pkt)).hpd then .done s STATE (edidResult 0 0 1)
      else match aux with
        | none => .done s STATE (edidResult 0 0 2)
        | some bs =>
          let bs := padTo n bs
          let ext := if rd e.pkt 16 1 = 0 then rd bs 126 1 else 0
          if bulkLen e.pkt = 0 then .done s OK (edidResult 0 ext 0)
          else withReport s e writeOk bs (fun s => .done s OK (edidResult n ext 0)))

/-! ### Generations of unit 33 (R386, R387, R392, R393) -/

/-- The generation changes a field outside DP0_EN, DP1_EN, MAX_LANES, MAX_RATE and WATERMARK (R393). -/
def drawnChange (s0 : State) (regs : List (Nat × Word)) : Bool :=
  regs.any (fun (a, v) => if a = ltnA 0 then fld v.toNat 3 0 ≠ fld (s0.reg a) 3 0 else v.toNat ≠ s0.reg a)

/-- It changes a timing field or PIX_KHZ (R387). -/
def timingChange (s0 : State) (regs : List (Nat × Word)) : Bool :=
  regs.any (fun (a, v) => ltnA 4 ≤ a && a ≤ ltnA 0x14 && v.toNat ≠ s0.reg a)

/-- Scan-out starts or ends with the generation (R383, R393). -/
def State.scanChange (s : State) : State :=
  let en := s.regB (ltnA 0) 0
  if en == s.ltn.scanning then s
  else if en then
    let auto := s.scanSrc = 0
    s.updLtn (fun l =>
      { l with scanning := true, frameNum := 0, line := 0, vblank := false, short := [], blankNext := false, needPass := l.needPass || auto, blank := auto && s.rasterEn,
               shownBuf := if auto then l.shownBuf else s.scanSrc - 1, shownGen := l.bufGen.getD (if auto then l.shownBuf else s.scanSrc - 1) 0 })
  else s.updLtn (fun l => { l with scanning := false, line := 0, vblank := false, blank := false, blankNext := false, urgent := false })

/-- The pass a generation begins (R392, R393). -/
def State.genPass (s : State) (drawn : Bool) : State :=
  if !s.rasterEn || !(drawn || s.scanSrc ≠ 0) then s
  else if s.ltn.passRun then s.updLtn (fun l => { l with owed := true })
  else s.startPass s.drawBuf

/-- A frame boundary: the oldest pending generation applies (R36, R386, R387, R393). -/
def State.frameGen (s0 : State) : State :=
  if (nth s0.units 33).pend.isEmpty then s0
  else
    let regs := s0.nextRegs 33
    let s1 := s0.putRegs regs
    let starts := s1.regB (ltnA 0) 0 && !s0.ltn.scanning
    let drawn := drawnChange s0 regs
    let moved := s1.scanSrc == 0 && s1.fbBase s0.ltn.shownBuf != s0.fbBase s0.ltn.shownBuf
    let s := s0.applyGen 33 (if s0.ltn.scanning && !starts then BitVec.ofNat 64 (s0.ltn.frameNum + 1) else 0)
    let s := if drawn then s.updLtn (fun l =>
        { l with passDiscard := satAdd 65535 l.passDiscard (b2n l.passRun + b2n (l.passReady || l.passHeld)), passRun := false, passReady := false,
                 passHeld := false, owed := false })
      else s
    let s := s.updLtn (fun l => { l with needPass := l.needPass || moved, blankNext := l.blankNext || (l.scanning && timingChange s0 regs) })
    let s := s.scanChange.genPass drawn
    let s := forEach [0, 1] s (fun s k => s0.dpEnable s k)
    -- A running scan-out retrains its links at the next line 0; with none, before frame 0, no blank frame is awaited (R387, R398).
    if s0.ltn.scanning && s.ltn.scanning then s else forEach [0, 1] s State.dpRefit

/-- FRAME_BOUNDARY (R35, R36, R385 to R387, R393): the start of line V_ACTIVE, or a core-cycle edge while scan-out is stopped, as it is
while PD46 is off (R401). None falls between the gate and the release of a relock (R400). -/
def execFrameBoundary (s : State) : Res :=
  if s.spr.relock == some .gated then .next s
  else if !s.ltn.scanning then .next s.frameGen
  else if s.ltn.stopped || s.ltn.vblank then .next s
  else
    let s := (s.updLtn (fun l => { l with vblank := true, line := s.vActive, vLines := s.vBlank })).raiseGlb 2
    .next s.frameGen

/-- LINE0_FLIP (R383, R387, R392): line 0 of the next frame. -/
def execLine0Flip (s : State) : Res :=
  if !s.domOn 46 || !s.ltn.scanning || s.ltn.stopped || !s.ltn.vblank then .next s
  else .next s.newFrame

/-- RASTER_PASS_DONE (R388 to R393). -/
def execRasterPassDone (s : State) : Res :=
  if !s.domOn 46 || !s.ltn.passRun || s.spr.fallback then .next s
  else
    let l := s.ltn
    let skips := (List.range 16).countP (fun t => (s.trace t).en && s.traceSkips (s.trace t))
    let s := s.putBytes (s.fbBase l.passBuf) s.raster
    let s := s.updLtn (fun l =>
      { l with passRun := false, passReady := s.scanSrc = 0, passHeld := s.scanSrc ≠ 0, needPass := false, passCnt := satAdd 0xFFFFFFFF l.passCnt 1,
               traceSkip := satAdd 65535 l.traceSkip skips, bufGen := l.bufGen.set l.passBuf l.passGen, owed := false })
    .next (if l.owed && s.scanSrc ≠ 0 && s.rasterEn then s.startPass s.drawBuf else s)

/-! ### The line buffer (R395, R396) -/

/-- Active lines are scanned out. -/
def State.fetching (s : State) : Bool := s.domOn 46 && s.ltn.scanning && !s.ltn.stopped && !s.ltn.vblank && !s.ltn.blank

/-- Active lines of the present frame after the last one that ran empty. -/
def State.unscanned (s : State) : List Nat := allBelow s.vActive (fun y => s.ltn.short.all (fun r => r.1 < y))

/-- LINE_UNDERRUN (R396): the rest of a line is BORDER_RGB, counted once for the line. Which line is due, and from which pixel on it is
empty, is a free value: the model has no scan position within a frame (notes/assumptions/105.md). -/
def execLineUnderrun (s : State) : Res :=
  let ls := s.unscanned
  if !s.fetching || ls.isEmpty then .next s
  else
    let (k, s) := s.draw 2
    let short := (ls.getD (Config.freeNat k % ls.length) 0, Config.freeNat (k + 1) % s.hActive)
    .next (s.updLtn (fun l => { l with short := l.short ++ [short], underrunCnt := satAdd 0xFFFFFFFF l.underrunCnt 1 }))

/-- FETCH_URGENT (R395): the level falls below WATERMARK, or reaches it again. -/
def execFetchUrgent (enter : Bool) (s : State) : Res :=
  if !enter then .next (s.updLtn (fun l => { l with urgent := false }))
  else if s.fetching && !s.ltn.urgent && s.regF (ltnA 0) 16 10 ≠ 0 then
    .next (s.updLtn (fun l => { l with urgent := true, urgentCnt := satAdd 65535 l.urgentCnt 1 }))
  else .next s

end Sys2Proof.Machine
end

