-- ==== Sys2Proof/Machine/Dma.lean ====
section
/-! DEFINITION. The DMA engine: channel control, instructions, bursts and arbitration, responses and halts (R331 to R354, R499). -/

namespace Sys2Proof.Machine

/-! ### Spaces and instructions (R333, R334) -/

/-- The space of a code (R333). -/
def spaceOf (n : Nat) : DSpace := if n = 0 then .host else if n = 1 then .rsv else .pond
/-- Bytes of a space. -/
def DSpace.size : DSpace → Nat
  | .host => 2 ^ 64 | .rsv => 103079215104 | .pond => 67108864

/-- The first byte of a range outside what its space allows; none when all of it is allowed (R333). -/
def DSpace.badAt (sp : DSpace) (write : Bool) (a n : Nat) : Option Nat :=
  if write && sp == .rsv then
    (if a < 0x1A0000000 || 0x1A4000000 ≤ a then some a else if 0x1A4000000 < a + n then some 0x1A4000000 else none)
  else if sp.size ≤ a then some a
  else if sp.size < a + n then some sp.size
  else none

/-- An instruction's fields (R334). -/
structure DmaIns where
  op : Nat := 0
  a : Nat := 0
  b : Nat := 0
  c : Nat := 0
  d : Nat := 0
  e : Nat := 0
  deriving DecidableEq, Repr, Inhabited

def DmaIns.of (bs : List Byte) : DmaIns :=
  { op := rd bs 0 1, a := rd bs 1 1, b := rd bs 2 1, c := rd bs 3 1, d := rd bs 4 4, e := rd bs 8 8 }

/-- No reserved opcode, bit or code (R334); SHL's range is R343's. -/
def DmaIns.ok (i : DmaIns) : Bool :=
  if i.op = 1 then
    i.a < 64 && fld i.a 1 0 ≠ 3 && fld i.a 3 2 ≤ 1 && i.b < 64 && i.c < 16 && i.e = 0 && (if bit i.c 0 then i.d = 0 else 1 ≤ i.d)
  else if i.op = 2 then i.a < 4 && i.b = 0 && i.c = 0 && i.e < 2 ^ 32
  else if i.op = 3 then
    i.e = 0 && (if i.a = 0 then i.b < 64 && i.c ≤ 31 else if i.a = 1 then i.b = 0 && i.c = 0 && i.d = 0
      else i.a = 2 && i.b < 8 && i.c = 0 && i.d = 0)
  else if i.op = 4 then
    i.e = 0 && (if i.a = 2 then i.b < 64 && i.c ≤ 31 && 1 ≤ i.d && i.d ≤ 16777216 else i.a ≤ 1 && i.b = 0 && i.c = 0 && i.d = 0)
  else if i.op = 5 then
    i.d = 0 && i.b < 64 && (if i.a = 2 then i.c ≤ 2 else i.a ≤ 3 && i.c = 0)
  else if i.op = 6 then i.a ≤ 1 && i.b = 0 && i.c = 0 && i.d = 0 && i.e = 0
  else i.op = 7 && i.a = 0 && i.b = 0 && i.c = 0 && i.d = 0 && i.e = 0

/-! ### Channels -/

/-- A channel runs (R331). -/
def DmaCh.runs (x : DmaCh) : Bool := !(x.st == .idle || x.st == .done || x.st == .halted)
/-- It executes instructions and issues bursts. -/
def DmaCh.live (x : DmaCh) : Bool := (x.st == .running || x.st == .waiting) && !x.halting
/-- The requests whose responses are still due, and whether each is a read of host memory. -/
def DmaCh.outstanding (x : DmaCh) : List (DmaReq × Bool) :=
  x.drain ++ x.fetches.map (fun f => (.fetch f.1, x.progSpace == 0)) ++
    (if x.loadSent then [(.load, (x.load.map (fun l => l.2.1)) == some .host)] else []) ++ (if x.flushSent then [(.flush, true)] else []) ++
    (x.moves.mapIdx (fun k m => List.replicate m.bursts.length (.move k, m.srcSp == .host) ++ List.replicate m.writes.length (.write k, false))).flatten
/-- Responses still due (RESP_LEFT). -/
def DmaCh.respLeft (x : DmaCh) : Nat := x.outstanding.length
/-- Outstanding reads of host memory (R347). -/
def DmaCh.hostReads (x : DmaCh) : Nat := x.outstanding.countP Prod.snd
/-- MOVE_LEFT (R336): bytes not yet issued of the oldest MOVE that has any. -/
def DmaCh.moveLeft (x : DmaCh) : Nat := match x.moves.find? (fun m => m.issued < m.len) with | some m => m.len - m.issued | none => 0
/-- The address of instruction i. -/
def DmaCh.insAddr (x : DmaCh) (i : Nat) : Nat := x.progBase.toNat + 16 * i
def DmaCh.g64 (x : DmaCh) (k : Nat) : Nat := (x.g.getD k 0).toNat

/-- Set bit b of a channel's IRQ_STAT (R348). -/
def State.dmaIrq (s : State) (c b : Nat) : State :=
  let x := nth s.dma.ch c
  if bit x.irqStat b then s
  else
    let s := s.updDma c (fun x => { x with irqStat := x.irqStat ||| 2 ^ b })
    if bit x.irqMask b then s.signal (12 + c) else s

/-- A halted channel that has no response due enters HALTED; a paused one enters PAUSED (R349, R352). -/
def DmaCh.settle (x : DmaCh) : DmaCh :=
  if x.respLeft ≠ 0 then x
  else if x.halting then { x with st := .halted, enable := false, halting := false, load := none, flush := false }
  else if x.pause && (x.st == .running || x.st == .waiting) then { x with st := .paused, wasWaiting := x.st == .waiting }
  else x

/-- An error on instruction `idx` (R349): the first stops the channel and is logged; a later one of a lower index replaces its values. -/
def State.dmaHalt (s : State) (c code dir idx addr : Nat) : State :=
  let x := nth s.dma.ch c
  let latch (x : DmaCh) : DmaCh := { x with failCode := code, failDir := dir, failIndex := idx, failAddr := BitVec.ofNat 64 addr }
  if x.halting then (if idx < x.failIndex then s.updDma c latch else s)
  else if !x.live then s
  else
    let s := s.updDma c (fun x => { latch x with halting := true, pre := [] })
    (s.dmaIrq c 3).log CONTAINED bDMA code c addr

/-! ### What Reservoir and Pond answer -/

/-- Bytes of Pond as a reader sees them: a slice in ACCUM or ENVELOPE, or that holds what these left, gives free values (R193, R204). -/
def State.pondByte (s : State) (k a : Nat) : Byte :=
  let n := a / 0x80000
  let m := s.pondMode (n - n % 2 ^ s.gang (n / 4))
  if m = 1 || m = 2 || (nth s.pond.ch n).stacked then Config.freeByte k else Mem.get s.pond.mem a

def State.pondRead (s : State) (a n : Nat) : List Byte × State :=
  ((List.range n).map (fun i => s.pondByte (s.freeCtr + i) (a + i)), (s.draw n).2)

/-- Bytes a read of a space returns; `host` are those host memory gave. -/
def State.spaceRead (s : State) (sp : DSpace) (a n : Nat) (host : List Byte) : List Byte × State :=
  match sp with
  | .host => (padTo n host, s)
  | .rsv => s.rsvRead a n
  | .pond => s.pondRead a n

/-- Why a burst of a space cannot issue: none when it can, some false when it waits, some true when it halts the channel (R353, R354). -/
def State.spaceBlock (s : State) (sp : DSpace) : Option Bool :=
  match sp with
  | .host => if s.busOk then none else some false
  | .rsv =>
    if s.spr.fallback then some false
    else if s.selfRefresh || !([37, 38, 39, 40, 41] : List Nat).any s.domOn then some true
    else none
  | .pond => if s.spr.fallback then some false else if !s.domOn 36 then some true else none

/-! ### Issuing bursts (R332, R337, R338, R346, R347) -/

/-- Outstanding non-posted requests the host's enables allow (R359). -/
def PciCfg.tags (c : PciCfg) : Nat := if c.tag10 then 512 else if c.extTag then 256 else 32

/-- Opcodes with an input table (R299). -/
def tableOps : List Nat := [0x08, 0x19, 0x1A, 0x1B, 0x2B, 0x38, 0x48, 0x50, 0x51, 0x58, 0x68, 0x6A]

/-- The command processor reads entries of queue q from host memory (R269). -/
def State.readsQueue (s : State) (q : Nat) : Bool := decide (q < 8) && s.cp.st == .running && s.mayAccept q

/-- The oldest command of queue q reads its table from host memory (R299). -/
def State.readsTable (s : State) (q : Nat) : Bool :=
  match s.cp.current q with
  | some e => tableOps.contains (opcode e.pkt) && bulkLen e.pkt != 0 && s.ready q e
  | none => false

/-- The tags the DMA engine may use: the command processor's reads take free ones first (R347, R359). -/
def State.dmaTags (s : State) : Nat := s.pcie.cfg.tags - ((List.range 8).countP s.readsQueue + (List.range 8).countP s.readsTable)

/-- Outstanding reads of all channels (R347). -/
def Dma.readsOut (d : Dma) : Nat := (d.ch.map DmaCh.hostReads).sum

/-- What a channel would do with its next grant. -/
inductive Grant where
  | fetch (i : Nat)
  | load
  | flush
  /-- A read burst of MOVE k: offset and length. -/
  | burst (k off len : Nat)
  /-- A write burst of MOVE k: offset and length. -/
  | write (k off len : Nat)
  | halt (code dir idx addr : Nat)
  deriving DecidableEq, Repr, Inhabited

/-- Bytes from a to the next multiple of m. -/
def toNext (m a : Nat) : Nat := m - a % m

/-- The host-to-host MOVE's destination starts above the source and within its range (R338). -/
def DmaMove.laps (m : DmaMove) : Bool := m.srcSp == .host && m.dstSp == .host && m.src < m.dst && m.dst < m.src + m.len

/-- The next read burst of a MOVE (R337, R338): offset and length; length 0 when it must wait for writes. -/
def DmaMove.next (m : DmaMove) (mrrs : Nat) : Nat × Nat :=
  let left := m.len - m.issued
  if m.desc then
    let end_ := m.src + left
    let n := min left (if end_ % 64 = 0 then 64 else end_ % 64)
    (left - n, n)
  else
    let a := m.src + m.issued
    let n := min left (if m.srcSp == .host then min (toNext mrrs a) (toNext 4096 a) else toNext 64 a)
    (m.issued, if m.laps then min n (m.dst + m.done - a) else n)

/-- The next write burst of a MOVE (R337, R338): offset and length; none while the bytes at hand make no whole burst and more are to come.
Host writes are cut at every multiple of MPS, Reservoir writes at every block. -/
def DmaMove.nextWrite (m : DmaMove) (mps : Nat) : Option (Nat × Nat) :=
  let a := m.dst + m.done
  let end_ := m.dst + (m.len - m.done)
  let k := if m.desc then (if end_ % 64 = 0 then 64 else end_ % 64) else toNext (if m.dstSp == .host then mps else 64) a
  let n := min k m.buf.length
  if m.buf.isEmpty || (m.buf.length < k && !(m.laps || m.done + m.buf.length == m.len)) then none
  else some (if m.desc then m.len - m.done - n else m.done, n)

/-- The instruction the channel should fetch next, of the one it executes and the eight after it (R332). -/
def DmaCh.toFetch (x : DmaCh) : Option Nat :=
  if x.flush then none
  else ((List.range 9).map (x.pc + ·)).find? (fun i => x.pre.all (fun p => p.index ≠ i) && x.fetches.all (fun f => f ≠ (i, true)))

/-- The channel's next request: none when it has nothing ready. -/
def State.dmaNext (s : State) (c : Nat) : Option Grant :=
  let x := nth s.dma.ch c
  if !x.live || x.pause then none
  else
    let full := decide (512 ≤ x.respLeft)
    let hostFull := x.maxRd ≤ x.hostReads || s.dmaTags ≤ s.dma.readsOut
    let go (sp : DSpace) (g : Grant) : Option Grant := if full || (sp == .host && hostFull) then none else some g
    let psp : DSpace := if x.progSpace = 0 then .host else .rsv
    let fetch : Option Grant :=
      match x.toFetch with
      | none => none
      | some i =>
        let a := x.insAddr i
        if psp.size < a + 16 then (if i = x.pc then some (.halt 2 0 i a) else none)
        else match s.spaceBlock psp with
          | none => go psp (.fetch i)
          | some true => if i = x.pc then some (.halt 7 0 i a) else none
          | some false => none
    let load : Option Grant :=
      match x.load with
      | some (_, sp, a) =>
        if x.loadSent then none
        else match s.spaceBlock sp with
          | none => go sp .load
          | some true => some (.halt 7 0 x.pc a)
          | some false => none
      | none => none
    let flush : Option Grant := if x.flush && !x.flushSent && (s.spaceBlock .host).isNone then go .host .flush else none
    let move : Option Grant :=
      match x.moves.findIdx? (fun m => m.issued < m.len) with
      | none => none
      | some k =>
        let m := nth x.moves k
        let (off, n) := m.next s.pcie.cfg.mrrs
        match s.spaceBlock m.srcSp, s.spaceBlock m.dstSp with
        | none, none => if n = 0 then none else go m.srcSp (.burst k off n)
        | some true, _ => some (.halt 7 0 m.index (m.src + off))
        | _, some true => some (.halt 7 1 m.index (m.dst + off))
        | _, _ => none
    let write : Option Grant :=
      x.moves.zipIdx.findSome? (fun (m, k) =>
        match m.nextWrite s.pcie.cfg.mps with
        | none => none
        | some (off, n) =>
          match s.spaceBlock m.dstSp with
          | none => if m.dstSp == .rsv && full then none else some (.write k off n)
          | some true => some (.halt 7 1 m.index (m.dst + off))
          | some false => none)
    fetch <|> load <|> flush <|> write <|> move

/-- A write burst of MOVE k issues (R335 to R337): a posted host write, or a block's part of a stripe, whose response is due. -/
def State.writeBurst (s : State) (c k off n : Nat) : State :=
  let m := nth (nth s.dma.ch c).moves k
  let bs := if m.desc then m.buf.drop (m.buf.length - n) else m.buf.take n
  let rest := if m.desc then m.buf.take (m.buf.length - n) else m.buf.drop n
  let s := if m.dstSp == .host then (s.hostWrite (m.dst + off) bs).updDma c (fun x => { x with lastHostWr := some (m.dst + off + n - 1) })
    else s.putBytes (m.dst + off) bs
  s.updDma c (fun x =>
    { x with bytes := x.bytes + BitVec.ofNat 64 n,
             moves := upd x.moves k (fun m =>
               { m with done := m.done + n, buf := rest, writes := if m.dstSp == .host then m.writes else m.writes ++ [(off, n)] }) })

/-- A grant reads host memory. -/
def DmaCh.readsHost (x : DmaCh) : Grant → Bool
  | .fetch _ => x.progSpace == 0
  | .load => (x.load.map (fun l => l.2.1)) == some .host
  | .flush => true
  | .burst k _ _ => (nth x.moves k).srcSp == .host
  | .write _ _ _ | .halt _ _ _ _ => false

/-- Carry out a grant. -/
def State.dmaGrant (s : State) (c : Nat) (g : Grant) : State :=
  let s := if (nth s.dma.ch c).readsHost g then s.tlp else s
  match g with
  | .fetch i => s.updDma c (fun x => { x with fetches := x.fetches ++ [(i, true)] })
  | .load => s.updDma c (fun x => { x with loadSent := true })
  | .flush => s.updDma c (fun x => { x with flushSent := true })
  | .burst k off n => s.updDma c (fun x => { x with moves := upd x.moves k (fun m => { m with issued := m.issued + n, bursts := m.bursts ++ [(off, n)] }) })
  | .write k off n => s.writeBurst c k off n
  | .halt code dir idx addr => s.dmaHalt c code dir idx addr

/-- The channel the arbiter grants among those ready (R346). -/
def Dma.pick (d : Dma) (ready : List Nat) : Option Nat :=
  match ready.find? (fun c => 256 ≤ (nth d.ch c).passed) with
  | some c => some c
  | none =>
    let p := ready.foldl (fun m c => max m (nth d.ch c).prio) 0
    ((List.range 32).map (fun k => (d.lastGrant.getD p 31 + 1 + k) % 32)).find? (fun c => ready.contains c && (nth d.ch c).prio == p)

/-- Count a grant to channel c among those ready (R346). -/
def Dma.count (d : Dma) (ready : List Nat) (c : Nat) : Dma :=
  { d with lastGrant := d.lastGrant.set (nth d.ch c).prio c,
           ch := d.ch.mapIdx (fun k x => if k = c then { x with passed := 0 } else if ready.contains k then { x with passed := x.passed + 1 } else x) }

/-- Grant until no channel has a burst ready (R346, R499). -/
def State.dmaGrants : Nat → State → State
  | 0, s => s
  | n + 1, s =>
    let ready := allBelow 32 (fun c => (s.dmaNext c).isSome)
    match s.dma.pick ready with
    | none => s
    | some c =>
      match s.dmaNext c with
      | none => s
      | some g => ({ s with dma := s.dma.count ready c }.dmaGrant c g).dmaGrants n

/-- Every burst of the MOVE has issued, and every response to them has arrived (R336). -/
def DmaMove.complete (m : DmaMove) : Bool := m.len ≤ m.done && m.writes.isEmpty

/-- MOVEs that are complete leave the channel (R336, R342). -/
def DmaCh.finishMoves (x : DmaCh) : DmaCh :=
  { x with moves := x.moves.filter (fun m => !m.complete), movedOk := x.movedOk || x.moves.any (fun m => m.complete && m.len != 0) }

/-- The prefetched instruction at PC could not be fetched: FETCH (R349). -/
def State.fetchFailed (s : State) (c : Nat) : State :=
  let x := nth s.dma.ch c
  if x.live && !x.pause && x.pre.any (fun p => p.index == x.pc && p.bytes.isNone) then s.dmaHalt c 2 0 x.pc (x.insAddr x.pc) else s

/-- The engine runs on after a change. -/
def State.dmaPump (s : State) : State :=
  if !s.domOn 45 then s
  else
    let finish (s : State) : State := { s with dma := { s.dma with ch := s.dma.ch.map DmaCh.finishMoves } }
    let s := forEach (List.range 32) (finish s) State.fetchFailed
    let s := finish (s.dmaGrants 2000000)
    { s with dma := { s.dma with ch := s.dma.ch.map DmaCh.settle } }

/-! ### Channel control (R331, R332, R340, R348, R351, R352, R356) -/

/-- Start a channel (R331); prefetch responses that its last program left due are still discarded as they come. -/
def DmaCh.start (x : DmaCh) : DmaCh :=
  { x with st := .running, enable := true, pc := 0, g := List.replicate 8 0, lc := List.replicate 4 {}, credit := 0, failCode := 0, failDir := 0,
           failIndex := 0, failAddr := 0, bytes := 0, halfCnt := 0, fullCnt := 0, relCnt := 0, moves := [], load := none, loadSent := false, flush := false,
           flushSent := false, pre := [], fetches := [], movedOk := false, lastHostWr := none, halting := false, held := false, undef := false,
           wasWaiting := false, waitKind := 0, passed := 0 }

/-- Disable a channel (R351). -/
def DmaCh.stop (x : DmaCh) : DmaCh :=
  if !x.runs then { x with enable := false }
  else if x.st == .stopping then { x with enable := false, held := false }
  else
    let due := x.outstanding
    { x with enable := false, st := if due.isEmpty then .idle else .stopping, drain := due, moves := [], load := none, loadSent := false, flush := false,
             flushSent := false, pre := [], fetches := [], halting := false, undef := true }

/-- A write of DMA_CTL (R331, R332, R351, R352, R356). -/
def DmaCh.ctl (x : DmaCh) (v : Nat) : DmaCh :=
  let x := { x with prio := fld v 3 2, pause := bit v 1, progSpace := if x.runs then x.progSpace else fld v 4 4 }
  let x := if x.st == .paused && !x.pause then { x with st := if x.wasWaiting then .waiting else .running } else x
  if bit v 0 then
    (if x.st == .stopping then { x with held := true } else if x.runs then x else x.start)
  else x.stop

/-- A write of DMA_CTL; with PD45 off it is discarded (R431). -/
def State.dmaCtl (s : State) (c : Nat) (v : Word) : State :=
  if s.domOn 45 && c < 32 then (s.updDma c (fun x => x.ctl v.toNat)).dmaPump else s

/-- DMA_ENABLE (R331): a write of DMA_CTL with ENABLE 1. -/
def execDmaEnable (c : Nat) (v : Word) (s : State) : Res := .next (s.tlp.dmaCtl c (v ||| 1))
/-- DMA_DISABLE (R351): a write of DMA_CTL with ENABLE 0. -/
def execDmaDisable (c : Nat) (v : Word) (s : State) : Res := .next (s.tlp.dmaCtl c (v &&& ~~~1))
/-- DMA_PAUSE (R352): a write of DMA_CTL with PAUSE 1. -/
def execDmaPause (c : Nat) (v : Word) (s : State) : Res := .next (s.tlp.dmaCtl c (v ||| 2))
/-- DMA_UNPAUSE (R352): a write of DMA_CTL with PAUSE 0. -/
def execDmaUnpause (c : Nat) (v : Word) (s : State) : Res := .next (s.tlp.dmaCtl c (v &&& ~~~2))

/-- A STOPPING channel whose responses are in or timed out: IDLE, or started again (R331, R355). -/
def DmaCh.stopped (x : DmaCh) : DmaCh :=
  let y : DmaCh := if x.rst then {} else { x with st := .idle, drain := [] }
  if x.held then y.start else y

/-- DMA_STOPPING_END (R331, R351): the responses due have come or timed out; the channel is IDLE, or starts again. -/
def execDmaStoppingEnd (c : Nat) (s : State) : Res :=
  if (nth s.dma.ch c).st ≠ .stopping then .next s
  else .next ((s.updDma c DmaCh.stopped).dmaPump)

/-- CREDIT_ADD (R340, R356). -/
def execCreditAdd (c : Nat) (v : Word) (s : State) : Res :=
  .next (if s.domOn 45 then s.tlp.updDma c (fun x => { x with credit := satAdd 65535 x.credit (fld v.toNat 15 0) }) else s.tlp)

/-! ### Executing instructions -/

/-- Go on at instruction i: prefetched instructions out of reach are discarded (R332). -/
def DmaCh.goTo (x : DmaCh) (i : Nat) : DmaCh :=
  let i := i % 2 ^ 32
  let near (j : Nat) : Bool := i ≤ j && j ≤ i + 8
  { x with pc := i, st := .running, pre := x.pre.filter (fun p => near p.index), fetches := x.fetches.map (fun f => (f.1, f.2 && near f.1)) }

/-- The instruction at PC, where the channel may decode it. -/
def State.dmaIns (s : State) (c : Nat) : Option DmaIns :=
  let x := nth s.dma.ch c
  if 32 ≤ c || !s.domOn 45 || !x.live || x.pause || x.load.isSome || x.flush then none
  else (x.pre.find? (fun p => p.index == x.pc)).bind (fun p => p.bytes.map DmaIns.of)

/-- Run `f` on the instruction at PC if it is valid and `p` names it; otherwise nothing changes. -/
def dmaRow (s : State) (c : Nat) (p : DmaIns → Bool) (f : State → DmaCh → DmaIns → State) : Res :=
  match s.dmaIns c with
  | some i => if i.ok && p i then .next ((f s (nth s.dma.ch c) i).dmaPump) else .next s
  | none => .next s

/-- The channel waits (R331, R356). -/
def State.dmaHold (s : State) (c kind : Nat) : State := s.updDma c (fun x => { x with st := .waiting, waitKind := kind })
/-- The channel goes on at instruction i. -/
def State.dmaGo (s : State) (c i : Nat) : State := s.updDma c (fun x => x.goTo i)

/-- DMA_MOVE (R333, R335 to R338). -/
def execDmaMove (c : Nat) (s : State) : Res :=
  dmaRow s c (fun i => i.op = 1) (fun s x i =>
    let sr := fld i.b 2 0
    let dr := fld i.b 5 3
    let len := if bit i.c 0 then x.g64 (fld i.c 3 1) % 2 ^ 32 else i.d
    let src := x.g64 sr
    let dst := x.g64 dr
    let ss := spaceOf (fld i.a 1 0)
    let ds := spaceOf (fld i.a 3 2)
    let inc (on : Bool) (k : Nat) (g : List (BitVec 64)) := if on then g.set k (g.getD k 0 + BitVec.ofNat 64 len) else g
    let s := s.updDma c (fun x => { x with g := inc (bit i.a 5) dr (inc (bit i.a 4) sr x.g) })
    if len = 0 then s.dmaGo c (x.pc + 1)
    else match ss.badAt false src len, ds.badAt true dst len with
      | some a, _ => s.dmaHalt c 3 0 x.pc a
      | none, some a => s.dmaHalt c 3 1 x.pc a
      | none, none =>
        let m : DmaMove := { index := x.pc, srcSp := ss, dstSp := ds, src := src, dst := dst, len := len,
                             desc := ss == .rsv && ds == .rsv && src < dst && dst < src + len }
        (s.updDma c (fun x => { x with moves := x.moves ++ [m] })).dmaGo c (x.pc + 1))

/-- DMA_LOOP (R339). -/
def execDmaLoop (c : Nat) (s : State) : Res :=
  dmaRow s c (fun i => i.op = 2) (fun s x i =>
    let l := nth x.lc i.a
    if i.e = 0 then s.dmaGo c i.d
    else if l.active && l.owner ≠ x.pc then s.dmaHalt c 1 0 x.pc (x.insAddr x.pc)
    else
      let left := (if l.active then l.left else i.e) - 1
      let s := s.updDma c (fun x => { x with lc := x.lc.set i.a (if left = 0 then {} else { active := true, left := left, owner := x.pc }) })
      s.dmaGo c (if left = 0 then x.pc + 1 else i.d))

/-- WAIT SEG's condition for an acquisition that has ended (R340). -/
def State.segPast (s : State) (g acq num : Nat) (lies : List (Nat × Nat) → Bool) : Option Bool :=
  match s.rsv.past.find? (fun p => p.group == g && p.acqNum == acq) with
  | some p => some (decide (num < p.top) && !lies p.gaps)
  | none => some false

/-- The condition of WAIT SEG (R340): some true met, some false never met, none not yet. -/
def State.segMet (s : State) (g acq num : Nat) : Option Bool :=
  let x := nth s.rsv.grp g
  let lies (gaps : List (Nat × Nat)) : Bool := gaps.any (fun r => r.1 ≤ num && num < r.1 + r.2)
  if x.acqNum < acq then none
  else match x.run, s.rsv.find g acq with
    | some r, some a =>
      if r.acqNum = acq then
        (if lies (a.gaps ++ [(r.gapFirst, r.gapFrames)]) then some false else if num < a.firstOpen r.seg then some true else none)
      else s.segPast g acq num lies
    | _, _ => s.segPast g acq num lies

/-- WAIT SEG (R340). -/
def State.waitSeg (s : State) (c : Nat) (x : DmaCh) (i : DmaIns) : State :=
  if !x.moves.isEmpty then s.dmaHold c 0
  else match s.segMet i.c (x.g64 (fld i.b 2 0) % 2 ^ 32) (x.g64 (fld i.b 5 3) % 2 ^ 32) with
    | some true => s.dmaGo c (x.pc + 1)
    | some false => if i.d = 0xFFFFFFFF then s.dmaHalt c 9 0 x.pc 0 else s.dmaGo c i.d
    | none => s.dmaHold c 0

/-- WAIT CREDIT (R340). -/
def State.waitCredit (s : State) (c : Nat) (x : DmaCh) : State :=
  if 1 ≤ x.credit then (s.updDma c (fun x => { x with credit := x.credit - 1 })).dmaGo c (x.pc + 1) else s.dmaHold c 1

/-- WAIT TB (R340). -/
def State.waitTb (s : State) (c : Nat) (x : DmaCh) (i : DmaIns) : State :=
  if x.g64 (fld i.b 2 0) ≤ s.tb.count.toNat then s.dmaGo c (x.pc + 1) else s.dmaHold c 2

/-- DMA_WAIT_SEG (R340). -/
def execDmaWaitSeg (c : Nat) (s : State) : Res := dmaRow s c (fun i => i.op = 3 && i.a = 0) (fun s x i => s.waitSeg c x i)
/-- DMA_WAIT_CREDIT (R340). -/
def execDmaWaitCredit (c : Nat) (s : State) : Res := dmaRow s c (fun i => i.op = 3 && i.a = 1) (fun s x _ => s.waitCredit c x)
/-- DMA_WAIT_TB (R340). -/
def execDmaWaitTb (c : Nat) (s : State) : Res := dmaRow s c (fun i => i.op = 3 && i.a = 2) (fun s x i => s.waitTb c x i)

/-- DMA_WAIT_RESUME (R340, R499): the condition of the WAIT that holds the channel is judged again. -/
def execDmaWaitResume (c : Nat) (s : State) : Res :=
  if (nth s.dma.ch c).st ≠ .waiting then .next s
  else dmaRow s c (fun i => i.op = 3) (fun s x i => if i.a = 0 then s.waitSeg c x i else if i.a = 1 then s.waitCredit c x else s.waitTb c x i)

/-- A SIGNAL that only counts (R341): HALF or FULL. -/
def State.dmaSignal (s : State) (c : Nat) (x : DmaCh) (b : Nat) : State :=
  if !x.moves.isEmpty then s.dmaHold c 3
  else
    let s := s.updDma c (fun x => if b = 0 then { x with halfCnt := satAdd 65535 x.halfCnt 1 } else { x with fullCnt := satAdd 65535 x.fullCnt 1 })
    (s.dmaIrq c b).dmaGo c (x.pc + 1)

/-- DMA_SIGNAL_HALF (R341, R348). -/
def execDmaSignalHalf (c : Nat) (s : State) : Res := dmaRow s c (fun i => i.op = 4 && i.a = 0) (fun s x _ => s.dmaSignal c x 0)
/-- DMA_SIGNAL_FULL (R341, R348). -/
def execDmaSignalFull (c : Nat) (s : State) : Res := dmaRow s c (fun i => i.op = 4 && i.a = 1) (fun s x _ => s.dmaSignal c x 1)

/-- DMA_SIGNAL_RELEASE (R184, R341, R342). -/
def execDmaSignalRelease (c : Nat) (s : State) : Res :=
  dmaRow s c (fun i => i.op = 4 && i.a = 2) (fun s x i =>
    if !x.moves.isEmpty then s.dmaHold c 3
    else if !x.movedOk then s.dmaHalt c 11 0 x.pc 0
    else match s.tryRelease i.c (x.g64 (fld i.b 2 0) % 2 ^ 32) (x.g64 (fld i.b 5 3) % 2 ^ 32) i.d with
      | none => s.dmaHalt c 10 0 x.pc 0
      | some (s, n) =>
        (s.updDma c (fun x => { x with relCnt := satAdd 0xFFFFFFFF x.relCnt n, movedOk := false })).dmaGo c (x.pc + 1))

/-- Set G[RD] and go on (R343). -/
def State.dmaSet (s : State) (c : Nat) (x : DmaCh) (i : DmaIns) (v : BitVec 64) : State :=
  (s.updDma c (fun x => { x with g := x.g.set (fld i.b 2 0) v })).dmaGo c (x.pc + 1)

/-- DMA_LOAD_IMM (R343). -/
def execDmaLoadImm (c : Nat) (s : State) : Res :=
  dmaRow s c (fun i => i.op = 5 && i.a = 0) (fun s x i => s.dmaSet c x i (BitVec.ofNat 64 i.e))
/-- DMA_LOAD_ADD (R343). -/
def execDmaLoadAdd (c : Nat) (s : State) : Res :=
  dmaRow s c (fun i => i.op = 5 && i.a = 1) (fun s x i => s.dmaSet c x i (x.g.getD (fld i.b 2 0) 0 + BitVec.ofNat 64 i.e))
/-- DMA_LOAD_SHL (R343): IMM above 63 is BAD_INSTR. -/
def execDmaLoadShl (c : Nat) (s : State) : Res :=
  dmaRow s c (fun i => i.op = 5 && i.a = 3) (fun s x i =>
    if 63 < i.e then s.dmaHalt c 1 0 x.pc (x.insAddr x.pc) else s.dmaSet c x i (x.g.getD (fld i.b 2 0) 0 <<< i.e))
/-- DMA_LOAD_MEM (R333, R343): the read issues; its response sets G[RD]. -/
def execDmaLoadMem (c : Nat) (s : State) : Res :=
  dmaRow s c (fun i => i.op = 5 && i.a = 2) (fun s x i =>
    let a := (x.g64 (fld i.b 5 3) + i.e) % 2 ^ 64
    let sp := spaceOf i.c
    if a % 8 ≠ 0 then s.dmaHalt c 3 0 x.pc a
    else match sp.badAt false a 8 with
      | some b => s.dmaHalt c 3 0 x.pc b
      | none => s.updDma c (fun x => { x with load := some (fld i.b 2 0, sp, a), loadSent := false, st := .running }))

/-- DMA_FENCE (R344). -/
def execDmaFence (c : Nat) (s : State) : Res :=
  dmaRow s c (fun i => i.op = 6) (fun s x i =>
    if !x.moves.isEmpty then s.dmaHold c 3
    else
      let drop (x : DmaCh) : DmaCh := { x with pre := [], fetches := x.fetches.map (fun f => (f.1, false)) }
      if i.a = 1 && x.lastHostWr.isSome then (s.updDma c (fun x => { drop x with flush := true })).dmaHold c 3
      else (s.updDma c drop).dmaGo c (x.pc + 1))

/-- DMA_END (R331, R345). -/
def execDmaEnd (c : Nat) (s : State) : Res :=
  dmaRow s c (fun i => i.op = 7) (fun s x _ =>
    if !x.moves.isEmpty then s.dmaHold c 3
    else (s.dmaIrq c 2).updDma c (fun x => { x with st := .done, enable := false, drain := x.outstanding, fetches := [], pre := [] }))

/-- DMA_BAD_INSTR (R334, R343): the channel halts with BAD_INSTR. -/
def execDmaBadInstr (c : Nat) (s : State) : Res :=
  match s.dmaIns c with
  | some i =>
    if !i.ok || (i.op = 5 && i.a = 3 && 63 < i.e) then
      let x := nth s.dma.ch c
      .next ((s.dmaHalt c 1 0 x.pc (x.insAddr x.pc)).dmaPump)
    else .next s
  | none => .next s

/-! ### Responses (R336, R337, R349, R350) -/

/-- The bytes of a read burst wait to be written, in ascending address order (R335, R337). -/
def DmaCh.deliver (x : DmaCh) (k : Nat) (bs : List Byte) : DmaCh :=
  { x with moves := upd x.moves k (fun m => { m with buf := if m.desc then bs ++ m.buf else m.buf ++ bs }) }

/-- Take the oldest burst of MOVE k off the channel's account. -/
def DmaCh.takeBurst (x : DmaCh) (k : Nat) : DmaCh := { x with moves := upd x.moves k (fun m => { m with bursts := m.bursts.drop 1 }) }

/-- The response of a read burst of MOVE k. -/
def State.moveResponse (s : State) (c k : Nat) (st : RespStatus) : State :=
  let x := nth s.dma.ch c
  let m := nth x.moves k
  match m.bursts with
  | [] => s
  | (off, n) :: _ =>
    let s := s.updDma c (fun x => x.takeBurst k)
    match st with
    | .ok data ecc =>
      let s := if m.srcSp == .rsv then s.eccApply ecc else s
      if x.halting then s
      else
        let (bs, s) := s.spaceRead m.srcSp (m.src + off) n data
        s.updDma c (fun x => x.deliver k bs)
    | .hostError => s.dmaHalt c 4 0 m.index (m.src + off)
    | _ => s.dmaHalt c 5 0 m.index ((m.src + off) / 64 * 64)

/-- The response of a Reservoir write burst of MOVE k: what a stripe write that failed leaves in the block is undefined (RSV_WR; DESIGN
CHOICE, notes/assumptions/114.md). -/
def State.writeResponse (s : State) (c k : Nat) (st : RespStatus) : State :=
  let m := nth (nth s.dma.ch c).moves k
  match m.writes with
  | [] => s
  | (off, n) :: _ =>
    let s := s.updDma c (fun x => { x with moves := upd x.moves k (fun m => { m with writes := m.writes.drop 1 }) })
    match st with
    | .ok _ ecc => s.eccApply ecc
    | _ => (s.undefine (m.dst + off) n).dmaHalt c 6 1 m.index ((m.dst + off) / 64 * 64)

/-- The response of a LOAD MEM (R343). -/
def State.loadResponse (s : State) (c : Nat) (st : RespStatus) : State :=
  let x := nth s.dma.ch c
  match x.load with
  | none => s
  | some (r, sp, a) =>
    if !x.loadSent then s
    else
      let s := s.updDma c (fun x => { x with load := none, loadSent := false })
      match st with
      | .ok data ecc =>
        let s := if sp == .rsv then s.eccApply ecc else s
        if x.halting then s
        else
          let (bs, s) := s.spaceRead sp a 8 data
          (s.updDma c (fun x => { x with g := x.g.set r (BitVec.ofNat 64 (leNat bs)) })).dmaGo c (x.pc + 1)
      | .hostError => s.dmaHalt c 4 0 x.pc a
      | _ => s.dmaHalt c 5 0 x.pc (a / 64 * 64)

/-- The completion of a FENCE's flushing read (R344). -/
def State.flushResponse (s : State) (c : Nat) (st : RespStatus) : State :=
  let x := nth s.dma.ch c
  if !x.flushSent then s
  else
    let s := s.updDma c (fun x => { x with flush := false, flushSent := false })
    match st with
    | .ok _ _ => if x.halting then s else s.dmaGo c (x.pc + 1)
    | _ => s.dmaHalt c 4 0 x.pc (x.lastHostWr.getD 0)

/-- The response of the oldest fetch of instruction i; one whose instruction has been discarded is dropped (R332). -/
def State.fetchResponse (s : State) (c i : Nat) (st : RespStatus) : State :=
  let x := nth s.dma.ch c
  match x.fetches.findIdx? (fun f => f.1 == i) with
  | none => s
  | some j =>
    let keep := (x.fetches.getD j (0, false)).2 && !x.halting
    let s := s.updDma c (fun x => { x with fetches := x.fetches.eraseIdx j })
    let put (s : State) (b : Option (List Byte)) : State := s.updDma c (fun x => { x with pre := x.pre ++ [{ index := i, bytes := b }] })
    match st with
    | .ok data ecc =>
      let s := if x.progSpace = 1 then s.eccApply ecc else s
      if !keep then s
      else
        let (bs, s) := s.spaceRead (if x.progSpace = 0 then .host else .rsv) (x.insAddr i) 16 data
        put s (some bs)
    | _ => if keep then put s none else s

/-- A response arrives: it is examined, and a stopped channel discards it (R336, R349, R351). -/
def State.dmaResponse (s : State) (c : Nat) (r : DmaReq) (st : RespStatus) : State :=
  if 32 ≤ c || !s.domOn 45 then s
  else
    match (nth s.dma.ch c).drain.findIdx? (fun d => d.1 == r) with
    | some j => (s.updDma c (fun x => { x with drain := x.drain.eraseIdx j })).dmaPump
    | none => (match r with
      | .fetch i => s.fetchResponse c i st
      | .load => s.loadResponse c st
      | .flush => s.flushResponse c st
      | .move k => s.moveResponse c k st
      | .write k => s.writeResponse c k st).dmaPump

/-- DMA_BURST_RESPONSE (R336, R349, R350). -/
def execDmaBurstResponse (c : Nat) (r : DmaReq) (st : RespStatus) (s : State) : Res := .next (s.dmaResponse c r st)

/-- Halt every channel that has a burst due in a space (R355): LINK for host bursts, DOMAIN for Pond. -/
def State.dmaHaltDue (s : State) (sp : DSpace) (code : Nat) : State :=
  forEach (List.range 32) s (fun s c =>
    let x := nth s.dma.ch c
    let host := sp == .host
    let mv := x.moves.find? (fun m => (m.srcSp == sp || (host && m.dstSp == sp)) && m.done < m.len)
    match mv with
    | some m => s.dmaHalt c code (b2n (m.srcSp != sp)) m.index (if m.srcSp == sp then m.src + ((m.bursts.head?.map Prod.fst).getD m.issued) else m.dst + m.done)
    | none =>
      match x.load with
      | some (_, lsp, a) => if lsp == sp then s.dmaHalt c code 0 x.pc a else s
      | none =>
        if host && x.flush then s.dmaHalt c code 0 x.pc (x.lastHostWr.getD 0)
        else if host && x.progSpace = 0 && !x.fetches.isEmpty then s.dmaHalt c code 0 x.pc (x.insAddr ((x.fetches.headD (x.pc, true)).1))
        else s)

/-- Reads of host memory that never answer are gone with the link. -/
def DmaCh.dropHost (x : DmaCh) : DmaCh :=
  { x with drain := x.drain.filter (fun r => !r.2), fetches := if x.progSpace = 0 then [] else x.fetches, flushSent := false,
           loadSent := x.loadSent && (x.load.map (fun l => l.2.1)) != some .host,
           moves := x.moves.map (fun m => if m.srcSp == .host then { m with bursts := [] } else m) }

end Sys2Proof.Machine
end

