-- ==== Sys2Proof/Machine/Keeper.lean ====
section
/-! DEFINITION. Keeper: the key store, debug, attestation, alarm policy and their events (R327, R328, R451 to R469). -/

namespace Sys2Proof.Machine

/-- KEY_ID of a slot (R454). -/
def keyId : Option KeySlot → Nat
  | some k => rd (Config.sha384 k.pub) 0 4
  | none => 0

/-- RESULT of KEY_PROVISION (R327). -/
def slotResult (s : State) (slot : Nat) : List Byte :=
  let k := s.kpr.slots.getD slot none
  leBytes 4 (b2n k.isSome) ++ leBytes 4 (keyId k)

/-- Blob length and key length of a slot (R455). -/
def blobLen (slot : Nat) : Nat := if slot = 2 then 192 else if slot = 0 then 112 else 160
def keyLen (slot : Nat) : Nat := if slot = 2 then 32 else if slot = 0 then 48 else 96

/-- SLOT, KIND, length and reserved fields of a blob agree with the command (R455). -/
def blobOk (slot len : Nat) (b : List Byte) : Bool :=
  let iv := if slot = 2 then 128 else 32
  rd b 0 1 == slot && rd b 1 1 == (if slot = 2 then 0 else 1) && rd b 2 2 == len && len == blobLen slot &&
    rd b 4 12 == 0 && rd b (iv + 12) 4 == 0

/-- Unwrap a blob: the slot it fills, or none when unwrapping fails (R455). -/
def unwrap (s : State) (slot : Nat) (b : List Byte) : Option KeySlot :=
  let iv := if slot = 2 then 128 else 32
  let aad := b.take 32
  let key :=
    if slot = 2 then (Config.sha384 (Config.ecdhX ((b.drop 32).take 96) Config.transportKey ++ aad)).take 32
    else ((s.kpr.slots.getD 2 none).map KeySlot.key).getD []
  let n := keyLen slot
  if slot = 2 && !Config.p384PointOk ((b.drop 32).take 96) then none
  else match Config.gcmOpen key ((b.drop iv).take 12) aad ((b.drop (iv + 16)).take n) ((b.drop (iv + 16 + n)).take 16) with
  | none => none
  | some k =>
    if slot = 0 then (if Config.p384ScalarOk k then some { key := k, pub := Config.p384Pub k } else none)
    else if slot = 1 then (if Config.p384PointOk k then some { key := k, pub := k } else none)
    else some { key := k, pub := (b.drop 16).take 16 }

def State.setSlot (s : State) (slot : Nat) (k : Option KeySlot) : State :=
  s.updKpr (fun x => { x with slots := x.slots.set slot k })

/-- KEY_PROVISION WRITE (R327, R328, R455, R456). -/
def execKeyProvisionWrite (q : Nat) (tbl : Table) (s : State) : Res :=
  runCmdSel s q 0x68 (fun p => rd p 17 1 ≠ 1) [(16, 1), (17, 1), (48, 16)]
    (fun p => pktIndex p == 0 && rd p 16 1 ≤ 2 && rd p 17 1 == 0 && bulkOk p && 64 ≤ bulkLen p && bulkLen p ≤ 1024)
    (fun s e =>
      withTable s e tbl (fun b =>
        let slot := rd e.pkt 16 1
        if !blobOk slot (bulkLen e.pkt) b then refuse s PARAM_RANGE
        else if s.kpr.dbg == .openVendor || (s.kpr.slots.getD slot none).isSome then refuse s STATE
        else if slot ≠ 2 && (s.kpr.slots.getD 2 none).isNone then refuse s STATE
        else match unwrap s slot b with
          | none => refuse s SECURITY_DENIED
          | some k =>
            let s := s.setSlot slot (some k)
            .done s OK (slotResult s slot)))

/-- KEY_PROVISION ERASE (R456). -/
def execKeyProvisionErase (q : Nat) (s : State) : Res :=
  runCmdSel s q 0x68 (fun p => rd p 17 1 ≠ 0) [(16, 1), (17, 1), (48, 16)]
    (fun p => pktIndex p == 0 && rd p 16 1 ≤ 2 && rd p 17 1 == 1 && bulkOk p && bulkLen p == 0)
    (fun s e =>
      let slot := rd e.pkt 16 1
      let s := s.setSlot slot none
      .done s OK (slotResult s slot))

/-- TRIES_LEFT (R458). -/
def Kpr.triesLeft (k : Kpr) : Nat := k.unlockLimit - k.fails

/-- DEBUG_CHALLENGE (R328, R457). -/
def execDebugChallenge (q : Nat) (nonce : List Byte) (s : State) : Res :=
  runCmd s q 0x69 [(16, 1)] (fun p => pktIndex p == 0 && (rd p 16 1 == 1 || rd p 16 1 == 2))
    (fun s e =>
      let lv := rd e.pkt 16 1
      if lv ≤ s.kpr.dbg.code || (lv = 1 && (s.kpr.slots.getD 1 none).isNone) then refuse s STATE
      else
        let n := padTo 16 nonce
        .done (s.updKpr (fun k => { k with challenge := some { nonce := n, level := lv } })) OK n)

/-- The message a debug response signs (R457). -/
def challengeMessage (c : Challenge) : List Byte :=
  c.nonce ++ leBytes 8 Config.dieId.toNat ++ leBytes 1 c.level ++ zeros 7

/-- RESULT of DEBUG_RESPONSE (R327). -/
def debugResult (s : State) : List Byte := leBytes 1 s.kpr.dbg.code ++ leBytes 1 s.kpr.triesLeft

/-- A failed unlock: FAILS rises, and at UNLOCK_LIMIT raises UNLOCK and returns to 0 (R458). -/
def State.failUnlock (s : State) : State :=
  let s := s.updKpr (fun k => { k with challenge := none, fails := k.fails + 1 })
  if s.kpr.unlockLimit ≤ s.kpr.fails then (s.raiseAlarm 4 0).updKpr (fun k => { k with fails := 0 }) else s

/-- The key that verifies a level: slot 1, none while it is EMPTY, or the vendor-debug key (R457, R467). -/
def Kpr.unlockKey (k : Kpr) (level : Nat) : Option (List Byte) :=
  if level = 1 then (k.slots.getD 1 none).map KeySlot.key else some Config.vendorKey

/-- A response verifies (R457). -/
def Kpr.unlocks (k : Kpr) (c : Challenge) (sig : List Byte) : Bool :=
  match k.unlockKey c.level with
  | some key => Config.p384Verify key (Config.sha384 (challengeMessage c)) sig
  | none => false

/-- DEBUG_RESPONSE (R328, R458, R459). -/
def execDebugResponse (q : Nat) (tbl : Table) (s : State) : Res :=
  runCmd s q 0x6A [(48, 16)] (fun p => pktIndex p == 0 && bulkOk p && bulkLen p == 96)
    (fun s e =>
      withTable s e tbl (fun sig =>
        match s.kpr.challenge with
        | none => refuse s STATE
        | some c =>
          if !s.kpr.unlocks c sig then
            let s := s.failUnlock
            .done s SECURITY_DENIED (debugResult s)
          else
            let s := s.updKpr (fun k => { k with challenge := none, fails := 0 })
            if c.level = 1 then
              let s := (s.updKpr (fun k => { k with dbg := .openUser })).raiseGlb 1
              .done s OK (debugResult s)
            else .wait (s.updKpr (fun k => { k with erase := some { vendor := true, cmd := some e.idx } })) .erase none))

/-- The packet-level checks of ALARM_POLICY (R300, R327, R463). -/
def alarmPolicyOk (p : Packet) : Bool :=
  pktOk p [(16, 8), (24, 1)] && pktIndex p == 0 && rd p 18 6 == 0 &&
    (List.range 8).all (fun i => fld (rd p 16 2) (2 * i + 1) (2 * i) ≠ 3) && 1 ≤ rd p 24 1

/-- The policy in force, as a RESULT (R327). -/
def Kpr.policyResult (k : Kpr) : List Byte := leBytes 4 k.policyLo.toNat ++ leBytes 4 k.policyHi.toNat

/-- ALARM_POLICY's outcome: LK fields, written once between resets; every RESULT, refused or not, holds the policy in force
(R6, R300, R327, R328). -/
def alarmPolicyOut (s : State) (e : JEntry) : CmdOut :=
  if !alarmPolicyOk e.pkt then .done s PARAM_RANGE s.kpr.policyResult
  else if s.kpr.locked then .done s LOCKED s.kpr.policyResult
  else
    let s := s.updKpr (fun k =>
      { k with policyLo := BitVec.ofNat 32 (rd e.pkt 16 4), policyHi := BitVec.ofNat 32 (rd e.pkt 20 4), unlockLimit := rd e.pkt 24 1, locked := true })
    .done s OK s.kpr.policyResult

/-- ALARM_POLICY (R6, R327, R328, R463). -/
def execAlarmPolicy (q : Nat) (s : State) : Res :=
  match s.cp.current q with
  | none => .next s
  | some e =>
    if opcode e.pkt ≠ 0x6B || e.dup || !s.ready q e then .next s
    else .next (s.conclude e (alarmPolicyOut s e))

/-- SVN_FLOOR in force (R453). -/
def Kpr.svnFloor (k : Kpr) : Nat := max Config.fusedSvnFloor.toNat k.svnRaised

/-- The first 176 bytes of an attestation report (R462). -/
def attestHead (s : State) (p : Packet) (mode : Nat) (recordField digest : List Byte) : List Byte :=
  leBytes 2 1 ++ leBytes 1 mode ++ leBytes 1 (s.kpr.alarm.code + 4 * s.kpr.dbg.code + 16 * s.pwr.st.code) ++
    leBytes 4 ((s.cp.image.map Image.version).getD 0) ++ leBytes 8 Config.dieId.toNat ++ (p.drop 16).take 16 ++
    leBytes 8 s.tb.count.toNat ++ leBytes 2 s.tb.epoch ++ leBytes 2 s.cp.recNum ++ leBytes 1 s.kpr.svn ++ leBytes 1 s.kpr.svnFloor ++ zeros 2 ++
    padTo 48 ((s.cp.image.map Image.digest).getD []) ++
    leBytes 4 (keyId (s.kpr.slots.getD 0 none)) ++ leBytes 4 (keyId (s.kpr.slots.getD 1 none)) ++ leBytes 4 (keyId (s.kpr.slots.getD 2 none)) ++
    leBytes 4 s.kpr.srcSeen ++ padTo 16 recordField ++ padTo 48 digest

/-- The signed report of 368 bytes, and the state past its random draw (R462). -/
def attestReport (s : State) (k : KeySlot) (p : Packet) (mode : Nat) (recordField digest : List Byte) : List Byte × State :=
  let body := padTo 272 (attestHead s p mode recordField digest ++ padTo 96 k.pub)
  let (n, s) := s.draw 1
  (body ++ padTo 96 (Config.p384Sign k.key (Config.sha384 body) n), s)

/-- Write and answer a report. -/
def attestFinish (s : State) (e : JEntry) (writeOk : Bool) (k : KeySlot) (mode : Nat) (recordField digest : List Byte) : CmdOut :=
  let (bs, s') := attestReport s k e.pkt mode recordField digest
  withReport s' e writeOk bs (fun s => .done s OK (leBytes 4 368))

/-- ATTEST mode 0 (R328, R462). -/
def execAttestDevice (q : Nat) (writeOk : Bool) (s : State) : Res :=
  runCmdSel s q 0x6C (fun p => rd p 32 1 ≠ 1) [(16, 16), (32, 1), (48, 16)] (fun p => pktIndex p == 0 && rd p 32 1 == 0 && bulkOk p && 512 ≤ bulkLen p)
    (fun s e =>
      match s.kpr.slots.getD 0 none with
      | none => refuse s STATE
      | some k => attestFinish s e writeOk k 0 [] [])

/-- The descriptor address of a segment that is complete and not released (R171, R184). -/
def descAddr (s : State) (g acq num : Nat) : Option Nat :=
  match s.rsv.dir.find? (fun a => a.group == g && a.acqNum == acq) with
  | some a => match a.segs.find? (fun x => x.num == num && x.st == .complete) with
    | some x => some (256 * (a.descBase + x.slot))
    | none => none
  | none => none

/-- The bytes hashed into DESC_DIGEST: descriptors FIRST to FIRST + COUNT − 1; none when one is not complete or released (R462). -/
def descBytes (s : State) (g acq first : Nat) : Nat → Option (List Byte)
  | 0 => some []
  | n + 1 => match descBytes s g acq first n, descAddr s g acq (first + n) with
    | some bs, some a => some (bs ++ Mem.read s.rsv.mem a 256)
    | _, _ => none

/-- ATTEST mode 1 (R328, R462). -/
def execAttestRecord (q : Nat) (writeOk : Bool) (s : State) : Res :=
  runCmdSel s q 0x6C (fun p => rd p 32 1 ≠ 0) [(16, 16), (32, 1), (33, 1), (36, 4), (40, 4), (44, 4), (48, 16)]
    (fun p => pktIndex p == 0 && rd p 32 1 == 1 && bulkOk p && 512 ≤ bulkLen p && rd p 33 1 ≤ 31 && 1 ≤ rd p 44 4 && rd p 44 4 ≤ 65536)
    (fun s e =>
      let g := rd e.pkt 33 1
      match s.kpr.slots.getD 0 none with
      | none => refuse s STATE
      | some k =>
        match descBytes s g (rd e.pkt 36 4) (rd e.pkt 40 4) (rd e.pkt 44 4) with
        | none => refuse s STATE
        | some bs =>
          if s.selfRefresh then refuse s STATE
          else attestFinish s e writeOk k 1 (leBytes 1 g ++ zeros 3 ++ (e.pkt.drop 36).take 12) (Config.sha384 bs))

/-! ### Keeper's own events -/

/-- LID_SENSE_HIGH (R463): the LID source is raised. -/
def execLidSenseHigh (s : State) : Res :=
  .next ((s.updKpr (fun k => { k with lid := true, srcNow := k.srcNow ||| 64 })).raiseAlarm 6 0)

/-- The command a finished erase completes (R459). -/
def State.eraseReply (s : State) (e : Erase) : State :=
  match e.cmd with
  | some i => s.finish i OK (debugResult s)
  | none => s

/-- ZEROISE_ERASE_DONE (R465): every slot EMPTY, the alarm state ZEROISED, and the second ALARM event. -/
def execZeroiseEraseDone (s : State) : Res :=
  match s.kpr.erase with
  | some { vendor := _, cmd := c, src := some src } =>
    let s := s.updKpr (fun k => { k with slots := [none, none, none], alarm := .zeroised, dbg := .closed, erase := none })
    let s := s.alarmEvent src 2 0
    let s := s.raiseGlb 1
    .next (s.eraseReply { cmd := c })
  | _ => .next s

/-- VENDOR_UNLOCK_ERASE_DONE (R459): every slot EMPTY; debug becomes OPEN_VENDOR unless a reset or an alarm forbids it (R460, R467). -/
def execVendorUnlockEraseDone (s : State) : Res :=
  match s.kpr.erase with
  | some { vendor := v, cmd := c, src := none } =>
    let opens := v && s.kpr.alarm == .clear && (s.pwr.st == .active || s.pwr.st == .idle)
    let s := s.updKpr (fun k => { k with slots := [none, none, none], erase := none, dbg := if opens then .openVendor else k.dbg })
    let s := if opens then s.raiseGlb 1 else s
    .next (s.eraseReply { cmd := c })
  | _ => .next s

/-- KEYSTORE_ERROR (R454, R463): the slot is EMPTY and the KEYSTORE source is raised. -/
def execKeystoreError (slot : Nat) (s : State) : Res := .next ((s.setSlot slot none).raiseAlarm 7 0)

/-- CHALLENGE_EXPIRY (R328): 60 s after its issue a challenge is no longer valid. -/
def execChallengeExpiry (s : State) : Res := .next (s.updKpr (fun k => { k with challenge := none }))

/-- Close debug (R460): each change sets GLB_IRQ_STAT.KEEPER. An erase of a level-2 unlock runs on and opens nothing (R459). -/
def State.closeDebug (s : State) : State :=
  let s := s.updKpr (fun k => { k with erase := k.erase.map (fun e => { e with vendor := false }), tapHalt := false })
  if s.kpr.dbg == .closed then s else (s.updKpr (fun k => { k with dbg := .closed })).raiseGlb 1

/-- The reach of a TAP instruction in a debug state (R459, R461): beyond it, it acts as BYPASS. -/
def tapReach (d : Debug) : TapIns → Bool
  | .scanRead n => d != .closed && n != 49
  | .scanWrite n => d == .openVendor && n != 49
  | .halt | .step => d == .openVendor
  | _ => true

/-- The TAP takes the pins from their functions (R461). -/
def tapTakesPins : TapIns → Bool
  | .extest | .clamp | .highz | .extestPulse | .extestTrain => true
  | _ => false

/-- TAP_ACCESS (R461): TRST_N resets only the TAP; an update puts an instruction in force, within the reach of the debug state. -/
def execTapAccess (a : TapAct) (s : State) : Res :=
  match a with
  | .trst => .next (s.updKpr (fun k => { k with tap := .idcode, tapPins := false, tapHalt := false }))
  | .update i =>
    let i := if tapReach s.kpr.dbg i then i else .bypass
    .next (s.updKpr (fun k => { k with tap := i, tapPins := tapTakesPins i, tapHalt := i == .halt || i == .step }))

/-- A write of IMG_BELL (R452): the key starts the read of a host image while Keeper waits for one or has failed. -/
def State.imgBell (s : State) (v : Nat) : State :=
  if fld v 15 0 = 0x1A6E && (s.kpr.img == .waitHost || s.kpr.img == .failed) && s.pcie.cfg.busMaster then
    s.updKpr (fun k => { k with img := .loading, imgSource := 1, failReason := 0, srcNow := setFld k.srcNow 3 3 0 })
  else s

/-- IMG_BELL (R452). -/
def execImgBell (v : Word) (s : State) : Res := .next (s.tlp.imgBell v.toNat)

/-- The image checks of R451 in their order: the reason of the first that fails, 0 when all pass. -/
def imageCheck (floor : Nat) (b : List Byte) : Nat :=
  let words := rd b 8 4
  if rd b 0 4 ≠ 0x4E544D4C || rd b 13 1 ≥ 2 || rd b 12 1 > 63 || rd b 14 2 ≠ 0 || rd b 112 16 ≠ 0 || words = 0 || words > 65536 || b.length ≠ 224 + 12 * words then 1
  else if Config.sha384 ((b.drop 16).take 96) ≠ Config.signKeyDigest then 2
  else if rd b 12 1 < floor then 3
  else if !Config.p384Verify ((b.drop 16).take 96) (Config.sha384 (b.take (128 + 12 * words))) (b.drop (128 + 12 * words)) then 4
  else 0

end Sys2Proof.Machine
end

