-- ==== Sys2Proof/Machine/Skew.lean ====
section
/-! DEFINITION. Calibration reports and skew measurement (R83, R95 to R97, R320, R321). -/

namespace Sys2Proof.Machine

/-- A position record of a set (R320): the coefficients are the set's free values. -/
def posRecord (key k : Nat) (p : SetPos) : List Byte :=
  (List.range 40).map (fun i => Config.calCoef key k i) ++ leBytes 2 (unsgn 16 p.trimSkew) ++ leBytes 2 (unsgn 16 p.trimGain) ++
    leBytes 2 (unsgn 16 p.trimOffset) ++ leBytes 1 p.sub ++ zeros 17

/-- A calibration set image (R320). -/
def setImage (n : Nat) (c : CorrSet) : List Byte :=
  leBytes 1 n ++ leBytes 1 c.unit ++ leBytes 2 c.epoch ++ leBytes 2 c.p ++ leBytes 1 c.gang ++ leBytes 1 c.range ++ leBytes 1 (b2n c.dither) ++ zeros 3 ++
    leBytes 4 c.nInt ++ leBytes 4 c.nFrac ++ leBytes 4 c.spareMap ++ leBytes 4 (unsgn 32 c.skewCorr) ++ leBytes 8 c.appliedTb.toNat ++ zeros 220 ++
    (List.range c.p).flatMap (fun k => posRecord c.key k (nth c.pos k))

/-- IL_SPUR_EST as it reads (R103). -/
def CalCh.spurReg (c : CalCh) : Nat := if c.st == .cold then 0 else unsgn 16 c.spurEst

/-- RESULT of CAL_REPORT (R320). -/
def calResult (c : CalCh) (bytes : Nat) : List Byte :=
  leBytes 2 c.spurReg ++ leBytes 2 c.skewResid ++ leBytes 2 c.offsetResid ++ leBytes 2 c.gainResid ++ leBytes 2 c.st.code ++
    leBytes 2 ((c.active.map CorrSet.epoch).getD 0) ++ leBytes 4 bytes

/-- CAL_REPORT (R83, R320). -/
def execCalReport (q : Nat) (writeOk : Bool) (s : State) : Res :=
  runCmd s q 0x31 [(16, 1), (18, 2), (48, 16)] (fun p => pktIndex p ≤ 127 && rd p 16 1 ≤ 1 && bulkOk p)
    (fun s e =>
      let n := pktIndex e.pkt
      let c := nth s.acq.cal n
      if rd e.pkt 16 1 = 0 then .done s OK (calResult c 0)
      else match c.history.find? (fun x => x.epoch == rd e.pkt 18 2) with
        | none => refuse s PARAM_RANGE
        | some x =>
          let bs := setImage n x
          if bulkLen e.pkt ≠ 0 && bulkLen e.pkt < bs.length then refuse s PARAM_RANGE
          else
            let bs := if bulkLen e.pkt = 0 then [] else bs
            withReport s e writeOk bs (fun s => .done s OK (calResult c bs.length)))

/-- A channel of the mask may be measured (R96), and its Weir, which corrects what it times, is on (R95, R300). -/
def State.skewOk (s : State) (n : Nat) : Bool :=
  !s.armed (s.activeUnit n) && s.regB (chCfgA n) 0 && (nth s.acq.quads (n / 4)).ready && s.domOn (32 + n / 32)

/-- A measurement begins: it selects CAL_NETWORK on its channels (R95). -/
def State.beginSkew (s : State) (r : SkewRun) : State :=
  forEach (allBelow 128 (bit r.mask)) { s with acq := { s.acq with skew := some r } } (fun s n =>
    s.updAcqCh n (fun c => { c with calSpans := c.calSpans.start s.now }))

/-- A measurement ends: it restores the inputs, with their windows (R97). -/
def State.endSkew (s : State) (r : SkewRun) : State :=
  let s := s.remember
  forEach (allBelow 128 (bit r.mask)) { s with acq := { s.acq with skew := none } } (fun s n =>
    (s.updAcqCh n (fun c => { c with calSpans := c.calSpans.stop s.now })).openWindow n 4096)

/-- SKEW_MEASURE (R95, R96, R321). -/
def execSkewMeasure (q : Nat) (s : State) : Res :=
  runCmd s q 0x32 [(16, 16), (32, 4), (48, 16)]
    (fun p => pktIndex p == 0 && rd p 16 16 ≠ 0 && 1024 ≤ rd p 32 4 && rd p 32 4 ≤ 65536 && bulkOk p && (bulkLen p == 0 || bulkLen p == 512))
    (fun s e =>
      let ns := pktMask e.pkt
      if ns.any (fun n => !s.lead n) then refuse s PARAM_RANGE
      else if ns.any (fun n => !s.skewOk n) then refuse s STATE
      else if s.acq.skew.isSome then .hold
      else
        let run : SkewRun := { cmd := some e.idx, mask := rd e.pkt 16 16, n := rd e.pkt 32 4, buf := bulkAddr e.pkt, len := bulkLen e.pkt, tag := doneTag e.pkt }
        .wait (s.beginSkew run) .skew (some []))

/-- 4 Ts in fs: the limit of SKEW_CORR (R95). -/
def State.skewLimit (s : State) : Int := if s.fs = 0 then 0 else ((4 * 10 ^ 15 / s.fs : Nat) : Int)

/-- The 50 % level of the 300 mV pulse in the codes of channel n, in 1/16 LSB (R50, R95). -/
def State.pulseLevel (s : State) (n : Nat) : Rat := 65536 * (150 + s.vOff n) / s.fsEff n

/-- An edge crosses a level upward between its second and third sample (R133). -/
def edgeCrosses (e : SkewEdge) (level : Rat) : Bool := decide ((e.b : Rat) < level ∧ level ≤ (e.c : Rat))

/-- How late channel n's samples show an edge, in fs (R95): the crossing is interpolated as R142 has it, at a spacing of one sample. -/
def State.edgeLate (s : State) (n : Nat) (e : SkewEdge) : Rat :=
  let p (i : Nat) : Rat := cubic e.a e.b e.c e.d ((i : Rat) / 4096)
  let hi := bisect p (s.pulseLevel n) 1 12 0 4096
  let t : Rat := (4096 * e.at_ : Int) / (s.rate n : Rat) + roundAway ((hi : Rat) / s.rate n)
  if s.fs = 0 then 0 else t * 10 ^ 15 / (4096 * s.fs : Nat)

/-- SKEW_CORR of channel n from its pulse edges (R95): how late they show it on average, less the path's production residual, in whole fs. -/
def State.skewMeasured (s : State) (n : Nat) (edges : List SkewEdge) : Int :=
  roundAway (meanQ (edges.map (s.edgeLate n)) - Config.prodResidual n)

/-- The edges a measurement found on channel n; none given, none found. -/
def edgesOf (res : List (Nat × List SkewEdge)) (n : Nat) : List SkewEdge := (kget res n).getD []

/-- Why a measurement of N pulses fails on channel n, by the cause of CAL 1 (R95, R441, R475): 0 not every edge was found, 1 the skew lies
outside ±4 Ts. -/
def State.skewFails (s : State) (pulses n : Nat) (edges : List SkewEdge) : Option Nat :=
  let c := s.skewMeasured n edges
  if edges.length ≠ pulses || !edges.all (fun e => edgeCrosses e (s.pulseLevel n)) then some 0
  else if s.skewLimit < c || c < -s.skewLimit then some 1
  else none

/-- One channel of the mask takes its new SKEW_CORR, or logs its failure and keeps the old one (R95, R97, R441, R475). -/
def State.skewChannel (s : State) (pulses n : Nat) (edges : List SkewEdge) : State :=
  match s.skewFails pulses n edges with
  | some cause => s.log CONTAINED bCAL 1 n cause
  | none =>
    let c := s.skewMeasured n edges
    (s.updCal n (fun x => { x with skewCorr := c, copyCorr := c, lastTemp := (nth s.buoy.res 50).value })).prepare n

/-- The changes as the report gives them: by channel, 0 for one not measured (R321). -/
def skewChanges (s0 s : State) (ns : List Nat) : List Int :=
  (List.range 128).map (fun n => if ns.contains n then (nth s.acq.cal n).skewCorr - (nth s0.acq.cal n).skewCorr else 0)

/-- SKEW_MEASURE_DONE (R97, R321): inputs are restored with their windows, every channel of the mask is judged by its N edges, and sets with
the new SKEW_CORR are ready. -/
def execSkewMeasureDone (res : List (Nat × List SkewEdge)) (writeOk : Bool) (s : State) : Res :=
  match s.acq.skew with
  | none => .next s
  | some r =>
    if r.cmd.isSome && r.len ≠ 0 && !s.busOk then .next s
    else
      let ns := allBelow 128 (bit r.mask)
      let s0 := s.endSkew r
      let s1 := forEach ns s0 (fun s n => s.skewChannel r.n n (edgesOf res n))
      match r.cmd with
      | none => .next s1
      | some i =>
        let ds := skewChanges s0 s1 ns
        let max := ds.foldl (fun m d => Nat.max m d.natAbs) 0
        let measured := ns.countP (fun n => (s0.skewFails r.n n (edgesOf res n)).isNone)
        if r.len = 0 then .next (s1.finish i OK (leBytes 4 measured ++ leBytes 4 max ++ leBytes 8 s1.tb.count.toNat))
        else if !writeOk then
          match s.jget i with
          | some e => .next ((s0.logCp7 e).finish i PARAM_RANGE [])
          | none => .next s0
        else .next ((s1.hostWrite r.buf (ds.flatMap (fun d => leBytes 4 (unsgn 32 d)))).finish i OK
          (leBytes 4 measured ++ leBytes 4 max ++ leBytes 8 s1.tb.count.toNat))

end Sys2Proof.Machine
end

