-- ==== Sys2Proof/Machine/Regs.lean ====
section
/-! DEFINITION. What a read of BAR0 returns: every register of the map (R42, R72, R103, R129, R159, R191, R211, R236, R263, R264, R297,
R356, R382, R403, R414, R423, R450, R469, R477), the shadow views (R24), and what reads 0. -/

namespace Sys2Proof.Machine

/-- A register word from its fields (msb, lsb, value); a wider value is cut to its field. -/
def bf : List (Nat × Nat × Nat) → Nat
  | [] => 0
  | (h, l, v) :: r => v % 2 ^ (h + 1 - l) * 2 ^ l + bf r

/-- The low and high words of a 64-bit value. -/
def lo32 (v : Nat) : Nat := v % 2 ^ 32
def hi32 (v : Nat) : Nat := v / 2 ^ 32 % 2 ^ 32
/-- One word of a 64-bit value: the low one at offset 0, the high one elsewhere. -/
def word64 (v : Nat) (off : Nat) : Nat := if off = 0 then lo32 v else hi32 v

/-! ### GLB, PWR, ERR (R382, R450, R477) -/

/-- GLB_STATUS (R382). -/
def State.glbStatus (s : State) : Nat :=
  bf [(0, 0, b2n s.pwr.ready), (4, 1, s.pwr.phase.code), (6, 5, s.pwr.st.code), (7, 7, b2n s.err.fatal), (9, 8, s.kpr.alarm.code), (11, 10, s.kpr.dbg.code)]

/-- GLB_LINK (R382). -/
def Pcie.linkReg (p : Pcie) : Nat :=
  bf [(2, 0, if p.link == .down || p.link == .l23 then 0 else p.gen), (4, 3, p.width), (5, 5, b2n p.flit), (6, 6, b2n p.up), (10, 7, p.laneFault), (11, 11, b2n (p.laneFault != 0)),
      (12, 12, b2n p.reversed)]

/-- One MSI-X table word (R362). -/
def MsixEntry.word (e : MsixEntry) (w : Nat) : Nat :=
  if w = 0 then lo32 e.addr.toNat else if w = 1 then hi32 e.addr.toNat else if w = 2 then e.data.toNat else b2n e.masked

/-- The GLB window (R382), with the MSI-X table and PBA. -/
def State.glbReg (s : State) (o : Nat) : Nat :=
  let p := s.pcie
  if o = 0 then 0xA128
  else if o = 4 then s.glbStatus
  else if o = 8 then p.linkReg
  else if o = 0xC then p.irqStat
  else if o = 0x10 then p.irqMask
  else if o = 0x14 then lo32 Config.dieId.toNat
  else if o = 0x18 then hi32 Config.dieId.toNat
  else if o = 0x1C then bf ((p.laneErr.zipIdx).map (fun (v, k) => (8 * k + 7, 8 * k, v)))
  else if o = 0x20 then bf [(15, 0, p.bar0BadWr), (31, 16, p.bar2Poison)]
  else if o = 0x24 then bf [(15, 0, p.bar2WrDrop), (31, 16, p.bar2Ca)]
  else if o = 0x28 then bf [(15, 0, p.retrainCnt), (31, 16, p.speedChgCnt)]
  else if 0x800 ≤ o && o < 0xC00 then (nth p.msix ((o - 0x800) / 16)).word (o % 16 / 4)
  else if o = 0xC00 || o = 0xC04 then word64 p.pba (o - 0xC00)
  else 0

/-- Domains that are powered, a ramp included (DOM_ON). -/
def Dom.powered (d : Dom) : Bool := d.st == .on || d.st == .ramp

/-- The PWR window (R450). -/
def State.pwrReg (s : State) (o : Nat) : Nat :=
  let p := s.pwr
  let on := maskBelow 50 (fun d => (nth p.doms d).powered)
  let target := match p.trans with | some t => (t.target.getD p.st).code | none => p.st.code
  if o = 0 then bf [(1, 0, p.st.code), (3, 2, target), (4, 4, b2n p.trans.isSome), (5, 5, b2n p.wakePend)]
  else if o = 4 || o = 8 then word64 p.activeMask (o - 4)
  else if o = 0xC || o = 0x10 then word64 on (o - 0xC)
  else if o = 0x14 then bf [(2, 0, p.lastKind), (31, 16, p.warmCnt)]
  else if o = 0x18 then bf [(15, 0, p.doorbellWake), (31, 16, p.eventWake)]
  else if o = 0x1C then p.lastTime
  else if 0x20 ≤ o && o < 0x3C then bf [(15, 0, nth p.phaseMs ((o - 0x20) / 4))]
  else if 0x100 ≤ o && o < 0x100 + 200 then
    let k := (o - 0x100) / 4
    let d := nth p.doms k
    let sr := 37 ≤ k && k ≤ 41 && (nth s.rsv.stk (k - 37)).st == .selfRefresh
    bf [(1, 0, d.st.code), (2, 2, b2n (d.lowPower || sr)), (3, 3, b2n d.railFault), (11, 4, d.restartCnt)]
  else 0

/-- One entry of the error log as its 32 bytes (R471). -/
def ErrEntry.bytes (e : ErrEntry) : List Byte :=
  leBytes 1 e.cls ++ leBytes 1 (1 + 2 * b2n e.escalated + 4 * b2n e.preempted + 8 * b2n e.carried + 16 * b2n e.keeper) ++ leBytes 1 e.block ++
    leBytes 1 e.code ++ leBytes 2 e.inst ++ zeros 2 ++ leBytes 4 e.repeats ++ leBytes 4 e.logSeq ++ leBytes 8 e.firstTb.toNat ++ leBytes 8 e.detail

/-- An entry of the log as its 32 bytes; an unused one is all zeros (R471). -/
def ErrLog.entryBytes (l : ErrLog) (i : Nat) : List Byte := match l.entries.getD i none with | some e => e.bytes | none => zeros 32

/-- Entries in use. -/
def ErrLog.used (l : ErrLog) : Nat := l.entries.countP Option.isSome

/-- The highest class among the entries in use; 0 when none. -/
def ErrLog.top (l : ErrLog) : Nat := l.entries.foldl (fun m e => max m ((e.map ErrEntry.cls).getD 0)) 0

/-- The ERR window (R477). -/
def State.errReg (s : State) (o : Nat) : Nat :=
  let l := s.err
  if o = 0 then bf [(6, 0, l.used), (7, 7, b2n l.fatal), (9, 8, l.top), (31, 16, l.overflow)]
  else if 4 ≤ o && o < 0x14 then nth l.cnt ((o - 4) / 4)
  else if o = 0x14 then lo32 l.seq
  else if o = 0x18 || o = 0x1C then word64 (maskBelow 64 (fun i => (l.entries.getD i none).isSome)) (o - 0x18)
  else if 0x800 ≤ o then rd (l.entryBytes ((o - 0x800) / 32)) (o % 32) 4
  else 0

/-! ### SPRING, BCN, TB (R236, R263, R264) -/

/-- REF_CFG, FB_INT, FB_FRAC, LOCK_CFG and SLEW_CFG as registers. -/
def Spring.refCfg (x : Spring) : Nat := bf [(1, 0, x.fmt), (8, 2, x.rdiv), (10, 9, x.retMode)]
def Spring.lockCfg (x : Spring) : Nat := bf [(6, 0, x.lockWin), (31, 16, x.lockCnt)]

/-- The status registers of the SPRING window (R236). -/
def State.sprReg (s : State) (o : Nat) : Nat :=
  let x := s.spr
  if o = 0 then bf [(2, 0, x.st.code), (3, 3, b2n x.refOk), (4, 4, b2n x.lock), (5, 5, b2n x.outHeld), (6, 6, b2n x.fallback), (7, 7, b2n x.jumpValid)]
  else if o = 4 then x.refCfg
  else if o = 8 then x.nInt
  else if o = 0xC then x.nFrac
  else if o = 0x10 then x.lockCfg
  else if o = 0x14 then x.slewRate
  else if o = 0x18 then x.refHz
  else if o = 0x1C then unsgn 32 x.jump
  else if o = 0x20 || o = 0x24 then word64 x.jumpTb.toNat (o - 0x20)
  else if o = 0x28 then unsgn 32 (roundAway ((s.slewLeft : Rat) / 1000))
  else if o = 0x2C then unsgn 32 x.phaseOfs
  else if o = 0x30 then bf [(15, 0, x.refLostCnt), (31, 16, x.relockCnt)]
  else if 0x400 ≤ o && o < 0x410 then
    let k := (o - 0x400) / 4
    bf [(22, 0, s.phaseNow k), (23, 23, b2n (s.phaseNow k != s.outTarget k)), (24, 24, b2n ((nth x.outs k).gated || (x.outHeld && s.outEn k)))]
  else 0

/-- BCN_STAT.STATE (R264): 0 OFF, 1 MASTER, 2 HOLD, 3 ALIGNING, 4 ALIGNED. -/
def Bcn.stCode (b : Bcn) : Nat := if b.role ≤ 1 then b.role else if b.upPort.isNone then 2 else if b.aligned then 4 else 3

/-- The registers of one Beacon port (R264). -/
def BcnPort.reg (x : BcnPort) (o : Nat) : Nat :=
  if o = 0 then bf [(0, 0, b2n x.en), (1, 1, b2n x.quiet), (2, 2, b2n x.qwGate)]
  else if o = 4 then unsgn 32 x.asym
  else if o = 8 then
    bf [(2, 0, x.link.code), (3, 3, b2n x.peerMv), (7, 4, x.peerHops), (13, 8, x.peerId), (14, 14, b2n x.peerUpHere), (15, 15, b2n x.gated)]
  else if o = 0xC || o = 0x10 then word64 (unsgn 64 x.rtt) (o - 0xC)
  else if o = 0x14 || o = 0x18 then word64 (unsgn 64 x.arr) (o - 0x14)
  else if o = 0x1C || o = 0x20 then word64 (unsgn 64 x.dIn) (o - 0x1C)
  else if o = 0x24 then bf [(15, 0, x.crcErr), (31, 16, x.lossCnt)]
  else 0

/-- The BCN window (R264): ports at 0x100 + 0x40 × p. -/
def State.bcnReg (s : State) (o : Nat) : Nat :=
  let b := s.bcn
  if o = 0 then bf [(5, 0, b.unitId), (7, 6, b.role), (8, 8, b2n b.track), (22, 9, b.deadband), (27, 23, b.measShift)]
  else if o = 4 then bf [(2, 0, b.stCode), (4, 3, b.upPort.getD 0), (8, 5, b.hops), (9, 9, b2n b.meas.isSome)]
  else if o = 8 || o = 0xC then word64 (unsgn 64 b.theta) (o - 8)
  else if o = 0x10 then bf [(15, 0, b.evDrop), (31, 16, b.evDup)]
  else if 0x100 ≤ o && o < 0x200 then (nth b.ports ((o - 0x100) / 0x40)).reg (o % 0x40)
  else 0

/-- The TB window (R263); TB_NOW_HI reads the word latched with TB_NOW_LO (R239). -/
def State.tbReg (s : State) (o : Nat) : Nat :=
  let t := s.tb
  if o = 0 then lo32 t.count.toNat
  else if o = 4 then t.latchHi.toNat
  else if o = 8 then bf [(15, 0, t.epoch), (31, 16, t.latchEpoch)]
  else if o = 0x10 then bf [(0, 0, b2n t.ppsEn), (1, 1, t.ppsEdge), (17, 2, t.ppsTol)]
  else if o = 0x14 then bf [(11, 0, t.ppsFrac), (27, 12, t.ppsInt)]
  else if o = 0x18 || o = 0x1C then word64 t.ppsLast.toNat (o - 0x18)
  else if o = 0x20 then bf [(11, 0, t.ppsLastFrac)]
  else if o = 0x24 then bf [(15, 0, t.ppsEdges), (31, 16, t.ppsBad)]
  else if o = 0x30 || o = 0x34 then word64 t.anchorTb.toNat (o - 0x30)
  else if o = 0x38 then bf [(11, 0, t.anchorFrac), (12, 12, b2n t.anchorValid), (13, 13, b2n t.fromBeacon)]
  else if o = 0x3C || o = 0x40 then word64 t.anchorSec.toNat (o - 0x3C)
  else if o = 0x50 then bf [(1, 0, t.outMode), (2, 2, t.outPol), (3, 3, b2n t.outQuiet), (19, 4, t.outWidth)]
  else if o = 0x54 then unsgn 32 t.outDly
  else if o = 0x58 || o = 0x5C then word64 t.outPeriod (o - 0x58)
  else if o = 0x70 then bf [(0, 0, b2n t.ptmEn), (31, 16, t.ptmInt)]
  else if o = 0x74 || o = 0x78 then word64 t.ptmNs.toNat (o - 0x74)
  else if o = 0x7C || o = 0x80 then word64 t.ptmTb.toNat (o - 0x7C)
  else if o = 0x84 then bf [(11, 0, t.ptmFrac), (31, 16, t.ptmSeq)]
  else if o = 0x90 || o = 0x94 then word64 t.qwOrigin.toNat (o - 0x90)
  else if o = 0x98 then t.qwPeriod
  else if o = 0x9C then t.qwLen
  else 0

/-! ### CMD and EVQ (R42, R297) -/

/-- Q_STAT.FENCE_WAIT: the queue's command waits for lower indices (R275). -/
def Cp.fenceWait (c : Cp) (q : Nat) : Bool :=
  match c.current q with
  | some e => fence e.pkt && e.wait.isNone && !e.finalDue && c.jrn.any (fun f => decide (f.idx < e.idx) && !f.posted)
  | none => false

/-- The registers of one queue (R297). -/
def State.queueReg (s : State) (q o : Nat) : Nat :=
  let x := nth s.cp.queues q
  if o = 0 || o = 4 then word64 x.sqBase.toNat o
  else if o = 8 || o = 0xC then word64 x.cqBase.toNat (o - 8)
  else if o = 0x10 then bf [(0, 0, b2n x.enable), (3, 3, b2n x.irqEn), (7, 4, x.sqSize), (11, 8, x.cqSize)]
  else if o = 0x14 then x.sqTail.toNat
  else if o = 0x18 then x.cqHead.toNat
  else if o = 0x1C then bf [(2, 0, x.st.code), (3, 3, b2n x.cqFull), (9, 4, s.cp.journaled q), (10, 10, b2n (s.cp.fenceWait q))]
  else if o = 0x20 then x.sqHead.toNat
  else if o = 0x24 then x.cqTail.toNat
  else if o = 0x28 || o = 0x2C then word64 x.lastSeq.toNat (o - 0x28)
  else if o = 0x30 then bf [(15, 0, x.overrunCnt), (31, 16, x.dupCnt)]
  else 0

/-- THREAD_STAT of thread k (R284, R297): in a handler or LOCKED as the thread stands; WAIT while its command waits, is held by a FENCE, or
was last held before its micro-commit; RUN while it has work; else IDLE. -/
def State.threadSt (s : State) (k : Nat) : ThreadSt :=
  let t := nth s.cp.threads k
  if t.st == .trap1 || t.st == .trap2 || t.st == .locked then t.st
  else match s.cp.current k with
    | none => .idle
    | some e =>
      if e.finalDue then .idle
      else if e.wait.isSome then .wait
      else if s.cp.st != .running || (nth s.cp.queues k).st == .suspended || e.st == .requeued then .idle
      else if s.cp.fenceWait k || t.st == .wait then .wait
      else .run

/-- SCOPE_STAT.IDLE (R35): the unit's boundaries fall at every core-cycle edge. -/
def State.unitIdle (s : State) (u : Nat) : Bool :=
  if u < 32 then !s.armed u else if u = 32 then true else if u = 33 then !s.ltn.scanning else if u = 34 then s.lamp.st == .stopped else false

/-- The registers of one commit unit (R42). -/
def State.scopeReg (s : State) (u o : Nat) : Nat :=
  let x := nth s.units u
  if o = 0 then
    bf [(0, 0, b2n !x.staged.isEmpty), (2, 1, x.pend.length), (3, 3, b2n (u ≤ 32 && (s.unitChans u).any (fun n => (nth s.weir n).defer.isSome))),
        (4, 4, b2n x.discarded), (5, 5, b2n (s.unitIdle u)), (31, 16, x.lastGen)]
  else if o = 4 then lo32 x.bnd.toNat
  else if o = 8 then (if u = 33 || u = 34 then 0 else hi32 x.bnd.toNat)
  else bf [(15, 0, x.nextGen), (31, 16, min 65535 (x.staged.filter (fun p => p.1 < 0x1000000)).length)]

/-- An image that is being fetched has come and is under verification, at an instant the manual leaves open (R297, R451, R469): a free
choice (notes/assumptions/104.md). -/
def State.verifying (s : State) : Bool := s.kpr.img == .loading && Config.freeBool s.freeCtr

/-- The CMD window (R42, R297). -/
def State.cmdReg (s : State) (o : Nat) : Nat :=
  let c := s.cp
  if o < 0x400 then s.queueReg (o / 0x80) (o % 0x80)
  else if o = 0x400 then bf [(2, 0, (if s.verifying then CpSt.verifying else c.st).code), (3, 3, b2n c.lockstep), (4, 4, b2n c.retiredA), (5, 5, b2n c.retiredB)]
  else if o = 0x404 then bf [(8, 0, c.jrn.length), (9, 9, b2n c.aOk), (10, 10, b2n c.bOk), (11, 11, b2n (c.aOk != c.bOk))]
  else if o = 0x408 then bf [(15, 0, c.mismatchCnt), (23, 16, c.trapLockCnt), (31, 24, c.restartCnt)]
  else if o = 0x40C then bf [(15, 0, c.recNum), (18, 16, c.lastKind)]
  else if o = 0x410 then bf ((List.range 8).map (fun k => (4 * k + 3, 4 * k, (s.threadSt k).code)))
  else if o = 0x418 then bf [(15, 0, c.abortCnt)]
  else if 0x1000 ≤ o && o < 0x1240 then s.scopeReg ((o - 0x1000) / 16) (o % 16)
  else 0

/-- The registers of one event queue (R297). -/
def EventQueue.reg (x : EventQueue) (o : Nat) : Nat :=
  if o = 0 || o = 4 then word64 x.base.toNat o
  else if o = 8 then bf [(0, 0, b2n x.enable), (2, 2, b2n x.irqEn), (7, 4, x.size)]
  else if o = 0xC then x.head.toNat
  else if o = 0x10 then x.tail.toNat
  else if o = 0x14 then bf [(1, 0, x.st.code), (10, 2, x.held.length)]
  else if o = 0x18 then x.lost
  else 0

/-! ### KPR and BUOY (R423, R469) -/

/-- The condition of a source that no row says has ended: it holds at the instant of its last raise, and later it is free
(notes/assumptions/120.md). -/
def State.lingers (s : State) (src : Nat) : Bool :=
  bit s.kpr.srcSeen src && ((nth s.kpr.src src).lastTb == s.tb.count || Config.freeBool (s.freeCtr + src))

/-- LID_SENSE after the filter. -/
def State.lidOpen (s : State) : Bool := s.kpr.lid && s.lingers 6

/-- Sixteen mismatches lie within the last second (R285). -/
def State.mismatchStorm (s : State) : Bool :=
  s.cp.mismatchTb.length == 16 && s.cp.mismatchTb.all (fun x => (s.tb.count - x).toNat < s.fs)

/-- SRC_NOW (R469): RAIL follows Buoy while it judges the rails, and the comparators else; the conditions of UNLOCK and KEYSTORE are over
with their raise. -/
def State.srcNow (s : State) : Nat :=
  bf [(0, 0, if s.domOn 48 then fld s.kpr.srcNow 0 0 else b2n (s.lingers 0)), (1, 1, b2n (s.lingers 1)), (3, 2, fld s.kpr.srcNow 3 2),
      (5, 5, b2n s.mismatchStorm), (6, 6, b2n s.lidOpen)]

/-- The KPR window (R469). -/
def State.kprReg (s : State) (o : Nat) : Nat :=
  let k := s.kpr
  if o = 0 then
    bf [(1, 0, k.alarm.code), (3, 2, k.dbg.code), (4, 4, b2n k.erase.isSome), (5, 5, b2n s.lidOpen), (15, 8, k.fails), (23, 16, k.triesLeft)]
  else if o = 4 then maskBelow 3 (fun i => (k.slots.getD i none).isSome)
  else if 8 ≤ o && o < 0x14 then keyId (k.slots.getD ((o - 8) / 4) none)
  else if o = 0x14 then k.policyLo.toNat
  else if o = 0x18 then k.policyHi.toNat
  else if o = 0x1C then k.unlockLimit
  else if o = 0x20 then s.srcNow
  else if o = 0x24 then k.srcSeen
  else if o = 0x28 then bf [(2, 0, (if s.verifying then ImgSt.verifying else k.img).code), (5, 3, k.failReason), (6, 6, k.imgSource), (13, 8, k.svn), (21, 16, k.svnFloor)]
  else if o = 0x30 || o = 0x34 then word64 k.imgAddr.toNat (o - 0x30)
  else if o = 0x38 then k.imgLen
  else if 0x100 ≤ o && o < 0x200 then
    let r := nth k.src ((o - 0x100) / 32)
    let w := o % 32
    if w = 0 then r.count else if w = 4 then r.level else if w = 8 || w = 0xC then word64 r.firstTb.toNat (w - 8)
    else if w = 0x10 || w = 0x14 then word64 r.lastTb.toNat (w - 0x10) else 0
  else if 0x200 ≤ o && o < 0x260 then rd Config.transportPub (o - 0x200) 4
  else 0

/-- The BUOY window (R423). -/
def State.buoyReg (s : State) (o : Nat) : Nat :=
  let b := s.buoy
  if o = 0 then bf [(0, 0, b2n b.run), (1, 1, b2n b.lowPower)]
  else if o = 4 then b.period
  else if o = 8 || o = 0xC then word64 b.mask (o - 8)
  else if o = 0x10 then bf [(1, 0, b.st.code), (7, 2, b.input)]
  else if o = 0x14 then lo32 b.scanCnt
  else if o = 0x18 then bf [(15, 0, b.urgDrop), (31, 16, b.scanLate)]
  else if o = 0x20 || o = 0x24 then word64 b.limNow (o - 0x20)
  else if o = 0x28 || o = 0x2C then word64 b.limLatch (o - 0x28)
  else if 0x100 ≤ o && o < 0x200 then
    let i := (o - 0x100) / 4
    let r := nth b.res i
    bf [(11, 0, r.code), (12, 12, b2n r.stale), (13, 13, b2n (bit b.limNow i)), (31, 16, unsgn 16 r.value)]
  else if 0x200 ≤ o && o < 0x300 then
    let l := nth b.lim ((o - 0x200) / 4)
    bf [(11, 0, l.lo), (27, 16, l.hi), (28, 28, b2n l.en), (29, 29, b2n l.fixed)]
  else 0

/-! ### DMA (R356) -/

/-- Outstanding reads of a channel: responses due (R356). -/
def State.dmaReg (s : State) (c o : Nat) : Nat :=
  let x := nth s.dma.ch c
  let free (k v : Nat) : Nat := if x.undef then Config.freeNat (s.freeCtr + k) % 2 ^ 32 else v
  if o = 0 then bf [(0, 0, b2n x.enable), (1, 1, b2n x.pause), (3, 2, x.prio), (4, 4, x.progSpace)]
  else if o = 4 then bf [(2, 0, x.st.code), (4, 3, if x.st == .waiting then x.waitKind else 0)]
  else if o = 8 || o = 0xC then word64 x.progBase.toNat (o - 8)
  else if o = 0x10 then free 0 x.pc
  else if o = 0x14 then x.irqStat
  else if o = 0x18 then x.irqMask
  else if o = 0x20 then x.credit
  else if o = 0x24 then x.maxRd
  else if o = 0x28 then bf [(3, 0, x.failCode), (4, 4, x.failDir)]
  else if o = 0x2C then x.failIndex
  else if o = 0x30 || o = 0x34 then word64 x.failAddr.toNat (o - 0x30)
  else if o = 0x38 then free 1 x.moveLeft
  else if o = 0x3C then free 2 x.respLeft % 1024
  else if o = 0x40 || o = 0x44 then free (24 + (o - 0x40) / 4) (word64 x.bytes.toNat (o - 0x40))
  else if o = 0x48 then bf [(15, 0, x.halfCnt), (31, 16, x.fullCnt)]
  else if o = 0x4C then x.relCnt
  else if 0x80 ≤ o && o < 0xC0 then free (4 + (o - 0x80) / 4) (word64 (x.g64 ((o - 0x80) / 8)) (o % 8))
  else if 0xC0 ≤ o && o < 0xD0 then
    let l := nth x.lc ((o - 0xC0) / 4)
    free (20 + (o - 0xC0) / 4) (if l.active then l.left else 0)
  else if c = 0 && o = 0x3F0 then s.dma.readsOut
  else if c = 0 && o = 0x3F4 then maskBelow 32 (fun i => (nth s.dma.ch i).runs)
  else 0

/-! ### LAMP and LTN status (R403, R414) -/

/-- LAMP status registers (R414). -/
def State.lampReg (s : State) (o : Nat) : Nat :=
  let x := s.lamp
  if o = 0x300 then bf [(2, 0, x.st.code), (3, 3, b2n x.tcStale), (7, 4, x.row)]
  else if o = 0x304 then lo32 x.frameNum
  else if o = 0x308 then bf [(15, 0, x.syncEarly), (31, 16, x.qwWait)]
  else if o = 0x30C then bf [(7, 0, nth x.iEff 0), (15, 8, nth x.iEff 1), (23, 16, nth x.iEff 2)]
  else if o = 0x310 then lo32 x.diagCnt
  else if 0x600 ≤ o && o < 0x800 then
    let st (c : Nat) : Nat := (nth x.colour (3 * ((o - 0x600) / 4) + c)).status.code
    bf [(1, 0, st 0), (3, 2, st 1), (5, 4, st 2)]
  else 0

/-- LTN status registers (R403). LINE moves within the part of the frame that runs: a free value in it. -/
def State.ltnReg (s : State) (o : Nat) : Nat :=
  let x := s.ltn
  if o = 0x2000 then
    bf [(0, 0, b2n (x.scanning && !x.stopped)), (1, 1, b2n x.passRun), (2, 2, b2n x.passReady), (3, 3, x.shownBuf), (4, 4, b2n x.blank), (5, 5, b2n x.urgent),
        (28, 16, if x.scanning then x.line + Config.freeNat s.freeCtr % (if x.vblank then x.vLines else s.vActive) else 0)]
  else if o = 0x2004 then lo32 x.frameNum
  else if o = 0x2008 then bf [(15, 0, x.shownGen)]
  else if o = 0x2010 || o = 0x2014 then
    let d := nth x.dp ((o - 0x2010) / 4)
    bf [(2, 0, d.st.code), (4, 3, d.lanes), (6, 5, d.rate), (7, 7, b2n d.hpd), (31, 16, d.lossCnt)]
  else if o = 0x2020 then lo32 x.underrunCnt
  else if o = 0x2024 then lo32 x.passCnt
  else if o = 0x2028 then bf [(15, 0, x.passDiscard), (31, 16, x.repeatCnt)]
  else if o = 0x202C then bf [(15, 0, x.traceSkip), (31, 16, x.urgentCnt)]
  else 0

/-! ### ACQ, WEIR and calibration status (R72, R103, R129) -/

/-- ACQ status registers of quad q (R72). -/
def State.acqReg (s : State) (q o : Nat) : Nat :=
  if o = 0x400 then
    bf [(0, 0, b2n (s.domOn q)), (1, 1, b2n (nth s.acq.quads q).ready), (3, 2, s.gang q),
        (7, 4, maskBelow 4 (fun i => (nth s.acq.ch (4 * q + i)).clamp))]
  else if 0x500 ≤ o && o < 0x600 then
    let n := 4 * q + (o - 0x500) / 0x40
    let c := nth s.acq.ch n
    let w := o % 0x40
    if w = 0 then c.ovrCnt
    else if w = 4 then bf [(12, 0, s.invRemain n)]
    else if w = 8 then bf [(11, 0, unsgn 12 c.max), (27, 16, unsgn 12 c.min)]
    else if w = 0xC then c.clampCnt
    else 0
  else 0

/-- FADE_REMAIN (R129): mixed samples of the running fade still to come. -/
def State.fadeRemain (s : State) (n : Nat) : Nat :=
  match (nth s.weir n).fade with
  | some f =>
    if !s.fading n then 0
    else
      let step := if firDec (s.dec n) (s.decMode n) then s.dec n else 1
      min f.len ((fadeLast (s.rate n) (s.dec n) (s.decMode n) (nth s.weir n).originNow f - s.now * s.rate n) / step + 1)
  | none => 0

/-- Where the invalid run that ends last began, in Ts/4,096 (R121 to R123): overlapping windows and the restart form one run. -/
def State.invFrom (s : State) (n : Nat) : Nat :=
  let d := s.regF (weirA n 8) 27 12
  let bad := (s.path n).bad
  let spans := (4096 * (nth s.weir n).originNow, (nth s.weir n).restEnd) :: (nth s.acq.ch n).windows.map (fun w => (4096 * w.1, 4096 * (w.2 + d)))
  let join (a : Nat) : Nat := spans.foldl (fun a w => if a ≤ w.2 then min a w.1 else a) a
  join (join bad)

/-- OUT_INV_REMAIN (R129): outputs of the open run, less those delivered by now. Both outputs of a PEAK interval are invalid together, and
are delivered together at its end (R104, R117). -/
def State.outInvRemain (s : State) (n : Nat) : Nat :=
  let whole (k : Nat) : Nat := k / s.perInterval n * s.perInterval n
  min 0xFFFFFFFF (s.validFrom n - max (whole (s.countLt n (s.invFrom n))) (whole (s.countLt n (4096 * (s.now - s.latency n) + 1))))

/-- Status registers of CHn's Weir (R129); those of a non-lead channel read 0 (R125). -/
def State.weirReg (s : State) (n o : Nat) : Nat :=
  let x := nth s.weir n
  let runs := runsFir (s.reg (weirA n 0)) (s.dec n)
  if !s.lead n then 0
  else if o = 0x40 then
    bf [(0, 0, s.regF (weirA n 0) 1 1), (1, 1, b2n (s.fading n)), (2, 2, b2n x.defer.isSome), (3, 3, x.defer.getD 0), (4, 4, b2n (runs && s.warm n 0)),
        (5, 5, b2n (runs && s.warm n 1)), (6, 6, b2n (s.fmt16 n))]
  else if o = 0x44 then s.fadeRemain n
  else if o = 0x48 then s.outInvRemain n
  else if o = 0x4C || o = 0x50 then word64 x.originTb.toNat (o - 0x4C)
  else if o = 0x54 then s.latency n
  else if o = 0x58 then bf [(15, 0, x.fadeSkip), (31, 16, x.fadeCut)]
  else if o = 0x5C then x.sat
  else if o = 0x60 then bf [(15, 0, x.deferCnt), (31, 16, x.deferRepl)]
  else 0

/-- The converters that the registers of CHn describe: a lead's pooled path, else its own (R103). -/
def State.described (s : State) (n : Nat) : List CalCh := (if s.lead n then s.converters n else [n]).map (nth s.acq.cal)

/-- SPARE_MAP (R103). -/
def CalCh.mapReg (c : CalCh) : Nat :=
  bf [(5, 0, c.sc64.pos), (6, 6, b2n c.sc64.inService), (7, 7, b2n c.sc64.retired), (13, 8, c.sc65.pos), (14, 14, b2n c.sc65.inService),
      (15, 15, b2n c.sc65.retired), (21, 16, c.sc64.shadow), (29, 24, c.sc65.shadow)]

/-- CAL registers of CHn (R103). A lead's SPARES_USED counts its own two spares, the field ending at 2 (DESIGN CHOICE,
notes/assumptions/117.md). -/
def State.calReg (s : State) (n o : Nat) : Nat :=
  let c := nth s.acq.cal n
  let used (x : Spare) : Nat := b2n (x.inService || x.retired)
  if o = 0xC4 then
    bf [(2, 0, c.st.code), (3, 3, b2n c.ditherOn), (6, 4, c.starveCause), (7, 7, b2n c.limitHold), (8, 8, b2n c.ready.isSome),
        (10, 9, used c.sc64 + used c.sc65), (11, 11, b2n ((s.described n).any (fun c => !c.failing.isEmpty))),
        (12, 12, b2n ((s.described n).any CalCh.noSpare))]
  else if o = 0xC8 then bf [(15, 0, (c.active.map CorrSet.epoch).getD 0), (31, 16, nth s.acq.unitEpoch (s.activeUnit n))]
  else if o = 0xCC then c.spurReg
  else if o = 0xD0 then c.skewResid
  else if o = 0xD4 then c.offsetResid
  else if o = 0xD8 then c.gainResid
  else if o = 0xDC then unsgn 20 c.skewCorr
  else if o = 0xE0 then c.mapReg
  else if o = 0xE4 then c.winCnt
  else if o = 0xE8 then c.starveCnt
  else if o = 0xEC then unsgn 16 c.lastTemp
  else 0

/-! ### TRG status (R159) -/

/-- Ts of hold-off time still to run, where the HO_MODE in force has a time (R145), at the present time, not at the stamp the logic
has reached (DESIGN CHOICE, log 111). -/
def State.hoRemain (s : State) (g : Nat) : Nat :=
  let x := nth s.trg.grp g
  match x.hoEnd with
  | some t => if x.hoMode % 2 = 1 then cdiv (t - 4096 * s.now) 4096 else 0
  | none => 0

/-- A hold-off runs (R145): its time, or its count of triggers, as the HO_MODE in force asks. -/
def State.holdingOff (s : State) (g : Nat) : Bool := s.hoRemain g != 0 || (2 ≤ (nth s.trg.grp g).hoMode && (nth s.trg.grp g).hoLeft != 0)

/-- TRG_STAT.STATE (R159): once a dead time that no boundary ends is over, the pre-trigger region fills, or the group waits for its slot. -/
def State.trgState (s0 : State) (g : Nat) : TrgSt :=
  let s := s0.closeDue g
  let x := nth s.trg.grp g
  match x.st, (nth s.rsv.grp g).run with
  | .rearm, some r => if r.mode = 4 && r.openT ≤ 4096 * s.now then .preFill else .rearm
  | st, _ => st

/-- Status registers of one TRG window (R159). -/
def State.trgReg (s : State) (g o : Nat) : Nat :=
  let x := nth s.trg.grp g
  if o = 0x200 then
    bf [(2, 0, (s.trgState g).code), (3, 3, b2n (s.holdingOff g)), (4, 4, b2n x.seqWaitB), (5, 5, b2n !x.forces.isEmpty)]
  else if o = 0x204 then x.qualCnt
  else if o = 0x208 then x.accCnt
  else if o = 0x20C then x.rejCnt
  else if o = 0x210 then x.heldCnt
  else if o = 0x214 then x.invSupp
  else if o = 0x218 then x.bevLate
  else if o = 0x21C || o = 0x220 then word64 x.lastTb.toNat (o - 0x21C)
  else if o = 0x224 then bf [(11, 0, x.lastFrac), (19, 12, x.lastSrc)]
  else if o = 0x228 || o = 0x22C then word64 (s.hoRemain g) (o - 0x228)
  else if o = 0x230 then x.hoLeft
  else if g = 0 && o = 0x3B0 then
    maskBelow 2 (fun i => s.regB (trgA 0 (0x390 + 4 * i)) 0 && s.trg.inLevel.getD i false)
  else if g = 0 && o = 0x3B4 then bf [(15, 0, (nth s.trg.out 0).late), (31, 16, (nth s.trg.out 1).late)]
  else 0

/-! ### RSV, POND and SOUNDING status (R191, R211) -/

/-- REC_STAT.STATE of a group (R191). -/
def State.recState (s0 : State) (g : Nat) : Nat :=
  let s := s0.closeDue g
  match (nth s.rsv.grp g).run with
  | none => 0
  | some r =>
    if r.ending.isSome || r.stopping then 3
    else if r.mode = 3 then (if r.dropping then 4 else 1)
    else if (nth s.trg.grp g).st == .waitFull then 2 else 1

/-- Unreleased segments or frames in a group's region. -/
def State.unreleased (s : State) (g : Nat) : Nat := ((s.rsv.dir.filter (fun a => a.group == g)).map AcqRec.unrel).sum

/-- Status registers of the RSV window (R191). -/
def State.rsvReg (s : State) (o : Nat) : Nat :=
  let r := s.rsv
  if o = 0 then
    bf [(0, 0, b2n r.missing.isSome), (3, 1, r.missing.getD 7), (4, 4, b2n r.rebuildRun), (5, 5, b2n r.secondFault), (6, 6, b2n r.initDone),
        (13, 7, r.capHwm)]
  else if 0x10 ≤ o && o < 0x24 then
    let k := (o - 0x10) / 4
    bf [(1, 0, (nth r.stk k).st.code), (17, 2, s.sparesLeft k)]
  else if 0x30 ≤ o && o < 0x44 then (nth r.stk ((o - 0x30) / 4)).ce
  else if 0x50 ≤ o && o < 0x64 then (nth r.stk ((o - 0x50) / 4)).ue
  else if o = 0x70 then s.rebuildNow
  else if 0x4000 ≤ o && o < 0x4800 then
    let g := (o - 0x4000) / 0x40
    let x := nth (s.closeDue g).rsv.grp g
    let w := o % 0x40
    if w = 0 then s.recState g
    else if w = 4 then x.acqNum
    else if w = 8 then x.segsDone
    else if w = 0xC then s.unreleased g
    else if w = 0x10 then x.slots
    else if w = 0x14 then x.nextSlot
    else if w = 0x18 then x.dropped
    else if w = 0x1C then x.waitFullCnt
    else 0
  else 0

/-- Status registers of the POND and SOUNDING window (R211). -/
def State.pondReg (s : State) (o : Nat) : Nat :=
  if 0x6000 ≤ o && o < 0x7000 then
    let n := (o - 0x6000) / 0x20
    let x := nth (s.closeDue (s.activeUnit n)).pond.ch n
    let w := o % 0x20
    if w = 0 then
      bf [(1, 0, s.pondMode n), (2, 2, b2n x.banked), (3, 3, x.bank), (4, 4, b2n x.writeout), (5, 5, b2n x.clearing), (6, 6, b2n (s.now < x.decayEnd)),
          (7, 7, b2n (s.borrowed n))]
    else if w = 4 then x.densSweeps
    else if w = 8 then x.densSat
    else if w = 0xC then bf [(15, 0, x.densSkip), (31, 16, x.densInvCol)]
    else if w = 0x10 then bf [(15, 0, x.decayMiss)]
    else 0
  else if 0x7000 ≤ o && o < 0x7200 then
    let g := (o - 0x7000) / 0x10
    let c := s.closeDue g
    let x := nth c.pond.grp g
    let w := o % 0x10
    let sweeps : Nat := match (nth c.rsv.grp g).run with
      | some r => if r.mode = 4 then r.sweeps else 0
      | none => 0
    if w = 0 then bf [(20, 0, sweeps), (21, 21, b2n x.waitBank)]
    else if w = 4 then x.sndNone
    else if w = 8 then x.sndSat
    else 0
  else 0

/-! ### The map (R24, R366) -/

/-- The instance window of R24 an address lies in: its base, and the offset of its shadow half. -/
def instanceOf (a : Nat) : Option (Nat × Nat) :=
  if 0x2000 ≤ a && a < 0x3000 then some (0x2000, 0x800)
  else if 0xF000 ≤ a && a < 0x10000 then some (0xF000, 0x800)
  else if 0x18000 ≤ a && a < 0x20000 then some (0x18000, 0x4000)
  else if 0x20000 ≤ a && a < 0x40000 then some (a - a % 0x1000, 0x800)
  else if 0x40000 ≤ a && a < 0x50000 then some (a - a % 0x800, 0x400)
  else if 0x50000 ≤ a && a < 0x60000 then some (a - a % 0x200, 0x100)
  else if 0x60000 ≤ a && a < 0x70000 then some (0x60000, 0x8000)
  else if 0x70000 ≤ a && a < 0x80000 then some (0x70000, 0x8000)
  else none

/-- The registers of a window of R24 that are no SH fields, in its active half. -/
def State.statusReg (s : State) (a : Nat) : Nat :=
  if a < 0x3000 then s.sprReg (a - 0x2000)
  else if a < 0x10000 then s.lampReg (a - 0xF000)
  else if a < 0x20000 then s.ltnReg (a - 0x18000)
  else if a < 0x40000 then s.acqReg ((a - 0x20000) / 0x1000) (a % 0x1000)
  else if a < 0x50000 then s.trgReg ((a - 0x40000) / 0x800) (a % 0x800)
  else if a < 0x60000 then
    let n := (a - 0x50000) / 0x200
    if a % 0x200 < 0xC0 then s.weirReg n (a % 0x200) else s.calReg n (a % 0x200)
  else if a < 0x70000 then s.rsvReg (a - 0x60000)
  else s.pondReg (a - 0x70000)

/-- The registers at an address read 0 while their domain is off (R67, R131): the trigger I/O registers of window 0 lie in PD43 and are
excepted. -/
def State.darkReg (s : State) (a : Nat) : Bool :=
  if 0x20000 ≤ a && a < 0x40000 then !s.domOn ((a - 0x20000) / 0x1000) && a % 0x1000 != 0x400
  else if 0x40000 ≤ a && a < 0x50000 then !s.domOn (32 + (a - 0x40000) / 0x800 / 8) && !(a < 0x40800 && 0x390 ≤ a % 0x400 && a % 0x400 < 0x3B8)
  else false

/-- A register of a window of R24, active or shadow half. -/
def State.blockReg (s : State) (a : Nat) : Nat :=
  match instanceOf a with
  | none => 0
  | some (base, half) =>
    if s.darkReg a then 0
    else if a < base + half then (if (shReg a).isSome then s.reg a else s.statusReg a)
    else if (shReg (a - half)).isSome then s.shadow (a - half) else 0

/-- What a read of the dword at a BAR0 offset returns (R366, R367). -/
def State.bar0 (s : State) (a : Nat) : Nat :=
  if a < 0x1000 then s.glbReg a
  else if a < 0x2000 then s.pwrReg (a - 0x1000)
  else if a < 0x3000 then s.blockReg a
  else if a < 0x4000 then s.bcnReg (a - 0x3000)
  else if a < 0x8000 then s.tbReg (a - 0x4000)
  else if a < 0xA000 then s.cmdReg (a - 0x8000)
  else if a < 0xC000 then (if a < 0xA100 then (nth s.cp.eqs ((a - 0xA000) / 0x40)).reg (a % 0x40) else 0)
  else if a < 0xD000 then s.errReg (a - 0xC000)
  else if a < 0xE000 then s.kprReg (a - 0xD000)
  else if a < 0xF000 then s.buoyReg (a - 0xE000)
  else if a < 0x10000 then s.blockReg a
  else if a < 0x18000 then s.dmaReg ((a - 0x10000) / 0x400) (a % 0x400)
  else if a < 0x80000 then s.blockReg a
  else if s.kpr.dbg = .closed then 0
  else Config.freeNat (s.freeCtr + a) % 2 ^ 32

end Sys2Proof.Machine
end

