-- ==== Sys2Proof/Machine/Queries.lean ====
section
/-! DEFINITION. Queries, the error log's commands, and the BAR0 reads that have an effect (R239, R302 to R305, R329, R474). -/

namespace Sys2Proof.Machine

/-- NOP (R302). -/
def execNop (q : Nat) (s : State) : Res := runCmd s q 0x00 [] (fun p => pktIndex p == 0) (fun s _ => .done s OK [])

/-- RESULT of IDENTIFY (R303). -/
def identifyResult (s : State) : List Byte :=
  leBytes 2 0xA128 ++ [0] ++ [BitVec.ofNat 8 (bf [(3, 0, s.pcie.gen), (6, 4, s.pcie.width)])] ++
    leBytes 4 ((s.cp.image.map Image.version).getD 0) ++ leBytes 8 Config.dieId.toNat

/-- IDENTIFY (R303). -/
def execIdentify (q : Nat) (s : State) : Res :=
  runCmd s q 0x01 [] (fun p => pktIndex p == 0) (fun s _ => .done s OK (identifyResult s))

/-- RESULT of GET_STATUS (R303). -/
def statusResult (s : State) : List Byte :=
  [BitVec.ofNat 8 s.pwr.st.code, BitVec.ofNat 8 s.kpr.alarm.code, BitVec.ofNat 8 s.kpr.dbg.code, BitVec.ofNat 8 s.pwr.phase.code] ++
    leBytes 4 (maskBelow 32 s.armed) ++
    leBytes 2 (bf [(0, 0, b2n s.pwr.ready), (1, 1, b2n s.rsv.missing.isSome), (2, 2, b2n (s.cp.aOk != s.cp.bOk)), (3, 3, b2n s.cp.lockstep),
      (4, 4, b2n s.spr.lock), (5, 5, b2n s.bcn.aligned), (6, 6, b2n s.tb.anchorValid)]) ++ leBytes 2 s.err.used

/-- GET_STATUS (R303). -/
def execGetStatus (q : Nat) (s : State) : Res :=
  runCmd s q 0x02 [] (fun p => pktIndex p == 0) (fun s _ => .done s OK (statusResult s))

/-- CONTROL_STORE_INFO (R303). -/
def execControlStoreInfo (q : Nat) (s : State) : Res :=
  runCmd s q 0x78 [] (fun p => pktIndex p == 0)
    (fun s _ =>
      let i := s.cp.image.getD {}
      .done s OK (leBytes 4 i.version ++ leBytes 4 i.words ++ leBytes 1 i.source ++ zeros 3 ++ padTo 4 i.digest))

/-! ### RECOVER_REPORT (R293, R304) -/

/-- The header of a recovery report. -/
def Report.header (r : Report) (written : Nat) : List Byte :=
  leBytes 2 r.num ++ leBytes 1 r.kind ++ zeros 1 ++ leBytes 2 r.entries.length ++ leBytes 2 written ++ leBytes 8 r.tb.toNat ++ leBytes 5 r.unitMask ++ zeros 11

/-- One entry of a recovery report. -/
def RepEntry.bytes (e : RepEntry) : List Byte :=
  leBytes 8 e.seq ++ leBytes 1 e.queue ++ leBytes 1 e.opcode ++ leBytes 2 e.tag ++ leBytes 1 e.outcome ++ leBytes 1 (b2n e.posted + 2 * b2n e.owed) ++
    leBytes 2 e.status ++ leBytes 8 e.idx ++ zeros 8

/-- The report in force; before any recovery a header with KIND 0 and no entries, whose TB_COUNT the manual does not state. -/
def State.theReport (s : State) : Report × State :=
  match s.cp.report with
  | some r => (r, s)
  | none => let (k, s) := s.draw 1; ({ num := s.cp.recNum, tb := BitVec.ofNat 64 (Config.freeNat k) }, s)

/-- RECOVER_REPORT (R293, R304). -/
def execRecoverReport (q : Nat) (writeOk : Bool) (s : State) : Res :=
  runCmd s q 0x03 [(48, 16)] (fun p => pktIndex p == 0 && bulkOk p && !(1 ≤ bulkLen p && bulkLen p ≤ 28))
    (fun s e =>
      let (r, s) := s.theReport
      let n := min r.entries.length ((bulkLen e.pkt - 32) / 32)
      let bs := if bulkLen e.pkt = 0 then [] else r.header n ++ (r.entries.take n).flatMap RepEntry.bytes
      withReport s e writeOk bs (fun s => .done s OK (leBytes 2 r.num ++ leBytes 2 r.entries.length ++ leBytes 2 n)))

/-! ### READ_CONFIG (R24, R25, R305) -/

/-- The range lies in the active half of one instance window (R305). -/
def rangeOk (a count : Nat) : Bool :=
  a % 4 == 0 && 1 ≤ count && count ≤ 65536 &&
    (match instanceOf a with | some (base, half) => a + 4 * count ≤ base + half | none => false)

/-- A register in one of the four views of READ_CONFIG. -/
def State.viewReg (s : State) (view a : Nat) : Nat :=
  if view = 0 then s.blockReg a
  else if view = 1 then (if s.darkReg a then 0 else if (shReg a).isSome then s.shadow a else s.blockReg a)
  else if (shReg a).isSome then (s.pendView (view - 1) a).getD 0 else 0

/-- An SH register of the range belongs to a unit that holds fewer generations than the view names (R305). -/
def State.viewMissing (s : State) (view a count : Nat) : Bool :=
  2 ≤ view && (List.range count).any (fun i => (shReg (a + 4 * i)).isSome && (s.pendView (view - 1) (a + 4 * i)).isNone)

/-- READ_CONFIG (R25, R305). -/
def execReadConfig (q : Nat) (writeOk : Bool) (s : State) : Res :=
  runCmd s q 0x0A [(16, 1), (20, 4), (24, 4), (48, 16)]
    (fun p => pktIndex p == 0 && rd p 16 1 ≤ 3 && rangeOk (rd p 20 4) (rd p 24 4) && bulkOk p && (4 < rd p 24 4 || bulkLen p == 0))
    (fun s e =>
      let view := rd e.pkt 16 1
      let a := rd e.pkt 20 4
      let count := rd e.pkt 24 4
      let vals (n : Nat) : List Byte := (List.range n).flatMap (fun i => leBytes 4 (s.viewReg view (a + 4 * i)))
      if s.viewMissing view a count then refuse s STATE
      else if count ≤ 4 then .done s OK (vals count)
      else
        let n := min count (bulkLen e.pkt / 4)
        withReport s e writeOk (vals n) (fun s => .done s OK (leBytes 4 n)))

/-! ### The error log (R329, R474) -/

/-- A report of an entry covers its detections so far. -/
def ErrEntry.report (e : ErrEntry) : ErrEntry := { e with reported := some e.repeats, since := none }

/-- Report entries of the log. -/
def State.reportEntries (s : State) (p : Nat → Bool) : State :=
  { s with err := { s.err with entries := s.err.entries.mapIdx (fun i e => if p i then e.map ErrEntry.report else e) } }

/-- ERROR_READ (R329, R474). -/
def execErrorRead (q : Nat) (writeOk : Bool) (s : State) : Res :=
  runCmd s q 0x70 [(16, 1), (17, 1), (48, 16)]
    (fun p => pktIndex p == 0 && 1 ≤ rd p 17 1 && rd p 16 1 + rd p 17 1 ≤ 64 && bulkOk p && (bulkLen p == 0 || 32 * rd p 17 1 ≤ bulkLen p))
    (fun s e =>
      let first := rd e.pkt 16 1
      let count := rd e.pkt 17 1
      let result := leBytes 1 s.err.used ++ leBytes 1 (b2n s.err.fatal) ++ leBytes 2 s.err.overflow
      if bulkLen e.pkt = 0 then .done s OK result
      else withReport s e writeOk ((List.range count).flatMap (fun i => s.err.entryBytes (first + i)))
        (fun s => .done (s.reportEntries (fun i => first ≤ i && i < first + count)) OK result))

/-- The CARRIED entry that follows the acknowledgement of an entry with unreported repeats (R474); its first detection is the first
unreported one. -/
def ErrEntry.carry (e : ErrEntry) (seq : Nat) : Option ErrEntry :=
  match e.reported, e.since with
  | some r, some (c, top, t, d) =>
    if r < e.repeats then
      some { cls := top, escalated := c < top, carried := true, keeper := e.keeper, block := e.block, code := e.code, inst := e.inst,
             repeats := e.repeats - r - 1, logSeq := seq, firstTb := t, detail := d }
    else none
  | _, _ => none

/-- Acknowledge entry i (R474). -/
def State.ackEntry (s : State) (i : Nat) : State :=
  match s.err.entries.getD i none with
  | none => s
  | some e =>
    let es := s.err.entries.set i none
    let s := { s with err := { s.err with entries := es } }
    match e.carry (s.err.seq + 1) with
    | none => s
    | some c =>
      let j := if e.keeper then some i else (List.range 56).find? (fun k => (es.getD k none).isNone)
      match j with
      | none => s
      | some j => { s with err := { s.err with entries := es.set j (some c), seq := s.err.seq + 1 } }.raiseGlb 0

/-- ERROR_ACK (R329, R474). -/
def execErrorAck (q : Nat) (s : State) : Res :=
  runCmd s q 0x71 [(16, 8)] (fun p => pktIndex p == 0)
    (fun s e =>
      let is := allBelow 64 (fun i => bit (rd e.pkt 16 8) i && (s.err.entries.getD i none).isSome)
      .done (forEach is s State.ackEntry) OK (leBytes 1 is.length))

/-- ERR_ENTRY_REPEAT_READ (R474, R477): a host read of word 2 of an entry reports it. -/
def execErrEntryRepeatRead (i : Nat) (s : State) : Res :=
  .next ((s.reportEntries (fun k => k == i)).completes (leBytes 4 (s.errReg (0x800 + 32 * i + 8)))).tlp

/-- TB_COUNT at instant d Ts from now, where it may be negative just after a wrap: before the count began it was 0 (R237), and
between the gate of a relock and its release it is what the gate left plus a free count (R223). -/
def State.tbNear (s : State) (k : Nat) : Int :=
  let c : Int := s.tb.count.toNat
  if s.tb.counting then
    let t := c + (Config.freeNat k % 129 : Nat) - 64
    if s.tb.wrapAt.any (fun w => decide (s.now ≤ w + 96)) then t else max 0 t
  else if s.spr.relock == some .gated then c + (Config.freeNat k : Nat)
  else c

/-- TB_NOW_LO_READ (R239): the low word at an instant within 64 Ts of the read; the high word and the epoch are latched. -/
def execTbNowLoRead (s : State) : Res :=
  let (k, s) := s.draw 1
  let t : Int := s.tbNear k
  let c : BitVec 64 := BitVec.ofInt 64 t
  let ep := (((s.tb.epoch : Int) + t / 2 ^ 64) % 65536).toNat
  .next ((s.updTb (fun x => { x with latchHi := BitVec.ofNat 32 (hi32 c.toNat), latchEpoch := ep })).completes (leBytes 4 c.toNat)).tlp

end Sys2Proof.Machine
end

