-- ==== Sys2Proof/Machine/Pcie.lean ====
section
/-! DEFINITION. The PCI Express interface: register writes, interrupts, BAR2, errors, function resets, link power and lane faults
(R6, R348, R357 to R382). -/

namespace Sys2Proof.Machine

/-! ### Interrupts that a mask held back (R348, R373) -/

/-- Send the message of every vector whose pending bit is set and which may now be sent. -/
def State.flushMsix (s : State) : State :=
  forEach (List.range 64) s (fun s v =>
    if bit s.pcie.pba v && s.pcie.cfg.msixEnable && !s.pcie.cfg.funcMask && !(nth s.pcie.msix v).masked && s.busOk then
      { s with pcie := { s.pcie with pba := s.pcie.pba - 2 ^ v } }.sendMsix v
    else s)

/-- Bits of `now` that rose from `old`, among those of `stat`. -/
def raised (old now stat : Nat) (b : Nat) : Bool := !bit old b && bit now b && bit stat b

/-- A write of a channel's IRQ_MASK (R348): with PD45 off it is discarded (R431). -/
def State.dmaMask (s : State) (c v : Nat) : State :=
  if !s.domOn 45 || 32 ≤ c then s
  else
    let x := nth s.dma.ch c
    let s := s.updDma c (fun x => { x with irqMask := fld v 3 0 })
    if (List.range 4).any (raised x.irqMask v x.irqStat) then s.signal (12 + c) else s

/-- IRQ_MASK_WRITE (R348, R356). -/
def execIrqMaskWrite (c : Nat) (v : Word) (s : State) : Res := .next (s.tlp.dmaMask c v.toNat)

/-- A write of GLB_IRQ_MASK (R373). -/
def State.glbMask (s : State) (v : Nat) : State :=
  let old := s.pcie.irqMask
  let s := s.updPcie (fun p => { p with irqMask := fld v 3 0 })
  forEach (List.range 4) s (fun s b => if raised old v s.pcie.irqStat b then s.signal (44 + b) else s)

/-- GLB_IRQ_MASK_WRITE (R373, R382). -/
def execGlbIrqMaskWrite (v : Word) (s : State) : Res := .next (s.tlp.glbMask v.toNat)

/-- A change of one MSI-X table entry. -/
def State.updMsix (s : State) (v : Nat) (f : MsixEntry → MsixEntry) : State := (s.updPcie (fun p => { p with msix := upd p.msix v f })).flushMsix

/-- MSIX_UNMASK (R373). -/
def execMsixUnmask (v : Nat) (s : State) : Res := .next (s.tlp.updMsix v (fun e => { e with masked := false }))

/-! ### AER (R374, R475) -/

/-- A correctable error: its report and log entry PCIE 3. -/
def State.aerCor (s : State) (b lane : Nat) : State :=
  let s := s.corReport b
  s.log CORRECTED bPCIE 3 lane s.pcie.cfg.aerCor

/-- An uncorrectable error: its report and log entry PCIE 4; the header the log carries is the TLP's own, a free value. -/
def State.aerUnc (s : State) (b : Nat) (advisory : Bool := false) : State :=
  let (k, s) := (s.uncReport b advisory).draw 1
  s.log CONTAINED bPCIE 4 0 (lo32 s.pcie.cfg.aerStatus + 2 ^ 32 * (Config.freeNat k % 2 ^ 32))

/-- A corrected error on a lane: it counts towards R379 in its second, and GLB_LANE_ERR counts that second once (R382). -/
def State.laneSecond (s : State) (lane : Nat) : State :=
  let sec := s.now / s.fs
  let same := s.pcie.laneSec.getD lane none == some sec
  let s := s.updPcie (fun p => { p with laneHits := upd p.laneHits lane (fun n => if same then n + 1 else 1) })
  if same then s
  else s.updPcie (fun p => { p with laneErr := upd p.laneErr lane (fun n => satAdd 255 n 1), laneSec := p.laneSec.set lane (some sec) })

/-- AER positions of the correctable errors of R374, in its order; and of Malformed TLP, Receiver Overflow, Flow Control Protocol and
Data Link Protocol Error. PRESUMED: the positions of the PCI Express specification (notes/assumptions/57.md). -/
def corBit (i : Nat) : Nat := [0, 6, 7, 12, 8].getD i 0
def protoBit (i : Nat) : Nat := [18, 17, 13, 4].getD i 18

/-- The link enters Recovery (R379, R382). -/
def Pcie.recover (p : Pcie) : Pcie :=
  if p.link == .recovery then p else { p with link := .recovery, retrainCnt := satAdd 65535 p.retrainCnt 1 }

/-- RECEIVED_TLP_ERROR (R374): a Replay Num Rollover retrains the link (PRESUMED: PCI Express's own rule, notes/assumptions/57.md). -/
def execReceivedTlpError (e : TlpError) (s0 : State) : Res :=
  if !s0.pcie.up then .next s0
  else
    let s := s0.tlp
    match e with
    | .correctable i lane =>
      if lane < 4 then
        let s := (s.laneSecond lane).aerCor (corBit i) lane
        .next (if i = 4 then s.updPcie Pcie.recover else s)
      else .next s
    | .poisonedWrite => .next (s.aerUnc 12)
    | .poisonedCpl => .next (s.aerUnc 12)
    | .unsupported posted =>
      let s := s.aerUnc 20
      .next (if posted then s else { s with lastRead := { unsupported := true, ecrc := s.pcie.cfg.ecrcGen } })
    | .unexpectedCpl => .next (s.aerUnc 16)
    | .ecrc => .next (if s.pcie.cfg.ecrcChk then s.aerUnc 19 else s)
    | .protocol k => .next (s.aerUnc (protoBit k))

/-! ### BAR2 (R368 to R371) -/

/-- BAR2_WRITE (R368, R374). -/
def execBar2Write (_off : Nat) (s : State) : Res :=
  .next ((s.tlp.updPcie (fun p => { p with bar2WrDrop := satAdd 65535 p.bar2WrDrop 1 })).aerUnc 20 true)

/-- A BAR2 read ends with Completer Abort (R371). -/
def State.bar2Abort (s : State) (off : Nat) : State :=
  let s := (s.updPcie (fun p => { p with bar2Ca := satAdd 65535 p.bar2Ca 1 })).uncReport 15 true
  { s.log CONTAINED bPCIE 5 0 off with lastRead := { completerAbort := true, ecrc := s.pcie.cfg.ecrcGen } }

/-- Blocks of 64 bytes that a request touches, ascending: its completions are split at their boundaries (R357, R369). -/
def blocksOf (off len : Nat) : List Nat := (List.range ((off + len - 1) / 64 + 1 - off / 64)).map (off / 64 + ·)

/-- Block b of Reservoir cannot be read or rebuilt (R369): counted and logged with its BAR2 offset. -/
def State.bar2Lost (s : State) (b : Nat) : State :=
  (s.updPcie (fun p => { p with bar2Poison := satAdd 65535 p.bar2Poison 1 })).log CONTAINED bPCIE 5 0 (64 * b)

/-- The completion of a BAR2 read (R204, R368 to R371). -/
def State.bar2Data (s : State) (r : Bar2Req) : State :=
  let off := r.off
  let len := r.len
  if 103146323968 ≤ off then s.completes (zeros len)
  else if 103079215104 ≤ off then
    if s.pwr.st == .standby then s.bar2Abort off
    else if !s.domOn 36 then
      let (k, s) := s.draw len
      s.completes ((List.range len).map (fun i => Config.freeByte (k + i)))
    else
      let (bs, s) := s.pondRead (off - 103079215104) len
      s.completes bs
  else if s.pwr.st == .idle || s.pwr.st == .standby || s.selfRefresh then s.bar2Abort off
  else
    let lost := r.ecc.lost.filter (fun b => decide (off < 64 * b + 64 ∧ 64 * b < off + len))
    let s := forEach lost (s.eccApply r.ecc) State.bar2Lost
    let (bs, s) := s.rsvRead off len
    let (k, s) := s.draw len
    let bs := bs.mapIdx (fun i x => if lost.contains ((off + i) / 64) then Config.freeByte (k + i) else x)
    { s with lastRead := { data := bs, poisoned := (blocksOf off len).map lost.contains, ecrc := s.pcie.cfg.ecrcGen } }

/-- BAR2_READ (R368 to R371, R204, R220): while the core runs from the oscillator the read is held. -/
def execBar2Read (off len : Nat) (ecc : EccReport) (s : State) : Res :=
  if len = 0 || 2 ^ 37 ≤ off || 4096 < off % 4096 + len then .next s
  else
    let r : Bar2Req := { off := off, len := len, ecc := ecc }
    if s.spr.fallback then
      .next ({ s.tlp with lastRead := { held := true } }.updPcie (fun p =>
        if p.held.length < 64 then { p with held := p.held ++ [r] } else { p with flow := p.flow ++ [r] }))
    else .next (s.tlp.bar2Data r)

/-! ### Register writes (R6, R366, R367) -/

/-- A 64-bit register with one word written; the low bits of the low word read 0. -/
def putWord (x : BitVec 64) (off v low : Nat) : BitVec 64 :=
  if off = 0 then BitVec.ofNat 64 (hi32 x.toNat * 2 ^ 32 + (v - v % 2 ^ low)) else BitVec.ofNat 64 (lo32 x.toNat + v * 2 ^ 32)

/-- Host writes to one queue's registers (R273, R295, R297, R431). -/
def State.queueWrite (s : State) (q o : Nat) (v : Word) : State :=
  let x := nth s.cp.queues q
  let open_ := (x.st == .disabled || x.st == .suspended) && s.domOn 45
  if o = 0 || o = 4 then (if open_ then s.updQ q (fun x => { x with sqBase := putWord x.sqBase o v.toNat 12 }) else s)
  else if o = 8 || o = 0xC then (if open_ then s.updQ q (fun x => { x with cqBase := putWord x.cqBase (o - 8) v.toNat 12 }) else s)
  else if o = 0x10 then s.qCtlWrite q v
  else if o = 0x14 then (if s.domOn 45 then s.doorbell q v else (s.latch (qRegA q 0x14) v).askWake true)
  else if o = 0x18 then (if s.domOn 45 then s.consume q v else s.latch (qRegA q 0x18) v)
  else s

/-- Host writes to one event queue's registers (R273, R295, R297, R431). -/
def State.eqWrite (s : State) (e o : Nat) (v : Word) : State :=
  let x := nth s.cp.eqs e
  let open_ := (x.st == .disabled || x.st == .suspended) && s.domOn 45
  if o = 0 || o = 4 then (if open_ then s.updEq e (fun x => { x with base := putWord x.base o v.toNat 12 }) else s)
  else if o = 8 then s.eqCtlWrite e v
  else if o = 0xC then (if s.domOn 45 then s.eqHead e v else s.latch (eqRegA e 0x0C) v)
  else s

/-- Host writes to one DMA channel's registers (R332, R348, R356, R431). -/
def State.dmaWrite (s : State) (c o : Nat) (v : Word) : State :=
  let n := v.toNat
  if !s.domOn 45 then s
  else if o = 0 then s.dmaCtl c v
  else if o = 8 || o = 0xC then s.updDma c (fun x => if x.runs then x else { x with progBase := putWord x.progBase (o - 8) n 4 })
  else if o = 0x14 then s.updDma c (fun x => { x with irqStat := x.irqStat - (x.irqStat &&& n) })
  else if o = 0x18 then s.dmaMask c n
  else if o = 0x1C then s.updDma c (fun x => { x with credit := satAdd 65535 x.credit (fld n 15 0) })
  else if o = 0x24 then s.updDma c (fun x => { x with maxRd := if 1 ≤ fld n 9 0 && fld n 9 0 ≤ 512 then fld n 9 0 else x.maxRd })
  else s

/-- Host writes to the GLB window and the MSI-X table (R373, R382). -/
def State.glbWrite (s : State) (o n : Nat) : State :=
  if o = 0xC then s.updPcie (fun p => { p with irqStat := p.irqStat - (p.irqStat &&& n) })
  else if o = 0x10 then s.glbMask n
  else if 0x800 ≤ o && o < 0xC00 then
    let w := o % 16 / 4
    s.updMsix ((o - 0x800) / 16) (fun e =>
      if w = 0 then { e with addr := putWord e.addr 0 n 2 } else if w = 1 then { e with addr := putWord e.addr 4 n 0 }
      else if w = 2 then { e with data := BitVec.ofNat 32 n } else { e with masked := bit n 0 })
  else s

/-- Host writes to the KPR window (R452, R469). -/
def State.kprWrite (s : State) (o n : Nat) : State :=
  let open_ := s.kpr.img == .waitHost || s.kpr.img == .failed
  if o = 0x3C then s.imgBell n
  else if !open_ then s
  else if o = 0x30 || o = 0x34 then s.updKpr (fun k => { k with imgAddr := putWord k.imgAddr (o - 0x30) n 2 })
  else if o = 0x38 then s.updKpr (fun k => { k with imgLen := fld n 19 0 })
  else s

/-- A write of LIM_LATCH (R423): write 1 to clear; with PD48 or PD45 off it is discarded (R431). -/
def State.buoyWrite (s : State) (o n : Nat) : State :=
  let m := if o = 0x28 then n else if o = 0x2C then n * 2 ^ 32 else 0
  if s.domOn 45 && s.domOn 48 then s.updBuoy (fun b => { b with limLatch := b.limLatch - (b.limLatch &&& m) }) else s

/-- A whole write of one BAR0 dword; a register that is read-only, or an SH field, is left unchanged (R6, R366). -/
def State.bar0Write (s : State) (a : Nat) (v : Word) : State :=
  let n := v.toNat
  if a % 4 ≠ 0 then s
  else if a < 0x1000 then s.glbWrite a n
  else if a < 0x8000 then s
  else if a < 0x8400 then s.queueWrite ((a - 0x8000) / 0x80) ((a - 0x8000) % 0x80) v
  else if a < 0xA000 then (if a = 0x8414 then s.abortAll n else s)
  else if a < 0xA100 then s.eqWrite ((a - 0xA000) / 0x40) ((a - 0xA000) % 0x40) v
  else if a < 0xD000 then s
  else if a < 0xE000 then s.kprWrite (a - 0xD000) n
  else if a < 0xF000 then s.buoyWrite (a - 0xE000) n
  else if 0x10000 ≤ a && a < 0x18000 then s.dmaWrite ((a - 0x10000) / 0x400) (a % 0x400) v
  else s

/-- A host write of a configuration-space field (R357 to R365, R374, R375): the field's value in v, sizes in bytes and the completion
timeout in microseconds, 0 for disabled. -/
def State.cfgWrite (s : State) (f : CfgField) (v : Nat) : State :=
  let set (g : PciCfg → PciCfg) : State := s.updPcie (fun p => { p with cfg := g p.cfg })
  match f with
  | .msixEnable => (set (fun c => { c with msixEnable := bit v 0 })).flushMsix
  | .funcMask => (set (fun c => { c with funcMask := bit v 0 })).flushMsix
  | .pmeEn => set (fun c => { c with pmeEn := bit v 0 })
  | .pmeStatusClear => if bit v 0 then (set (fun c => { c with pmeStatus := false })).updPcie (fun p => { p with wakeN := false }) else s
  | .mps => set (fun c => { c with mps := if v = 128 || v = 256 || v = 512 then v else c.mps })
  | .mrrs => set (fun c => { c with mrrs := if [128, 256, 512, 1024, 2048, 4096].contains v then v else c.mrrs })
  | .extTag => set (fun c => { c with extTag := bit v 0 })
  | .tag10 => set (fun c => { c with tag10 := bit v 0 })
  | .cplTimeout => set (fun c => { c with cplTimeout := v })
  | .ecrcGen => set (fun c => { c with ecrcGen := bit v 0 })
  | .ecrcChk => set (fun c => { c with ecrcChk := bit v 0 })
  | .ptmEn => set (fun c => { c with ptmEn := bit v 0 })
  | .busMaster => set (fun c => { c with busMaster := bit v 0 })
  | .memSpace => set (fun c => { c with memSpace := bit v 0 })
  | .bar0 => set (fun c => { c with bar0 := BitVec.ofNat 64 (v - v % 2 ^ 20) })
  | .bar2 => set (fun c => { c with bar2 := BitVec.ofNat 64 (v - v % 2 ^ 37) })
  | .uieMask => set (fun c => { c with aerMask := setFld c.aerMask 22 22 (b2n (bit v 0)) })
  | .aerMask => set (fun c => { c with aerMask := lo32 v })
  | .aerSev => set (fun c => { c with aerSev := lo32 v })
  | .corMask => set (fun c => { c with corMask := lo32 v })
  | .errEn => set (fun c => { c with errEn := fld v 3 0 })
  | .aspm => set (fun c => { c with aspm := fld v 1 0 })
  | .l1sub => set (fun c => { c with l1sub := fld v 1 0 })
  | .aerClear => set (fun c => { c with aerStatus := c.aerStatus - (c.aerStatus &&& lo32 v), aerCor := c.aerCor - (c.aerCor &&& hi32 v) })

/-- REGISTER_WRITE (R6, R367): a BAR0 write with a byte enable clear is discarded and counted. -/
def execRegisterWrite (t : RegTarget) (v : DWord) (be : BitVec 4) (s0 : State) : Res :=
  let s := s0.tlp
  match t with
  | .bar0 a =>
    if be ≠ 15 then .next (s.updPcie (fun p => { p with bar0BadWr := satAdd 65535 p.bar0BadWr 1 }))
    else .next (s.bar0Write a (BitVec.ofNat 32 v.toNat))
  | .cfg f => .next (s.cfgWrite f v.toNat)
  | .turnOff => .next (if s.pcie.up && s.pcie.cfg.d3hot then s.updPcie (fun p => { p with link := .l23 }) else s)

/-! ### Completion timeout (R286, R349, R363) -/

/-- The host read the timeout names is outstanding. -/
def State.outstanding (s : State) : TimeoutReq → Bool
  | .dma c r => decide (c < 32) && s.domOn 45 && (nth s.dma.ch c).outstanding.contains (r, true)
  | .fetch q => s.readsQueue q
  | .table q => s.readsTable q

/-- COMPLETION_TIMEOUT (R272, R286, R349, R363, R374). -/
def execCompletionTimeout (r : TimeoutReq) (s : State) : Res :=
  if s.pcie.cfg.cplTimeout = 0 || !s.outstanding r then .next s
  else
    let s := s.aerUnc 14
    match r with
    | .dma c d => .next (s.dmaResponse c d .hostError)
    | .fetch q => .next (s.fetchError q)
    | .table q => .next (s.endCommand q PARAM_RANGE true)

/-! ### Function resets (R294, R355, R376, R377) -/

/-- Configuration space after an FLR: reset values but for the sticky and link fields. -/
def PciCfg.flr (c : PciCfg) : PciCfg :=
  { mps := c.mps, ecrcGen := c.ecrcGen, ecrcChk := c.ecrcChk, aerMask := c.aerMask, aerSev := c.aerSev, corMask := c.corMask,
    aerStatus := c.aerStatus, aerCor := c.aerCor }

/-- The host interface after an FLR (R376). -/
def Pcie.flr (p : Pcie) : Pcie := { p with cfg := p.cfg.flr, msix := List.replicate 64 {}, pba := 0, irqMask := 0, wakeN := false, held := [], flow := [] }

/-- An FLR stops a channel as ENABLE 0 does; its registers return to reset values once it has stopped (R355). -/
def DmaCh.flr (x : DmaCh) : DmaCh := let y := x.stop; if y.st == .stopping then { y with rst := true } else {}

/-- A queue after a reset other than a cold one (R294, R295). -/
def Queue.suspend (x : Queue) : Queue :=
  if x.st == .disabled || x.st == .suspended then x else { x with st := .suspended, sqTail := x.sqHead, heldTail := none }
/-- An event queue after such a reset. -/
def EventQueue.suspend (x : EventQueue) : EventQueue := if x.st == .disabled then x else { x with st := .suspended }

/-- Every queue and event queue is SUSPENDED (R294). -/
def Cp.suspendAll (c : Cp) : Cp := { c.stopThreads with queues := c.queues.map Queue.suspend, eqs := c.eqs.map EventQueue.suspend }

/-- The effect of an FLR (R294, R355, R376, R377), reported with RECOVERY KIND 3. -/
def State.flr (s : State) : State :=
  let s := s.updPcie Pcie.flr
  let s := if s.domOn 45 then { s with dma := { s.dma with ch := s.dma.ch.map DmaCh.flr } } else s
  let s := s.dropRolledBack
  (s.updCp Cp.suspendAll).recover { kind := 3 } 0 []

/-- FLR (R377). -/
def execFlr (s : State) : Res := .next s.tlp.flr

/-- A hot reset or a link-down reset acts as an FLR; the link trains again (R376, R377). -/
def State.linkLost (s : State) : State := s.flr.updPcie (fun p => { p with link := .down })

/-- HOT_RESET (R376, R377). -/
def execHotReset (s : State) : Res := .next s.linkLost

/-! ### Function power and the link (R359, R365, R379, R381) -/

/-- D3HOT_ENTER (R365): an event that EQ0 holds already is a power management event. -/
def execD3hotEnter (s : State) : Res :=
  let s := s.tlp.updPcie (fun p => { p with cfg := { p.cfg with d3hot := true } })
  .next (if !(nth s.cp.eqs 0).held.isEmpty || s.stby.any (fun x => x.1 == 0) then s.pme else s)

/-- D0_RETURN (R365): what waited goes on. -/
def execD0Return (s : State) : Res :=
  .next ((s.tlp.updPcie (fun p => { p with cfg := { p.cfg with d3hot := false } })).flushMsix.dmaPump)

/-- log2 of the widest width the lanes free of faults allow (R379, R381), and whether the lanes are reversed; none with no lane left. -/
def laneWidth (faults : Nat) : Option (Nat × Bool) :=
  if faults = 0 then some (2, false)
  else if !bit faults 0 && !bit faults 1 then some (1, false)
  else if !bit faults 2 && !bit faults 3 then some (1, true)
  else if !bit faults 0 then some (0, false)
  else if faults = 15 then none
  else some (0, true)

/-- The link state the power state holds a trained link in: L1 in IDLE and STANDBY (R13, R364). -/
def State.linkUp (s : State) : LinkSt := if s.pwr.st == .idle || s.pwr.st == .standby then s.pcie.cfg.rest else .l0

/-- More than 65,536 corrected errors of a lane in one second (R379). -/
def State.laneWorn (s : State) (lane : Nat) : Bool :=
  s.pcie.laneSec.getD lane none == some (s.now / s.fs) && decide (65536 < s.pcie.laneHits.getD lane 0)

/-- LANE_FAULT (R379, R381): the link enters Recovery, which PCIE_LINK_UP ends at a width its remaining lanes allow; with no lane left it is
down, which acts as an FLR (R377). Cause 0 is the error rate, 1 a symbol lock not regained in Recovery. -/
def execLaneFault (lane cause : Nat) (s : State) : Res :=
  if 4 ≤ lane || bit s.pcie.laneFault lane || !(s.pcie.up || s.pcie.link == .recovery) || (cause = 0 && !s.laneWorn lane) then .next s
  else
    let first := s.pcie.laneFault == 0
    let faults := s.pcie.laneFault + 2 ^ lane
    let s := s.updPcie (fun p => { p.recover with laneFault := faults })
    let s := if first then s.log DEGRADED bPCIE 1 lane cause else s.log FATAL bPCIE 2 lane cause
    .next (if (laneWidth faults).isNone then s.linkLost else s)

/-- PCIE_LINK_UP (R359, R376, R379): training or Recovery ends in L0, or L1 in IDLE and STANDBY (R364), at a rate and a width both ends and
the lanes allow, and what waited goes on. Training from Detect passes through Recovery as often as it likes, and at least once at a rate above
2.5 GT/s: a free count (notes/assumptions/115.md). -/
def execPcieLinkUp (gen width : Nat) (flit : Bool) (s : State) : Res :=
  match laneWidth s.pcie.laneFault with
  | none => .next s
  | some (w, r) =>
    if s.pcie.up || gen = 0 || 6 < gen || w < width || !s.domOn 44 || !s.pwr.resetN || !s.pwr.perstN then .next s
    else
      let (k, s) := s.draw 1
      let entries := if s.pcie.link == .recovery then 0 else b2n (1 < gen) + Config.freeNat k
      let s := s.updPcie (fun p =>
        { p with link := s.linkUp, gen := gen, width := width, flit := flit || gen == 6, reversed := r, retrainCnt := satAdd 65535 p.retrainCnt entries,
                 speedChgCnt := if p.gen = 0 || (p.gen = gen && p.width = width) then p.speedChgCnt else satAdd 65535 p.speedChgCnt 1 })
      .next (s.flushMsix.dmaPump)

end Sys2Proof.Machine
end

