-- ==== Sys2Proof/Machine/Power.lean ====
section
/-! DEFINITION. The power sequencer: domains, power states and domain restarts (R13, R14, R325, R326, R424 to R434, R447 to R449). -/

namespace Sys2Proof.Machine

/-! ### What a block loses with its domain (R13, R67, R102, R128, R158, R210, R262, R401, R413, R422) -/

/-- SH fields of a domain's blocks take their reset values (R43). -/
def State.loseFields (s : State) (d : Nat) : State := { s with cfg := s.cfg.filter (fun p => regDom p.1 ≠ d) }

/-- A spare's place, without what it gathered as a shadow. -/
def Spare.keep (x : Spare) : Spare := { pos := x.pos, inService := x.inService, retired := x.retired, shadow := x.shadow }

/-- What a channel's calibration keeps through a loss of PDq or a warm reset (R102, R441); positions found failing are found again. The active
set and its copy are gone: foreground calibration rebuilds the set. -/
def CalCh.keep (c : CalCh) (now : Nat) : CalCh :=
  { history := c.history, noSpare := c.noSpare, skewCorr := c.skewCorr, noneLeft := c.noneLeft, failedSubs := c.failedSubs, lastTemp := c.lastTemp,
    copyCorr := c.copyCorr, failSpans := if c.noneLeft.isEmpty then c.failSpans.stop now else c.failSpans, winDone := c.winDone,
    sc64 := c.sc64.keep, sc65 := c.sc65.keep }

/-- PDq is off. -/
def State.loseQuad (s0 : State) (q : Nat) : State :=
  let s := s0.remember.updQuad q (fun _ => {})
  forEach [4 * q, 4 * q + 1, 4 * q + 2, 4 * q + 3] s (fun s n =>
    ((s.setCal n .cold).updAcqCh n (fun _ => { deadAt := some s.now, period := s.now })).updCal n (fun c => c.keep s.now))

/-- PD32 + k is off. -/
def State.loseWeir (s : State) (k : Nat) : State :=
  let s := forEach (List.range 32) s.remember (fun s n => s.updWeir (32 * k + n) (fun _ => { satTo := s.now * s.rate (32 * k + n) }))
  forEach (List.range 8) s (fun s g => (s.updTrg (8 * k + g) (fun _ => {})).updSnd (8 * k + g) (fun _ => {}))

/-- A TRIG_OUT whose domain restarts: EN takes its reset value 0, so it idles until its fields are staged again; what it has counted stays
(R158). -/
def TrigOut.lose (o : TrigOut) : TrigOut := { late := o.late }

/-- The timebase without its fields: the count, its epoch and the anchor (R262), and the groups' numberings (R226). -/
def Tb.keep (t : Tb) : Tb :=
  { count := t.count, counting := t.counting, epoch := t.epoch, grpOfs := t.grpOfs, grpEpoch := t.grpEpoch, steps := t.steps, bases := t.bases,
    anchorTb := t.anchorTb, anchorFrac := t.anchorFrac, anchorValid := t.anchorValid, fromBeacon := t.fromBeacon, anchorSec := t.anchorSec }

/-- Beacon without its fields (R262): a port that is out of service stays so (R18). -/
def Bcn.keep (b : Bcn) (link : BcnLink) : Bcn :=
  { ports := b.ports.map (fun p => { failed := p.failed, link := if p.failed then .failed else link }) }

/-- Lantern without its fields (R401, R402): an output that is out of service stays so (R18). -/
def Ltn.keep (l : Ltn) : Ltn :=
  { dp := l.dp.map (fun d => { failed := d.failed, st := if d.failed then .failed else .off, hpd := d.hpd }) }

/-- Port p enters DOWN with its domain: logged as DEGRADED (R246, R262). -/
def State.portsDown (s s0 : State) (p : Nat) : State :=
  if (nth s.bcn.ports p).link == .down && (nth s0.bcn.ports p).link != .down then s.log DEGRADED bBCN 1 p (nth s0.bcn.ports p).peerId else s

/-- The command processor loses its supply: its threads and the DMA engine stop (R355, R430). -/
def State.loseCp (s : State) : State :=
  { s.updCp (fun c => { c.stopThreads with st := .stopped }) with dma := {} }

/-- Step 2 of a relock, as a restart of PD42 enters it (R220, R235, R447): all that the gate stops. -/
def State.losePll (s : State) : State :=
  let s := s.markBase.updSpr (fun x =>
    { x with relock := some .gated, next := none, holdOutputs := false, relockTag := none, lock := false, good := 0, fallback := true,
             gateTb := s.tb.count, slewFs := 0, jumpValid := false, ret := none, stuck := false, outs := s.gateOuts })
  let s := ((s.toSpr .relock).updTb (fun t => { t with counting := false })).stacksSr true
  (s.updLtn (fun l => { l with stopped := l.scanning })).rechoose

/-- The link and all that is outstanding on it is gone (R376). -/
def State.loseLink (s : State) : State :=
  let s := s.updPcie (fun p => { p with link := .down })
  if s.domOn 45 then
    let s := s.dmaHaltDue .host 8
    { s with dma := { s.dma with ch := s.dma.ch.map DmaCh.dropHost } }.dmaPump
  else s

/-- Commands that wait for Buoy when PD48 goes off end with STATE. -/
def State.loseBuoy (s : State) : State :=
  let s := s.finishWaits (fun e => match e.wait with | some (.convert _) => true | _ => false) STATE (fun _ => [])
  { s with buoy := {} }

/-- What the block of PDd loses as its rail falls. -/
def State.loseDomain (s : State) (d : Nat) : State :=
  let s := if d = 42 then s else s.loseFields d
  if d < 32 then s.loseQuad d
  else if d < 36 then s.loseWeir (d - 32)
  else if d = 36 then { s with pond := { grp := s.pond.grp } }
  else if d = 42 then s.losePll
  else if d = 43 then
    let s0 := s
    let s := { s with tb := s.tb.keep, bcn := s.bcn.keep .down, trg := { s.trg with inLevel := [false, false], ahead := [], out := s.trg.out.map TrigOut.lose } }
    forEach (List.range 4) s (fun s p => s.portsDown s0 p)
  else if d = 44 then s.loseLink
  else if d = 45 then s.loseCp
  else if d = 46 then
    let s := forEach [0, 1] s (fun s k => if (nth s.ltn.dp k).failed then s else s.dpTo k .off)
    { s with ltn := s.ltn.keep }
  else if d = 47 then { s with lamp := {} }
  else if d = 48 then s.loseBuoy
  else s

/-- The condition of an alarm source holds, or not (SRC_NOW, R469). -/
def State.setNow (s : State) (src : Nat) (b : Bool) : State :=
  s.updKpr (fun k => { k with srcNow := setFld k.srcNow src src (b2n b) })

/-- The sequencers resume from the state that the journal records (R430). -/
def State.resumeStore (s : State) : State :=
  s.updCp (fun c => { c with st := if c.restart.isSome then .restarting else .running })

/-- PD45 is on again: a retained control store whose digest matches resumes; one that differs raises IMAGE, and is loaded and verified
again before the wake goes on (R430). Whether it differs, and the alarm's DETAIL, are free. -/
def State.wakeStore (s : State) : State :=
  let s := (s.updDom 45 (fun x => { x with lowPower := false })).updPwr (fun p => { p with retained := false })
  let (k, s) := s.draw 2
  if Config.freeBool k then s.resumeStore
  else
    let s := (s.setNow 3 true).raiseAlarm 3 (Config.freeNat (k + 1))
    let s := s.updKpr (fun x => { x with img := if x.imgSource = 1 then .waitHost else .loading })
    s.updPwr (fun p => { p with trans := p.trans.map (fun t => { t with steps := match t.steps with | d :: r => d :: .reload :: r | [] => [] }) })

/-- What the block of PDd does once its rail is up and it is released (R75, R102, R120, R188, R289, R401, R413,
R430): what a generation put into the fields of an unpowered Lantern or lamp matrix is gone. -/
def State.gainDomain (s : State) (d cause : Nat) : State :=
  if d < 32 then s.updQuad d (fun x => { x with fgRun := true })
  else if d < 36 then forEach (List.range 32) s.remember (fun s i =>
    let n := 32 * (d - 32) + i
    (s.syncReset n).updCal n (fun c => { c with active := c.copySet, skewCorr := c.copyCorr }))
  else if d < 42 then (if d < 37 then s else s.startRebuild (d - 37))
  else if d = 45 then
    if cause = 3 then s.startRestart { kind := 5, domain := 45 }
    else if cause = 1 then s.wakeStore
    else s
  else if d = 46 || d = 47 then s.loseFields d
  else s

/-! ### Low-power holds (R187, R230, R364) -/

/-- Mark a range of domains as in low power, or not. -/
def State.setLow (s : State) (ds : List Nat) (b : Bool) : State := forEach ds s (fun s d => s.updDom d (fun x => { x with lowPower := b }))

/-- PD37 to PD41 enter or leave self-refresh; a relock holds them in it until its release (R187). -/
def State.stacksLow (s : State) (b : Bool) : State :=
  let s := s.setLow [37, 38, 39, 40, 41] b
  if !b && s.spr.relock == some .gated then s else s.stacksSr b

/-- PD42 enters or leaves low-power lock (R230); in it a SECONDARY is in HOLD (R253). -/
def State.lockLow (s : State) (b : Bool) : State :=
  let s := s.setLow [42] b
  (s.updSpr (fun x => if b && x.st == .locked then { x with st := .lpLock } else if !b && x.st == .lpLock then { x with st := .locked } else x)).rechoose

/-- PD44 is held in L1 in IDLE and STANDBY, and is not in ACTIVE (R364). -/
def State.linkLow (s : State) (b : Bool) : State :=
  (s.setLow [44] b).updPcie (fun p => if b && p.link == .l0 then { p with link := p.cfg.rest } else if b then p else p.wake)

/-! ### Steps of the sequencer (R425, R428, R434) -/


/-- Domains that are on, as a mask (R326). -/
def State.onMask (s : State) : Nat := maskBelow 50 (fun d => s.domOn d)

/-- The next step of the sequence that runs. -/
def Pwr.popStep (p : Pwr) : Pwr := { p with trans := p.trans.map (fun t => { t with steps := t.steps.drop 1 }) }

/-- A ramp begins; a block whose rail falls loses its state. -/
def State.ramp (s : State) (d : Nat) (up : Bool) : State :=
  let s := s.updPwr (fun p => p.startRamp d up)
  if up then s else s.loseDomain d

/-- RESULT of POWER_STATE (R325). -/
def powerResult (old new time : Nat) : List Byte := leBytes 1 old ++ leBytes 1 new ++ zeros 2 ++ leBytes 4 time

/-- The steps of R428 from one state to another, in order; none where the table gives none. -/
def powerSteps (mask : Nat) : PowerSt → PowerSt → Option (List PStep)
  | .active, .idle => some (toIdle ++ [.post])
  | .active, .standby => some (toIdle ++ toStandby)
  | .active, .off => some (toIdle ++ toStandby ++ [.stacksOff, .off 44, .off 43, .off 42])
  | .idle, .standby => some toStandby
  | .idle, .active => some ([.lowLock false, .selfRefresh false] ++ (allBelow 49 (bit mask)).map PStep.on ++ [.post])
  | _, _ => none
where
  toIdle : List PStep := [.off 47, .off 46] ++ (List.range 36).reverse.map PStep.off ++ [.selfRefresh true, .lowLock true]
  toStandby : List PStep := [.off 48, .off 36, .post, .retain, .off 45]

/-- The stack domains, which change only together (R187). -/
def stackDoms : List Nat := [37, 38, 39, 40, 41]

/-- POWER_STATE's refusals (R14, R325). -/
def State.powerBusy (s : State) (target : Nat) : Bool :=
  target ≠ 0 && (s.anyArmed || s.acq.skew.isSome || s.bcn.meas.isSome || s.dma.ch.any DmaCh.runs) ||
    target = 3 && s.rsv.dir.any (fun a => !a.segs.isEmpty)

/-- A power state of its code. -/
def PowerSt.ofCode (n : Nat) : PowerSt := if n = 0 then .active else if n = 1 then .idle else if n = 2 then .standby else .off

/-- POWER_STATE begins to act (R325, R428, R434, R443, R460). -/
def powerAct (s : State) (e : JEntry) : CmdOut :=
  let target := rd e.pkt 16 1
  let new := PowerSt.ofCode target
  let old := s.pwr.st
  if s.powerBusy target then refuse s STATE
  else if new == old then .done s OK (powerResult old.code old.code 0)
  else match powerSteps s.pwr.activeMask old new with
    | none => refuse s STATE
    | some steps =>
      let down := new == .standby || new == .off
      let s := if down then (s.updPwr (fun p => { p with ready := false })).closeDebug else s
      let t : Trans := { target := some new, old := old, steps := steps, start := s.now, cmd := some e.idx }
      .wait (s.updPwr (fun p => { p with trans := some t })) (.power true) (some [])

/-- The journal entry of the POWER_STATE that waits to act, the lowest index first (R434). -/
def Cp.powerWaiting (c : Cp) : Option JEntry := c.jrn.find? (fun e => e.wait == some (.power false))

/-- A sequence of steps has ended (R326, R428, R443); a restart that waited for it runs only where its domain is still on (R449). -/
def State.endTrans (s : State) (t : Trans) : State :=
  let time := s.usSince t.start
  let s := s.updPwr (fun p => { p with trans := none, restartDue := p.restartDue.filter (fun x => (nth p.doms x.1).st == .on) })
  match t.target with
  | some st =>
    let s := s.updPwr (fun p => { p with st := st, lastTime := time, ready := p.ready || st == .active || st == .idle })
    if st == .active then s.linkLow false else if st == .off then s else s.linkLow true
  | none =>
    if t.cause = 0 then s.finishWaits (fun e => e.wait == some .domains) OK (fun _ => leBytes 8 s.onMask ++ leBytes 4 time) else s

/-! ### Domain restarts (R447 to R449, R498) -/

/-- Units that hold a field of a block in PDd (R43). -/
def State.domUnits (s : State) (d : Nat) : List Nat :=
  if d < 32 then [4 * d, 4 * d + 1, 4 * d + 2, 4 * d + 3].map s.activeUnit
  else if d < 36 then (List.range 8).map (8 * (d - 32) + ·) ++ (List.range 32).map (fun n => s.activeUnit (32 * (d - 32) + n))
  else if d = 36 then (List.range 128).map s.activeUnit
  else if d = 42 then [35] else if d = 43 then [32] else if d = 46 then [33] else if d = 47 then [34] else []

/-- The units of a list whose staging set or pending generations hold anything, as a mask (R44). -/
def State.heldMask (s : State) (us : List Nat) : Nat :=
  maskBelow 36 (fun u => us.contains u && (!(nth s.units u).staged.isEmpty || !(nth s.units u).pend.isEmpty))

/-- The staging sets and pending generations of the units of a mask are discarded (R42 to R44). -/
def State.discardUnits (s : State) (mask : Nat) : State :=
  { s with units := s.units.mapIdx (fun u x => if bit mask u then { x with staged := [], pend := [], discarded := true } else x) }

/-- Group g is armed or streaming and a restart of PDd ends it (R70, R126, R158, R210, R235): it includes every channel of its unit
(R69, R130). -/
def State.endedBy (s : State) (d g : Nat) : Bool :=
  let ms := s.unitChans g
  if d < 32 then ms.any (fun n => n / 4 == d)
  else if d < 36 then g / 8 == d - 32 || ms.any (fun n => n / 32 == d - 32)
  else if d = 36 then ms.any (fun n => s.lead n && (s.pondMode n = 1 || s.pondMode n = 2))
  else if d = 43 then (s.usedSlots g).any (fun k => 0x80 ≤ s.slotSrc g k && s.slotSrc g k ≤ 0x8F)
  else d = 42

/-- A command before its micro-commit needs a block of PDd (R498). -/
def waitsOn (d : Nat) (e : JEntry) : Bool :=
  match e.wait with
  | some .beacon | some .timeMap | some .timeLoad => d = 43
  | some (.convert _) => d = 48
  | _ => false

/-- Restarts of PDd within the last 60 s (R448). -/
def State.recentRestarts (s : State) (d : Nat) : Nat := (nth s.pwr.doms d).restartAt.countP (fun t => s.within 60 t)

/-- A restart of PDd begins (R447, R448): containment, journal, and the domain is switched off. The sequencer is busy with it from here on,
so that an EQ0 event of it starts its wake once it has ended (R432). -/
def State.beginRestart (s : State) (d cause : Nat) : State :=
  let held := 3 ≤ s.recentRestarts d
  let t : Trans := { old := s.pwr.st, steps := if held then [.off d] else [.off d, .on d], cause := if held then 4 else 3, start := s.now }
  let s := (s.updPwr (fun p => { p with trans := some t })).updDom d (fun x =>
    { x with restartCnt := satAdd 255 x.restartCnt 1, railFault := x.railFault || cause = 0, restartAt := (s.now :: x.restartAt).take 4 })
  let s := if held then s.log FATAL bPWR 2 d (s.recentRestarts d) else s.log CONTAINED bPWR 1 d cause
  let was := allBelow 32 s.armed
  let s := if 37 ≤ d ∧ d ≤ 41 then s.stackFault (d - 37) (if held then 6 else 3 + cause) else s
  let first := (was.filter (fun g => !s.armed g)).map s.endedGroup
  let (s, ended) := s.endGroups (s.endedBy d) .fault (d ≠ 36)
  let mask := s.heldMask (s.domUnits d)
  let s := s.discardUnits mask
  let s := if d = 43 then s.copyFail 1 1 else s
  let s := if d = 45 then s.cancelForces else s
  let s := if d = 36 && s.domOn 45 then (s.dmaHaltDue .pond 7).dmaPump else s
  if d = 45 then s
  else s.recoverDomain { kind := 5, domain := d, unitMask := mask, lost := fun w => d == 42 && w == .gate } (waitsOn d) (first ++ ended)

/-- PDd must restart: at once, or once the sequence that runs has ended; never when it is off by then (R447, R449). -/
def State.restartDomain (s : State) (d cause : Nat) : State :=
  if 49 ≤ d || !s.domOn d then s
  else if s.pwr.trans.isSome then
    if s.pwr.restartDue.any (fun x => x.1 == d) then s else s.updPwr (fun p => { p with restartDue := p.restartDue ++ [(d, cause)] })
  else s.beginRestart d cause

/-! ### Running the steps -/

/-- The control store enters retention once the completion of the POWER_STATE is posted (R428); false while it is owed. -/
def State.retainStep (s : State) (t : Trans) : State × Bool :=
  if s.cp.jrn.any (fun e => some e.idx == t.cmd && !e.posted) then (s, false)
  else ((s.updDom 45 (fun x => { x with lowPower := true })).updPwr (fun p => { p.popStep with retained := true }), true)

/-- With no sequence running, the next one that is due begins: a wake, a restart, a POWER_STATE that waited (R433, R434, R449).
False when none is due. -/
def State.nextTrans (s : State) : State × Bool :=
  if s.pwr.wakeDue && s.pwr.st == .standby then (s.wake, true)
  else match s.pwr.restartDue with
    | (d, c) :: rest =>
      let s := s.updPwr (fun p => { p with restartDue := rest })
      (if s.domOn d then s.beginRestart d c else s, true)
    | [] =>
      if s.pwr.starting || !s.domOn 45 then (s, false)
      else match s.cp.powerWaiting with
        | some e => (s.conclude e (powerAct s e), true)
        | none => (s, false)

/-- One step that needs no waiting; false when the sequencer waits. -/
def State.seqStep (s : State) : State × Bool :=
  match s.pwr.trans with
  | none => s.nextTrans
  | some t =>
    match t.steps with
    | [] => (s.endTrans t, true)
    | .on d :: _ =>
      let x := nth s.pwr.doms d
      if x.st == .on || x.st == .heldOff then (s.updPwr Pwr.popStep, true)
      else if x.st == .ramp || x.restarting || s.cooling d then (s, false)
      else (s.ramp d true, false)
    | .stacksOff :: _ =>
      let ds := stackDoms.filter (fun d => (nth s.pwr.doms d).st == .on)
      if stackDoms.any (fun d => (nth s.pwr.doms d).st == .ramp) then (s, false)
      else if ds.isEmpty then (s.updPwr Pwr.popStep, true)
      else (forEach ds s (fun s d => s.ramp d false), false)
    | .off d :: _ =>
      let x := nth s.pwr.doms d
      if x.st == .on then (s.ramp d false, false)
      else if x.st == .ramp then (s, false)
      else (s.updPwr Pwr.popStep, true)
    | .selfRefresh b :: _ => ((s.stacksLow b).updPwr Pwr.popStep, true)
    | .lowLock b :: _ => ((s.lockLow b).updPwr Pwr.popStep, true)
    | .post :: _ =>
      let s := s.updPwr Pwr.popStep
      let new := (t.target.getD t.old).code
      (match t.cmd with | some i => s.finish i OK (powerResult t.old.code new (s.usSince t.start)) | none => s, true)
    | .retain :: _ => s.retainStep t
    | .reload :: _ => if s.kpr.img == .verified then (s.resumeStore.updPwr Pwr.popStep, true) else (s, false)

/-- Run steps until one must wait. -/
def State.runSteps : Nat → State → State
  | 0, s => s
  | n + 1, s => match s.seqStep with | (s, true) => s.runSteps n | (s, false) => s

/-- The sequencer goes on. A sequence has at most 60 steps, and at most eight commands wait for it. -/
def State.sequencer (s : State) : State := s.runSteps 512

/-- CQ_POST (R268, R271, R291, R428): post the next completion the queue owes; a sequencer that waited for it goes on. -/
def execCqPost (q : Nat) (s : State) : Res :=
  let s := s.cqPost q
  .next (match s.pwr.trans with
    | some { steps := .retain :: _, .. } => s.sequencer
    | _ => s)

/-- A rail that fell has reached its end: PDd is off, or held off, and posts DOMAIN (R425, R429, R447, R448). -/
def State.rampedOff (s : State) (d cause : Nat) (again : Bool) : State :=
  (s.updDom d (fun x => { x with st := if cause = 4 then .heldOff else .off, cause := cause, restarting := cause = 3 && again,
                                 offAt := some s.now })).domainEvent d

/-- DOMAIN_RAMP_DONE (R425, R426, R429, R430): the ramp of the step that runs has ended. A domain that waited out its 1 ms off began its
ramp when that was over. -/
def execDomainRampDone (s : State) : Res :=
  match s.pwr.trans with
  | none => .next s
  | some t =>
    match t.steps with
    | .on d :: _ =>
      let x := nth s.pwr.doms d
      if !(x.st == .ramp || (x.st == .off && !x.restarting && !s.cooling d)) then .next s
      else
        let s := if x.st == .off then s.ramp d true else s
        let s := s.updDom d (fun x => { x with st := .on, cause := t.cause, offAt := none })
        let s := (if d = 45 then s.flushStby else s).domainEvent d
        .next (((s.gainDomain d t.cause).updPwr Pwr.popStep).sequencer)
    | .off d :: rest =>
      if (nth s.pwr.doms d).st ≠ .ramp then .next s
      else .next (((s.rampedOff d t.cause (!rest.isEmpty)).updPwr Pwr.popStep).sequencer)
    | .stacksOff :: _ =>
      let ds := stackDoms.filter (fun d => (nth s.pwr.doms d).st == .ramp)
      if ds.isEmpty then .next s
      else .next (((forEach ds s (fun s d => s.rampedOff d t.cause false)).updPwr Pwr.popStep).sequencer)
    | _ => .next s

/-- DOMAIN_RESTART_ON (R425, R447): 1 ms after it went off, a restarting domain is switched on again; so is any other that the sequencer
keeps waiting for that. -/
def execDomainRestartOn (d : Nat) (s : State) : Res :=
  if (nth s.pwr.doms d).restarting || s.cooling d then
    .next (s.updDom d (fun x => { x with restarting := false, offAt := none })).sequencer
  else .next s

/-- HEARTBEAT_TIMEOUT (R447). -/
def execHeartbeatTimeout (d : Nat) (s : State) : Res := .next (s.restartDomain d 2).sequencer
/-- UNCORRECTABLE_STATE_ERROR (R447). -/
def execUncorrectableStateError (d : Nat) (s : State) : Res := .next (s.restartDomain d 1).sequencer

/-- A CODE that no rule states: a free one. -/
def State.freeCode (s : State) : Nat × State := let (k, s) := s.draw 1; (Config.freeNat k % 4096, s)

/-- RAIL_COMPARATOR_TRIP (R421, R447): while PD48 is off, the rail of a powered domain is outside ±8 %. -/
def execRailComparatorTrip (d : Nat) (s : State) : Res :=
  if s.domOn 48 || !s.domOn d then .next s
  else
    let (c, s) := s.freeCode
    .next ((s.raiseAlarm 0 (d + 256 * c)).restartDomain d 0).sequencer

/-- TEMP_COMPARATOR_CHECK (R463): in STANDBY and OFF the temperature is judged every 10 ms; TEMP is raised as it goes out of window. -/
def execTempComparatorCheck (out : Bool) (s : State) : Res :=
  if !(s.pwr.st == .standby || s.pwr.st == .off) then .next s
  else
    let was := bit s.kpr.srcNow 2
    let s := s.setNow 2 out
    .next (if out && !was then s.raiseAlarm 2 0 else s)

/-! ### Commands (R325 to R327, R427, R428, R434) -/

/-- POWER_STATE (R14, R325, R428, R434): it acts at once, or once what the sequencer runs has ended. -/
def execPowerState (q : Nat) (s : State) : Res :=
  match runCmd s q 0x60 [(16, 1)] (fun p => pktIndex p == 0 && rd p 16 1 ≤ 3)
    (fun s e =>
      if s.pwr.trans.isSome || s.pwr.starting then .wait s (.power false) none else powerAct s e) with
  | .next s => .next s.sequencer
  | r => r

/-- DOMAIN_CONTROL's own checks, in their order (R68, R126, R131, R187, R210, R326, R427). -/
def State.domainBusy (s : State) (on off : Nat) : Bool :=
  let stack := maskOf 41 37
  (on ||| off) &&& stack ≠ 0 || s.pwr.st ≠ .active || s.pwr.starting ||
    (match s.pwr.trans with | some t => t.target.isSome | none => false) ||
    (List.range 32).any (fun g => match (nth s.rsv.grp g).run with
      | none => false
      | some r =>
        bit off (32 + g / 8) || (s.unitChans g).any (fun n => bit off (n / 4) || bit off (32 + n / 32)) ||
          (bit off 36 && (s.unitChans g).any (fun n => s.lead n && s.pondMode n ≠ 0)) ||
          r.members.any (fun n => bit off (n / 4) || bit off (32 + n / 32)))

/-- DOMAIN_CONTROL (R326, R427). -/
def execDomainControl (q : Nat) (s : State) : Res :=
  match runCmd s q 0x61 [(16, 8), (24, 8)]
    (fun p =>
      let both := rd p 16 8 ||| rd p 24 8
      pktIndex p == 0 && both < 2 ^ 50 && rd p 16 8 &&& rd p 24 8 == 0 && both &&& (maskOf 45 42 ||| maskOf 49 48) == 0)
    (fun s e =>
      let on := rd e.pkt 16 8
      let off := rd e.pkt 24 8
      if s.domainBusy on off then refuse s STATE
      else if s.pwr.trans.isSome then .hold
      else
        let steps := (allBelow 49 (bit on)).map PStep.on ++ ((allBelow 49 (bit off)).reverse).map PStep.off
        let t : Trans := { old := s.pwr.st, steps := steps, cause := 0, start := s.now }
        .wait (s.updPwr (fun p => { p with trans := some t, activeMask := (p.activeMask ||| on) - (p.activeMask &&& off) })) .domains (some [])) with
  | .next s => .next s.sequencer
  | r => r

end Sys2Proof.Machine
end

