-- ==== Sys2Proof/Machine/Buoy.lean ====
section
/-! DEFINITION. Buoy: scans, urgent requests, windows and their alarms (R323, R324, R415 to R421). -/

namespace Sys2Proof.Machine

/-! ### Values (R415) -/

/-- Terms of the series of the inverse hyperbolic tangent: x + x³/3 + x⁵/5 + …, n of them from the k-th on. -/
def atanhSum (x2 : Rat) : Nat → Nat → Rat → Rat
  | 0, _, _ => 0
  | n + 1, k, t => t / (2 * k + 1 : Nat) + atanhSum x2 n (k + 1) (t * x2)

/-- The inverse hyperbolic tangent of a number of magnitude at most 1/3. -/
def atanhQ (x : Rat) : Rat := atanhSum (x * x) 14 0 x

/-- The natural logarithm of a / b, halved or doubled into 2/3 to 4/3 at most `n` times. -/
def lnQ : Nat → Nat → Nat → Rat
  | 0, _, _ => 0
  | n + 1, a, b =>
    if 4 * b < 3 * a then lnQ n a (2 * b) + 2 * atanhQ (1 / 3)
    else if 3 * a < 2 * b then lnQ n (2 * a) b - 2 * atanhQ (1 / 3)
    else 2 * atanhQ (((a : Rat) - b) / ((a : Rat) + b))

/-- Tenths of a degree of an NTC whose divider reads CODE: the B equation with 25 °C as 298.15 K. -/
def ntcValue (code : Nat) : Int :=
  if code = 0 then 1250
  else
    let t : Rat := 1 / (20 / 5963 + lnQ 16 code (4096 - code) / 3435)
    clampI (-400) 1250 (roundAway (10 * t - 5463 / 2))

/-- VALUE of an input's CODE (R415). -/
def buoyValue (i code : Nat) : Int :=
  if i < 50 then roundAway ((code * 2400 : Nat) / (4096 : Rat))
  else if i < 56 then roundAway ((code * 10 : Nat) / (16 : Rat) - 640)
  else if i < 58 then ntcValue code
  else if i < 62 then roundAway ((code * 1200 : Nat) / (4096 : Rat))
  else ((code : Int) - 2048) * 10

/-! ### Scans (R417, R418, R421) -/

/-- Inputs a scan that starts now converts (R417). -/
def Buoy.scanList (b : Buoy) : List Nat := if b.run then allBelow 64 (bit b.mask) else List.range 51

/-- Scans run back to back (R417). -/
def Buoy.backToBack (b : Buoy) : Bool := b.run && b.period == 0

/-- A scan starts, under the settings now in force (R323, R417). -/
def Buoy.startScan (b : Buoy) : Buoy :=
  { b with st := .scanning, scan := b.scanList, scanLim := b.lim, input := b.scanList.headD 0, due := false }

/-- What Buoy does once a conversion outside a scan, or a scan, has ended: a scan that is due starts, else the urgent request that has
waited longest converts (R417, R418). -/
def Buoy.goOn (b : Buoy) : Buoy :=
  if b.due then b.startScan
  else match b.urgents with
    | [] => { b with st := .idle }
    | (i, _) :: _ => { b with st := .urgent, input := i }

/-- BUOY_SCAN_START (R417, R418): a scan is due; one that meets a scan or an urgent conversion starts after it. -/
def execBuoyScanStart (s : State) : Res :=
  if !s.domOn 48 then .next s
  else .next (s.updBuoy (fun b =>
    match b.st with
    | .idle => b.startScan
    | .scanning => { b with due := true, scanLate := satAdd 65535 b.scanLate 1 }
    | .urgent => { b with due := true }))

/-! ### Windows (R419, R420) -/

/-- A rail input of a domain that is off or within its switching ramp is not judged, nor a host window with EN 0 (R419). -/
def State.judged (s : State) (i : Nat) (l : BuoyLim) : Bool := if i < 50 then s.domOn i else l.en

/-- Keeper's alarm and the restart of a fixed window's second consecutive excursion (R420, R447). -/
def State.fixedAlarm (s : State) (i code : Nat) : State :=
  if i = 50 then s.raiseAlarm 2 0 else (s.raiseAlarm 0 (i + 256 * code)).restartDomain i 0

/-- Conditions of RAIL and TEMP as the last judgements leave them: out of window on two consecutive conversions (R420, SRC_NOW). -/
def State.buoySources (s : State) : State :=
  (s.setNow 0 ((s.buoy.outRun.take 50).contains 2)).setNow 2 (s.buoy.outRun.getD 50 0 == 2)

/-- Judge a conversion of input i against its window (R419, R420). -/
def State.judgeInput (s : State) (i code : Nat) (l : BuoyLim) : State :=
  if !s.judged i l then (s.updBuoy (fun b => { b with outRun := upd b.outRun i (fun _ => 0) })).buoySources
  else
    let out := decide (code < l.lo ∨ l.hi < code)
    let run := if out then min 2 (s.buoy.outRun.getD i 0 + 1) else 0
    let cross := if l.fixed then s.buoy.outRun.getD i 0 = 1 && run = 2 else s.buoy.outRun.getD i 0 = 0 && run = 1
    let s := s.updBuoy (fun b =>
      { b with outRun := upd b.outRun i (fun _ => run), limNow := setFld b.limNow i i (b2n out),
               limLatch := if cross then b.limLatch ||| 2 ^ i else b.limLatch })
    let s := s.buoySources
    if !cross then s
    else
      let s := s.raiseGlb 3
      if l.fixed then s.fixedAlarm i code else s.log CORRECTED bBUOY 1 i code

/-! ### Conversions -/

/-- RESULT of MONITOR_READ (R324). -/
def monitorResult (r : BuoyRes) (dropped : Bool) : List Byte :=
  leBytes 2 r.code ++ leBytes 2 (unsgn 16 r.value) ++ leBytes 1 (b2n dropped + 2 * b2n r.stale) ++ zeros 3 ++ leBytes 8 r.tb.toNat

/-- A finished conversion is input i's result (R416, R417). -/
def State.putResult (s : State) (i code : Nat) : State :=
  s.updBuoy (fun b => { b with res := upd b.res i (fun _ => { code := code, stale := false, value := buoyValue i code, tb := s.tb.count, at_ := s.now }) })

/-- The urgent conversion has ended: its command completes, and Buoy goes on (R418). -/
def State.urgentDone (s : State) : State :=
  match s.buoy.urgents with
  | [] => s.updBuoy Buoy.goOn
  | (i, idx) :: rest =>
    let r := nth s.buoy.res i
    let s := s.finishWaits (fun e => e.idx == idx && e.wait == some (.convert i)) OK (fun _ => monitorResult r false)
    s.updBuoy (fun b => ({ b with urgents := rest }).goOn)

/-- One input of the scan has been converted: its result is the input's last scanned one (R324, R417). -/
def Buoy.nextInput (b : Buoy) : Buoy :=
  let b := { b with scanned := upd b.scanned b.input (fun _ => nth b.res b.input) }
  match b.scan.drop 1 with
  | [] => ({ b with scan := [], scanCnt := satAdd 0xFFFFFFFF b.scanCnt 1, due := b.due || b.backToBack }).goOn
  | i :: rest => { b with scan := i :: rest, input := i }

/-- BUOY_CONVERSION_DONE (R416 to R420): CODE of the conversion that runs; the ageing inputs return their last gate. -/
def execBuoyConversionDone (code : Nat) (s : State) : Res :=
  if s.buoy.st == .idle || !s.domOn 48 then .next s
  else
    let i := s.buoy.input
    let code := if 62 ≤ i then s.buoy.gates.getD (i - 62) 2048 else code
    let scanning := s.buoy.st == .scanning
    let l := nth (if scanning then s.buoy.scanLim else s.buoy.lim) i
    let s := (s.putResult i code).judgeInput i code l
    let s := if scanning then s.updBuoy Buoy.nextInput else s.urgentDone
    .next s.sequencer

/-- AGEING_GATE (R416): a 1 s gate of input 62 or 63 completes its count; its code is clamped to 0 to 4,095. -/
def execAgeingGate (i count : Nat) (s : State) : Res :=
  if !s.domOn 48 || i < 62 || 63 < i then .next s
  else
    let code := (clampI 0 4095 (Config.ageingCode i count (nth s.buoy.res 50).code)).toNat
    .next (s.updBuoy (fun b => { b with gates := upd b.gates (i - 62) (fun _ => code) }))

/-! ### Commands (R323, R324) -/

/-- One entry of the limit table keeps R323: codes of 12 bits, EN of one bit, and all 0 for an input whose window is fixed. -/
def limEntryOk (b : List Byte) (i : Nat) : Bool :=
  let o := 8 * i
  if i ≤ 50 then rd b o 8 == 0
  else rd b o 2 ≤ 4095 && rd b (o + 2) 2 ≤ 4095 && rd b (o + 4) 1 ≤ 1 && rd b (o + 5) 3 == 0

/-- The windows of a limit table; those of fixed inputs stay. -/
def loadLimits (b : List Byte) (ls : List BuoyLim) : List BuoyLim :=
  ls.mapIdx (fun i l => if i ≤ 50 then l else { lo := rd b (8 * i) 2, hi := rd b (8 * i + 2) 2, en := rd b (8 * i + 4) 1 == 1 })

/-- Bits of inputs 0 to 50 (R417). -/
def fixedInputs : Nat := 2 ^ 51 - 1

/-- The settings of MONITOR_SCAN_CONFIG (R323). -/
def State.scanConfig (s : State) (p : Packet) (lim : List BuoyLim) : State :=
  s.updBuoy (fun b =>
    { b with mask := rd p 16 8 ||| fixedInputs, run := bit (rd p 24 1) 0, lowPower := bit (rd p 24 1) 1, period := rd p 28 4, lim := lim })

/-- MONITOR_SCAN_CONFIG (R323, R423). -/
def execMonitorScanConfig (q : Nat) (tbl : Table) (s : State) : Res :=
  runCmd s q 0x58 [(16, 8), (24, 1), (28, 4), (48, 16)]
    (fun p => pktIndex p == 0 && rd p 24 1 ≤ 3 && rd p 28 4 ≤ 1000000 && bulkOk p && (bulkLen p == 0 || bulkLen p == 512))
    (fun s e =>
      if bulkLen e.pkt = 0 then
        (if s.domOn 48 then .done (s.scanConfig e.pkt s.buoy.lim) OK [] else refuse s STATE)
      else withTable s e tbl (fun b =>
        if !(List.range 64).all (limEntryOk b) then refuse s PARAM_RANGE
        else if !s.domOn 48 then refuse s STATE
        else .done (s.scanConfig e.pkt (loadLimits b s.buoy.lim)) OK []))

/-- Parameters of MONITOR_READ are in range (R324). -/
def monitorOk (p : Packet) : Bool := pktIndex p == 0 && rd p 16 1 ≤ 63 && rd p 17 1 ≤ 1

/-- MONITOR_READ LAST (R324, R421). -/
def execMonitorReadLast (q : Nat) (s : State) : Res :=
  runCmdSel s q 0x59 (fun p => rd p 17 1 ≠ 1) [(16, 1), (17, 1)] monitorOk
    (fun s e =>
      if !s.domOn 48 then refuse s STATE
      else .done s OK (monitorResult (nth s.buoy.res (rd e.pkt 16 1)) false))

/-- What a dropped request returns: the input's last scanned value, STALE while the input has never been converted (R324). -/
def Buoy.lastScanned (b : Buoy) (i : Nat) : BuoyRes := { nth b.scanned i with stale := (nth b.res i).stale }

/-- MONITOR_READ URGENT (R324, R418, R421): dropped in a scan, else converted at once or in order of arrival. -/
def execMonitorReadUrgent (q : Nat) (s : State) : Res :=
  runCmdSel s q 0x59 (fun p => rd p 17 1 == 1) [(16, 1), (17, 1)] monitorOk
    (fun s e =>
      let i := rd e.pkt 16 1
      if !s.domOn 48 then refuse s STATE
      else if s.buoy.st == .scanning then
        .done (s.updBuoy (fun b => { b with urgDrop := satAdd 65535 b.urgDrop 1 })) OK (monitorResult (s.buoy.lastScanned i) true)
      else
        let s := s.updBuoy (fun b =>
          { b with urgents := b.urgents ++ [(i, e.idx)], st := .urgent, input := if b.st == .urgent then b.input else i })
        .wait s (.convert i) none)

end Sys2Proof.Machine
end

