-- ==== Sys2Proof/Machine/Relock.lean ====
section
/-! DEFINITION. The release of a relock: what waited for it goes on (R216, R220, R223, R229). -/

namespace Sys2Proof.Machine

/-- A held BAR2 read completes. -/
def State.bar2Released (s : State) (r : Bar2Req) : State := let s := s.bar2Data r; { s with released := s.released ++ [s.lastRead] }

/-- The core runs from Spring again: held BAR2 reads complete in their order, and DMA goes on in Reservoir (R220, R371). -/
def State.resumed (s : State) : State :=
  (forEach (s.pcie.held ++ s.pcie.flow) { s.tlp.updPcie (fun p => { p with held := [], flow := [] }) with released := [] } State.bar2Released).dmaPump

/-- LOCK_DECLARED (R216, R217, R220, R226): the comparisons are counted; lock ends the first lock, or a relock whose gate has come, or lets
what is to be done with a returned reference begin. -/
def execLockDeclared (x : LockIn) (s : State) : Res :=
  let first := s.spr.st == .start
  let gated := s.spr.relock == some .gated && s.spr.refOk
  if !s.domOn 42 || !(first || gated || s.spr.ret.isSome) then .next s
  else
    let s := s.compareAll x.cmps
    .next (if !s.spr.lock then s else if first then s.firstLock else if gated then (s.release x.periods).resumed else s.returned)

end Sys2Proof.Machine
end

