-- ==== Sys2Proof/Machine/Reset.lean ====
section
/-! DEFINITION. Cold and warm resets, the boot configuration and start-up (R19, R43, R71, R102, R128, R185, R186, R294, R376, R435 to R446,
R451 to R453, R460, R465, R468). -/

namespace Sys2Proof.Machine

/-! ### Warm reset (R19, R43, R71, R102, R128, R158, R185, R210, R235, R262, R294, R355, R376, R402, R413, R422, R446, R468) -/

/-- A domain through a warm reset: PD42, PD43 and PD49 run on, stacks that are on are held in self-refresh, and every other one is off. -/
def Dom.warm (d : Nat) (x : Dom) : Dom :=
  if (d = 42 ∨ d = 43 ∨ d = 49) ∧ x.st = .on then { st := .on }
  else if 37 ≤ d ∧ d ≤ 41 ∧ x.st = .on then { st := .on, lowPower := true }
  else {}

/-- The sequencer and its records. What PD49 counts goes on; the power state is that of the start-up to come. -/
def Pwr.warm (p : Pwr) (kind : Nat) : Pwr :=
  { doms := p.doms.mapIdx Dom.warm, lastKind := kind, warmCnt := satAdd 65535 p.warmCnt 1, doorbellWake := p.doorbellWake,
    eventWake := p.eventWake, lastTime := p.lastTime, phaseMs := p.phaseMs, coldStart := p.st == .off || (p.starting && p.coldStart),
    resetN := p.resetN, perstN := p.perstN, aon := p.aon }

/-- The command processor (R285, R294): journal, queues and EVT_SEQ are kept, buffered events are lost. -/
def Cp.warm (c : Cp) (rec_ : PendRec) : Cp :=
  { queues := c.queues.map Queue.suspend, eqs := c.eqs.map EventQueue.suspend, jrnA := c.jrnA, jrnB := c.jrnB, aOk := c.aOk, bOk := c.bOk,
    aFailed := c.aFailed, bRebuild := c.bRebuild, nextIdx := c.nextIdx, retiredA := c.retiredA, retiredB := c.retiredB, recNum := c.recNum,
    lastKind := c.lastKind, report := c.report, pendRec := some rec_ }

/-- Reservoir (R18, R185, R191): records, the directory and the degraded state are kept. CAP_HWM counts since reset; CE_CNT and UE_CNT, for
which the spec names no warm-reset rule, stay (DESIGN CHOICE, log 112). -/
def Rsv.warm (r : Rsv) : Rsv :=
  { r with grp := r.grp.map (fun x => { acqNum := x.acqNum }), initDone := false, capHwm := 0,
           stk := r.stk.map (fun k => if k.st == .inService then { k with st := .selfRefresh } else k) }

/-- Spring (R218, R235, R236): the loop keeps running; a relock that had not reached its gate is dropped, and the counts since reset begin
at 0. -/
def Spring.warm (x : Spring) : Spring :=
  let st := if x.st == .lpLock || (x.st == .relock && x.relock == some .buffered) then (if x.lock then .locked else .holdover) else x.st
  { x with st := st, relock := if x.relock == some .gated then x.relock else none, next := none, holdOutputs := false, outHeld := false,
           relockTag := none, stuck := false, refLostCnt := 0, relockCnt := 0, outs := List.replicate 4 {} }

/-- The host interface (R376, R379): reset values, but for the lane faults kept in PD49. -/
def Pcie.warm (p : Pcie) : Pcie := { laneFault := p.laneFault, reversed := p.reversed }

/-- Keeper (R454, R459, R460, R466, R468): keys, alarm state, FAILS, records and an erase that runs are kept; LK fields take reset
values and debug closes. -/
def Kpr.warm (k : Kpr) : Kpr :=
  { alarm := k.alarm, erase := k.erase.map (fun e => { e with vendor := false }), lid := k.lid, fails := k.fails, slots := k.slots,
    srcNow := k.srcNow &&& 64, srcSeen := k.srcSeen, src := k.src, svnRaised := k.svnRaised, eraseEvent := k.eraseEvent,
    tap := k.tap, tapPins := k.tapPins }

/-- Events that wait for their queues. -/
def State.buffered (s : State) : Nat := (s.cp.eqs.map (fun e => e.held.length)).sum + s.stby.length

/-- An event queue that a warm reset empties: what it held, with the `extra` events PD49 held for it, is lost and counted (R277, R280,
R294). -/
def EventQueue.drop (x : EventQueue) (extra : Nat) : EventQueue :=
  let n := x.held.length + extra
  { x with held := [], lost := satAdd 0xFFFFFFFF x.lost n, lostFlag := x.lostFlag || n ≠ 0 }

/-- Leaving OFF, PD42 and PD43 start from cold: TB_COUNT restarts at 0, its epoch advances, the anchor is not valid, and journal copy B
is rebuilt from copy A (R435). The stacks were off. -/
def State.leaveOff (s : State) : State :=
  let s := { s with tb := { epoch := (s.tb.epoch + 1) % 65536 }, spr := {}, bcn := s.bcn.keep .disabled }
  let s := s.updCp (fun c => if c.aOk then { c with jrnB := c.jrnA, bOk := true, bRebuild := false } else { c with jrnB := [] })
  s.updRsv (fun r => { r with mem := [], undef := [] })

/-- A warm reset (R19, R43, R44, R166, R446): the buffered events are lost, every acquisition and stream ends with reason RESET, the
calibration of every channel becomes COLD, and each block keeps what its chapter says. -/
def State.warmReset (s : State) (kind : Nat) : State :=
  let off := s.pwr.st == .off
  let mask := s.heldMask (List.range 36)
  let lost := s.buffered
  let s := State.updCp { s with stby := [] } (fun c =>
    { c with eqs := c.eqs.mapIdx (fun e x => x.drop (s.stby.countP (fun p => p.1 == e))), stageOrd := [], genOrd := [] })
  let s := s.cancelForces
  let (s, ended) := s.endGroups (fun _ => true) .reset false
  let s := forEach (List.range 128) s (fun s n => s.setCal n .cold)
  let old := s.cp.pendRec.getD {}
  let rec_ : PendRec := { kind := kind, unitMask := old.unitMask ||| mask, eventsLost := old.eventsLost + lost, ended := old.ended ++ ended }
  let t := s.tb.keep
  let s : State :=
    { pending := s.pending, now := s.now, freeCtr := s.freeCtr, hostWrites := s.hostWrites, msixSent := s.msixSent, msgSent := s.msgSent, err := s.err, stby := s.stby,
      units := s.units.mapIdx (fun u x => { discarded := bit mask u || (CUnit.discarded x && bit rec_.unitMask u) }),
      cp := s.cp.warm rec_, pwr := s.pwr.warm kind, pcie := s.pcie.warm, spr := s.spr.warm, bcn := s.bcn.keep .disabled,
      tb := { t with grpOfs := List.replicate 32 0, grpEpoch := List.replicate 32 none },
      acq := { cal := s.acq.cal.map (fun c => CalCh.keep c s.now), unitEpoch := s.acq.unitEpoch }, trg := { inLevel := s.trg.inLevel }, rsv := s.rsv.warm,
      ltn := s.ltn.keep, kpr := s.kpr.warm }
  if off then s.leaveOff else s

/-- A reset pin is low. -/
def State.inReset (s : State) : Bool := !s.pwr.resetN || !s.pwr.perstN

/-- RESET_N_ASSERT (R442, R446): a warm reset; with PERST_N low already, the reset that runs is reported as RESET_N. -/
def execResetNAssert (s : State) : Res :=
  if !s.pwr.aon || !s.pwr.resetN then .next s
  else if !s.pwr.perstN then
    let s := s.updPwr (fun p => { p with resetN := false, lastKind := if p.lastKind = 2 then 1 else p.lastKind })
    .next (s.updCp (fun c => { c with pendRec := c.pendRec.map (fun r => { r with kind := if r.kind = 2 then 1 else r.kind }) }))
  else .next ((s.updPwr (fun p => { p with resetN := false })).warmReset 1)

/-- PERST_N_ASSERT (R442, R446): a warm reset, unless RESET_N is low. -/
def execPerstNAssert (s : State) : Res :=
  if !s.pwr.aon || !s.pwr.perstN then .next s
  else if !s.pwr.resetN then .next (s.updPwr (fun p => { p with perstN := false }))
  else .next ((s.updPwr (fun p => { p with perstN := false })).warmReset 2)

/-! ### Cold reset (R17, R446, R465, R468) -/

/-- Keeper after a cold reset: keys, the raised floor and an erase that runs are kept. -/
def Kpr.cold (k : Kpr) : Kpr :=
  { slots := k.slots, svnRaised := k.svnRaised, erase := k.erase.map (fun e => { src := e.src }),
    eraseEvent := match k.erase with
      | some { src := some src, .. } => some (nth k.src src).count
      | _ => k.eraseEvent }

/-- COLD_RESET: VDD_AON has fallen, and everything is lost but what the part holds for good: keys, the floor and the spare rows made
permanent (R188, R453, R454). -/
def execColdReset (s : State) : Res :=
  .next { pending := s.pending, now := s.now, freeCtr := s.freeCtr, hostWrites := s.hostWrites, msixSent := s.msixSent, msgSent := s.msgSent, kpr := s.kpr.cold,
          rsv := { stk := s.rsv.stk.map (fun k => { rowsUsed := k.rowsUsed - k.remapped.length }) }, pwr := { aon := false } }

/-- The erase that VDD_AON's fall met is complete: every slot EMPTY, and the second ALARM event of a ZEROISE (R465). -/
def State.finishErase (s : State) : State :=
  match s.kpr.erase with
  | none => s
  | some e =>
    let n := s.kpr.eraseEvent.getD 0
    let s := s.updKpr (fun k => { k with slots := [none, none, none], erase := none, eraseEvent := none })
    match e.src with
    | some src => s.event 0x30 src none s.tb.count (([2, BitVec.ofNat 8 Alarm.zeroised.code, 0, 0] : List Byte) ++ leBytes 4 n)
    | none => s

/-- VDD_AON_RETURN (R465): PD49 comes up, and an erase still marked as running completes before start-up. -/
def execVddAonReturn (s : State) : Res :=
  if s.pwr.aon then .next s
  else .next ((s.updPwr (fun p => { p with aon := true, doms := List.replicate 49 {} ++ [{ st := .on }] })).finishErase)

/-! ### The boot configuration (R437, R438) -/

/-- The read of the SFDP tables (R436, step 1): instruction 0x5A in single-lane mode at 12.5 MHz, three address bytes, eight dummy clocks. -/
def sfdpRead : FlashMode := { addrLines := 1, dataLines := 1, instr := 0x5A, dummy := 8, addrBytes := 3, khz := 12500 }

/-- The read of boot flash that its SFDP tables allow (R436): the fastest of 1-4-4, 1-1-4 and 1-1-1, a quad mode only where it needs no
quad-enable write; without valid SFDP, instruction 0x03 with 3-byte addresses. -/
def flashMode : Option Sfdp → FlashMode
  | none => { addrLines := 1, dataLines := 1, instr := 0x03, dummy := 0, addrBytes := 3, khz := 12500 }
  | some t =>
    let bytes := if t.fourByte then 4 else 3
    match t.quadReady, t.read144, t.read114 with
    | true, some (i, d), _ => { addrLines := 4, dataLines := 4, instr := i, dummy := d, addrBytes := bytes, khz := 25000 }
    | true, none, some (i, d) => { addrLines := 1, dataLines := 4, instr := i, dummy := d, addrBytes := bytes, khz := 25000 }
    | _, _, _ => { addrLines := 1, dataLines := 1, instr := t.read111.1, dummy := t.read111.2, addrBytes := bytes, khz := 25000 }

/-- A copy is valid: MAGIC, VERSION, LEN, reserved fields and CRC (R437). -/
def bootValid (b : List Byte) : Bool :=
  rd b 0 4 == 0x47464342 && rd b 4 2 == 1 && rd b 6 2 == 256 && rd b 8 4 < 32 && rd b 77 3 == 0 && rd b 208 44 == 0 &&
    rd b 252 4 == crc32 (b.take 252)

/-- A valid copy as start-up holds it. -/
def BootCfg.of (b : List Byte) : BootCfg :=
  let f := rd b 8 4
  { imageHost := bit f 0, springValid := bit f 1, outValid := bit f 2, beaconValid := bit f 3, subsysValid := bit f 4, imageOfs := rd b 12 4, bytes := b }

/-- The SPRING fields keep the checks of SET_REFERENCE and SET_SAMPLE_RATE (R213, R236, R310). -/
def BootCfg.springOk (b : BootCfg) : Bool :=
  let ref := rd b.bytes 20 4
  let lock := rd b.bytes 32 4
  let slew := rd b.bytes 36 4
  let hz := rd b.bytes 40 4
  fld ref 31 11 == 0 && 1 ≤ fld ref 8 2 && fld ref 8 2 ≤ 100 && fld ref 10 9 ≤ 2 &&
    128 ≤ rd b.bytes 24 4 && rd b.bytes 24 4 ≤ 4096 && rd b.bytes 28 4 < 2 ^ 24 &&
    1 ≤ fld lock 6 0 && fld lock 6 0 ≤ 64 && fld lock 15 7 == 0 && 16 ≤ fld lock 31 16 && 1 ≤ slew && slew ≤ 1000 &&
    5000000 ≤ hz && hz ≤ 500000000 && pllOk hz (fld ref 8 2) (rd b.bytes 24 4) (rd b.bytes 28 4)

/-- Every output keeps the checks of the staging commands (R231, R490). -/
def BootCfg.outOk_ (b : BootCfg) : Bool :=
  b.outs.all (fun p => shValueOk p.1 p.2) && (List.range 4).all (fun k => outOk (rd b.bytes (44 + 8 * k) 4) (rd b.bytes (48 + 8 * k) 4))

/-- BEACON keeps the checks of BEACON_CONFIG (R243, R260, R311). -/
def BootCfg.beaconOk (b : BootCfg) : Bool :=
  let w := rd b.bytes 76 1
  let t := (b.bytes.drop 80).take 128
  w < 64 && beaconTableOk w t && (!bit w 3 || ppsOutOk (fld (rd t 48 4) 1 0) (rd t 56 8)) && (!bit w 5 || qwOk (rd t 80 4) (rd t 84 4))

/-- Log a refused group of the boot configuration: its bit of DETAIL, with those of the invalid copies (R438, R475). -/
def State.bootRefuse (s : State) (bad : Nat) (refused : Bool) (bit_ : Nat) : State :=
  if refused then s.log CONTAINED bPWR 4 0 (bad + 2 ^ bit_) else s

/-- BOOT_CONFIG_READ (R436 to R438): the first valid copy, its groups checked, and the subsystem IDs. -/
def State.readBoot (s : State) (copyA copyB : List Byte) : State :=
  let bad := b2n (!bootValid copyA) + 2 * b2n (!bootValid copyB)
  if bad = 3 then (s.log CONTAINED bPWR 4 0 3).updPwr (fun p => { p with boot := {} })
  else
    let b := BootCfg.of (if bootValid copyA then copyA else copyB)
    let s := s.bootRefuse bad (b.springValid && !b.springOk) 2
    let s := s.bootRefuse bad (b.outValid && !b.outOk_) 3
    let s := s.bootRefuse bad (b.beaconValid && !b.beaconOk) 4
    let b := { b with springValid := b.springValid && b.springOk, outValid := b.outValid && b.outOk_, beaconValid := b.beaconValid && b.beaconOk }
    let s := s.updPwr (fun p => { p with boot := b })
    if b.subsysValid then s.updPcie (fun p => { p with subsysVid := rd b.bytes 16 2, subsysId := rd b.bytes 18 2 }) else s

/-! ### Start-up (R440 to R443, R452) -/

/-- Step 1 of R440: the sequencer switches on PD44, PD45 and PD48, and PD42 and PD43 where they are off; the image source is known. -/
def State.startUp (s : State) (copyA copyB : List Byte) : State :=
  let s := s.readBoot copyA copyB
  let steps := [PStep.on 44, .on 45, .on 48, .on 42, .on 43]
  let s := s.updPwr (fun p =>
    { p with starting := true, phase := .imageLoad, phaseMs := List.replicate 7 0, ready := false, st := .active,
             trans := some { steps := steps, cause := 2, start := s.now } })
  let host := s.pwr.boot.imageHost
  (s.updKpr (fun k => { k with img := if host then .waitHost else .loading, imgSource := b2n host })).sequencer

/-- RESET_RELEASE (R440): a pin is released; with both high, start-up begins. -/
def execResetRelease (resetN : Bool) (flash : Option Sfdp) (copies : List Byte × List Byte) (s : State) : Res :=
  if !s.pwr.aon || !s.inReset then .next s
  else
    let s := s.updPwr (fun p => { p with resetN := p.resetN || resetN, perstN := p.perstN || !resetN })
    .next (if s.inReset then s else (s.updPwr (fun p => { p with flash := [sfdpRead, flashMode flash] })).startUp copies.1 copies.2)

/-- Waits a warm reset discards (R44, R290): the relock, the measurement, the switching. -/
def warmLost (w : Wait) : Bool := match w with | .gate | .skew | .power _ | .domains => true | _ => false

/-- Step 3 of R440: the sequencers start, and the journal is classified and the recovery reported once for each reset; a cold reset has
no journal and does not count (R290, R292). -/
def State.startSequencers (s : State) : State :=
  let s' := s.updCp (fun c => { c with st := .recovering, pendRec := none })
  match s.cp.pendRec with
  | none => s'
  | some r =>
    if r.kind = 0 then s'.recoveryEvent { kind := 0 } 0 0 0 0
    else s'.recover { kind := r.kind, unitMask := r.unitMask, lost := warmLost } r.eventsLost r.ended

/-- The image that has passed (R303, R451, R462). -/
def imageOf (source : Nat) (b : List Byte) : Image :=
  { version := rd b 4 4, words := rd b 8 4, source := source, digest := Config.sha384 (b.take (128 + 12 * rd b 8 4)) }

/-- A wake waits for its control store to be loaded again (R430). -/
def Pwr.reloading (p : Pwr) : Bool := match p.trans with | some { steps := .reload :: _, .. } => true | _ => false

/-- An image with ADVANCE_SVN that reaches STARTUP_PHASE DONE raises SVN_FLOOR to its SVN where the floor is lower (R453). -/
def State.raiseFloor (s : State) : State :=
  s.updKpr (fun k => if k.advance && k.svnFloor < k.svn then { k with svnRaised := k.svn } else k)

/-- IMAGE_VERIFIED (R430, R440, R441, R451, R452): the image runs, or start-up fails and the IMAGE source is raised. A host image has
IMG_LEN bytes. -/
def execImageVerified (img : Table) (s : State) : Res :=
  if s.kpr.img ≠ .loading || !s.domOn 45 then .next s
  else
    let b := img.getD []
    let short : Bool := s.kpr.imgSource == 1 && b.length != s.kpr.imgLen
    let reason := if img.isNone then 5 else if short then 1 else imageCheck s.kpr.svnFloor b
    if reason ≠ 0 then
      let s := s.updKpr (fun k => { k with img := .failed, failReason := reason })
      let s := (s.setNow 3 true).updPwr (fun p => { p with phase := .failed, starting := false })
      .next (s.raiseAlarm 3 reason)
    else
      let s := (s.setNow 3 false).updKpr (fun k => { k with img := .verified, failReason := 0, svn := rd b 12 1, advance := bit (rd b 13 1) 0 })
      let s := s.updCp (fun c => { c with image := some (imageOf s.kpr.imgSource b) })
      if s.pwr.reloading then .next (s.raiseFloor.updPwr (fun p => { p with phase := .done })).sequencer
      else .next (s.updPwr (fun p => { p with starting := true, phase := .imageLoad })).startSequencers

/-- The Spring settings start-up loads (R229, R235, R438): those of the boot configuration, else reset values. -/
def State.bootSpring (s : State) : Spring :=
  let b := s.pwr.boot
  if b.springValid then
    let ref := rd b.bytes 20 4
    let lock := rd b.bytes 32 4
    { fmt := fld ref 1 0, rdiv := fld ref 8 2, retMode := fld ref 10 9, nInt := rd b.bytes 24 4, nFrac := rd b.bytes 28 4,
      lockWin := fld lock 6 0, lockCnt := fld lock 31 16, slewRate := rd b.bytes 36 4, nomHz := rd b.bytes 40 4 }
  else {}

/-- Two settings give one f_VCO from one reference (R213, R235). -/
def Spring.sameLoop (x b : Spring) : Bool :=
  x.fmt == b.fmt && x.nomHz == b.nomHz && (x.nInt * 2 ^ 24 + x.nFrac) * b.rdiv == (b.nInt * 2 ^ 24 + b.nFrac) * x.rdiv

/-- Step 3 of R440, Spring: from cold it loads its settings; after a warm reset a locked loop stays where they give the running reference
and f_VCO, and so does FREE_RUN; any other loop relocks (R229, R235). -/
def State.startSpring (s : State) : State :=
  let b := s.bootSpring
  let x := s.spr
  let s := s.updSpr (fun x => { x with retMode := b.retMode, lockWin := b.lockWin, lockCnt := b.lockCnt, slewRate := b.slewRate })
  let load (s : State) : State := s.updSpr (fun x => { x with fmt := b.fmt, rdiv := b.rdiv, nInt := b.nInt, nFrac := b.nFrac, nomHz := b.nomHz })
  if x.st == .start || x.relock == some .gated || (x.sameLoop b && (x.lock || x.st == .freeRun)) then load s
  else s.startRelock (b.fmt, b.rdiv, b.nInt, b.nFrac, b.nomHz) false none

/-- With no valid reference by the end of the phase, Spring enters FREE_RUN, and TB_COUNT counts (R229, R237); a relock that the reference
left unfinished ends so, with the epoch advanced (R235). -/
def State.freeRunStart (s : State) : State :=
  if s.spr.refOk then s
  else if s.spr.st == .start then (s.toSpr .freeRun).updTb (fun t => { t with counting := true })
  else if s.spr.relock == some .gated then
    let (k, s) := s.draw 1
    ((s.resume (s.releaseCount (Config.freeNat k))).resumed).toSpr .freeRun
  else if s.spr.relock.isSome then
    let (fmt, rdiv, n, f, hz) := s.spr.next.getD (s.spr.fmt, s.spr.rdiv, s.spr.nInt, s.spr.nFrac, s.spr.nomHz)
    let s := s.updSpr (fun x => { x with lock := false, fmt := fmt, rdiv := rdiv, nInt := n, nFrac := f, nomHz := hz })
    (s.resume s.tb.count).toSpr .freeRun
  else s

/-- The boot configuration's outputs start at once after a cold start, and wait for the first divider boundary after a warm one
(R235, R438). -/
def State.bootOutputs (s : State) : State :=
  if !s.pwr.boot.outValid then s
  else if s.pwr.coldStart then forEach (List.range 4) s.loadOuts (fun x k => x.outApplied s k)
  else s.updPwr (fun p => { p with outsDue := true })

/-- Give the sequencer start-up steps, after those it still has. -/
def State.startSteps (s : State) (steps : List PStep) : State :=
  (s.updPwr (fun p => { p with trans := match p.trans with
    | some t => some { t with steps := t.steps ++ steps }
    | none => some { steps := steps, cause := 2, start := s.now } })).sequencer

/-- Byte ranges of Reservoir that are retained at start-up (R167, R186): unreleased segments and their descriptors, and the kept areas of
the system region. -/
def Rsv.keptRanges (r : Rsv) : List (Nat × Nat) :=
  (0x1A0000000, 0x14000000) ::
    r.dir.flatMap (fun a => a.segs.flatMap (fun x => [(64 * (a.rgnBase + x.slot * a.slotBlocks), 64 * a.slotBlocks), (256 * (a.descBase + x.slot), 256)]))

/-- ECC_INIT ends (R186, R188): blocks that are not retained read as zero, and row repairs are permanent. -/
def State.eccInit (s : State) : State :=
  let kept := s.rsv.keptRanges
  let stays (a n : Nat) : Bool := kept.any (fun r => r.1 < a + n && a < r.1 + r.2)
  s.updRsv (fun r =>
    { r with mem := r.mem.filter (fun p => stays p.1 1), undef := r.undef.filter (fun u => stays u.1 u.2), initDone := true,
             repairs := r.repairs ++ (r.stk.zipIdx.flatMap (fun (k, i) => k.remapped.map (fun row => (i, row)))),
             stk := r.stk.map (fun k => { k with remapped := [] }) })

/-- SKEW_MEASURE of all channels (R95, R440); those that cannot be measured yet are left out. -/
def State.startSkew (s : State) : State :=
  if s.acq.skew.isSome then s
  else s.beginSkew { mask := maskBelow 128 (fun n => s.lead n && s.skewOk n) }

/-- Step 8 of R440: BEACON of the boot configuration takes effect. -/
def State.bootBeacon (s : State) : State :=
  let b := s.pwr.boot
  if b.beaconValid then s.beaconApply (rd b.bytes 76 1) ((b.bytes.drop 80).take 128) else s

/-- STARTUP_DONE and SVN_ADVANCE (R440, R443, R453): READY is released in ACTIVE, and what waited for it goes on. -/
def State.startDone (s : State) : State :=
  let s := if s.pwr.coldStart then s else s.bootOutputs
  (s.raiseFloor.updPwr (fun p => { p with phase := .done, starting := false, coldStart := false, ready := true, st := .active })).sequencer

/-- Record PHASE_MS of phase p. -/
def State.phaseEnd (s : State) (ms : Nat) : State :=
  s.updPwr (fun p => { p with phaseMs := p.phaseMs.set p.phase.code (min 65535 ms) })
def State.toPhase (s : State) (p : Phase) : State := s.updPwr (fun x => { x with phase := p })

/-- The phase after the one that has ended begins (R440, R441). -/
def State.nextPhase (s : State) : State :=
  match s.pwr.phase with
  | .imageLoad => (s.toPhase .springLock).startSpring
  | .springLock =>
    let s := s.freeRunStart
    let s := if s.pwr.coldStart then s.bootOutputs else s
    (s.toPhase .hbmTrain).startSteps [.selfRefresh false, .on 37, .on 38, .on 39, .on 40, .on 41]
  | .hbmTrain => s.toPhase .eccInit
  | .eccInit => (s.eccInit.toPhase .fgCal).startSteps ((List.range 37).map PStep.on ++ [.on 46, .on 47])
  | .fgCal => (s.toPhase .skewMeas).startSkew
  | .skewMeas =>
    let s := s.bootBeacon
    if s.bcn.role = 0 then s.startDone else s.toPhase .beaconMeas
  | .beaconMeas => s.startDone
  | .done | .failed => s

/-- What the phase waits for has come (R440). -/
def State.phaseMet (s : State) : Bool :=
  match s.pwr.phase with
  | .imageLoad => s.pwr.trans.isNone && s.kpr.img == .verified
  | .springLock => !s.spr.refOk || (s.spr.relock.isNone && s.spr.st != .start)
  | .hbmTrain | .eccInit => s.pwr.trans.isNone
  | .fgCal => s.pwr.trans.isNone && (List.range 32).all (fun q => !s.domOn q || (nth s.acq.quads q).ready)
  | .skewMeas => match s.acq.skew with | some r => r.cmd.isSome | none => true
  | .beaconMeas => s.bcn.role ≠ 2 || s.bcn.aligned
  | .done | .failed => false

/-- STARTUP_PHASE_DONE (R440). -/
def execStartupPhaseDone (ms : Nat) (s : State) : Res :=
  .next (if s.pwr.starting && s.phaseMet then (s.phaseEnd ms).nextPhase else s)

/-- STARTUP_PHASE_OVERRUN (R441): the phase is logged, and the next one begins; IMAGE_LOAD cannot end without its image (R452). -/
def execStartupPhaseOverrun (ms : Nat) (s : State) : Res :=
  if !s.pwr.starting || s.kpr.img == .waitHost then .next s
  else
    let s := s.log CONTAINED bPWR 3 s.pwr.phase.code ms
    .next (if s.pwr.phase == .imageLoad && s.kpr.img ≠ .verified then s else (s.phaseEnd ms).nextPhase)

end Sys2Proof.Machine
end

