-- ==== Sys2Proof/Machine/Staging.lean ====
section
/-! DEFINITION. The commands that stage (R26, R99, R111, R233, R306, R307). -/

namespace Sys2Proof.Machine

/-- ADDR, VALUE pairs of a table (R306). -/
def pairsOf : List Byte → List (Nat × Nat)
  | a0 :: a1 :: a2 :: a3 :: v0 :: v1 :: v2 :: v3 :: rest => (leNat [a0, a1, a2, a3], leNat [v0, v1, v2, v3]) :: pairsOf rest
  | _ => []

/-- A register only FILTER_BANK_LOAD stages (R111). -/
def bankReg (a : Nat) : Bool := decide (0x50000 ≤ a ∧ a < 0x60000 ∧ 0xC ≤ a % 0x200 ∧ a % 0x200 < 0x1C)

/-- STAGE_WRITE (R306, R307). -/
def execStageWrite (q : Nat) (tbl : Table) (s : State) : Res :=
  runCmd s q 0x08 [(16, 48)]
    (fun p => pktIndex p ≤ 4 &&
      (if pktIndex p = 0 then rd p 16 32 == 0 && bulkOk p && bulkLen p % 8 == 0 && 8 ≤ bulkLen p && bulkLen p ≤ 32768
       else (List.range 48).all (fun i => i < 8 * pktIndex p || p.getD (16 + i) 0 == 0)))
    (fun s e =>
      let go (ps : List (Nat × Nat)) : CmdOut :=
        if ps.any (fun (a, _) => bankReg a || 0x100000 ≤ a) then refuse s PARAM_RANGE else stageAll s ps 0
      if pktIndex e.pkt = 0 then withTable s e tbl (fun b => go (pairsOf b))
      else go (pairsOf ((e.pkt.drop 16).take (8 * pktIndex e.pkt))))

/-- CLOCK_OUTPUT_CONFIG (R306). -/
def execClockOutputConfig (q : Nat) (s : State) : Res :=
  runCmd s q 0x12 [(16, 4), (20, 4), (24, 1)] (fun p => pktIndex p ≤ 3 && 1 ≤ rd p 24 1 && rd p 24 1 ≤ 3)
    (fun s e =>
      let k := pktIndex e.pkt
      let w := rd e.pkt 24 1
      stageAll s ((if bit w 0 then [(outCfgA k, rd e.pkt 16 4)] else []) ++ (if bit w 1 then [(outPhaseA k, rd e.pkt 20 4)] else [])) 0)

/-- The OUT_PHASE value PHASE_STEP stages (R233). -/
def stepPhase (phase div : Nat) (delta : Int) : Nat :=
  ((((fld phase 22 0 : Nat) : Int) + delta) % ((128 * div : Nat) : Int)).toNat + (if delta < 0 then 2 ^ 23 else 0)

/-- PHASE_STEP (R233, R306). -/
def execPhaseStep (q : Nat) (s : State) : Res :=
  runCmd s q 0x13 [(16, 2)] (fun p => pktIndex p ≤ 3)
    (fun s e =>
      let k := pktIndex e.pkt
      let v := stepPhase (s.shadow (outPhaseA k)) (fld (s.shadow (outCfgA k)) 19 4) (sgn 16 (rd e.pkt 16 2))
      stageAll s [(outPhaseA k, v)] v)

/-- CHANNEL_CONFIG (R21, R306): MEMBER is taken last. -/
def execChannelConfig (q : Nat) (s : State) : Res :=
  runCmd s q 0x18 [(16, 16), (32, 16), (48, 1)] (fun p => pktIndex p == 0 && rd p 16 16 ≠ 0 && 1 ≤ rd p 48 1 && rd p 48 1 ≤ 15)
    (fun s e =>
      let w := rd e.pkt 48 1
      let ns := pktMask e.pkt
      let on (b : Nat) (ps : List (Nat × Nat)) := if bit w b then ps else []
      stageAll s
        (on 0 (ns.map (fun n => (chCfgA n, rd e.pkt 32 4))) ++ on 1 (ns.map (fun n => (chOffsetA n, rd e.pkt 36 4))) ++
          on 2 ((ns.filter (· % 4 == 0)).map (fun n => (quadCfgA (n / 4), rd e.pkt 40 4))) ++
          on 3 (ns.map (fun n => (memberA n, rd e.pkt 44 4)))) 0)

/-- DELAY_TABLE_LOAD (R99, R306). -/
def execDelayTableLoad (q : Nat) (tbl : Table) (s : State) : Res :=
  runCmd s q 0x19 [(16, 16), (48, 16)] (fun p => pktIndex p == 0 && rd p 16 16 ≠ 0 && bulkOk p && bulkLen p == 512)
    (fun s e => withTable s e tbl (fun b => stageAll s ((pktMask e.pkt).map (fun n => (weirA n 8, rd b (4 * n) 4))) 0))

/-- The pairs FILTER_BANK_LOAD stages for one channel (R111). -/
def bankPairs (n b taps shift crc : Nat) (ws : List Nat) : List (Nat × Nat) :=
  (weirA n (if b = 0 then 0xC else 0x10), taps + shift * 65536) :: (weirA n (if b = 0 then 0x14 else 0x18), crc) ::
    ws.zipIdx.map (fun (c, k) => (coefA n b k, c))

/-- FILTER_BANK_LOAD (R110, R111, R306). -/
def execFilterBankLoad (q : Nat) (tbl : Table) (s : State) : Res :=
  runCmd s q 0x1A [(16, 16), (32, 1), (34, 2), (36, 1), (48, 16)]
    (fun p => pktIndex p == 0 && rd p 16 16 ≠ 0 && rd p 32 1 ≤ 1 && 1 ≤ rd p 34 2 && rd p 34 2 ≤ 1536 && rd p 36 1 ≤ 15 &&
      bulkOk p && bulkLen p == 4 * rd p 34 2)
    (fun s e =>
      withTable s e tbl (fun b =>
        let ws := wordsOf b
        if ws.any (fun w => 2 ^ 18 ≤ w) then refuse s PARAM_RANGE
        else
          let crc := crc32 b
          stageAll s ((pktMask e.pkt).flatMap (fun n => bankPairs n (rd e.pkt 32 1) (rd e.pkt 34 2) (rd e.pkt 36 1) crc ws)) crc))

/-- The pairs of an image whose first word is at BAR0 address `base`; none when a word at an address without SH register is not 0 (R307). -/
def imagePairs (base : Nat) (b : List Byte) : Option (List (Nat × Nat)) :=
  let ps := (wordsOf b).zipIdx.map (fun (v, i) => (base + 4 * i, v))
  if ps.all (fun (a, v) => (shReg a).isSome || v == 0) then some (ps.filter (fun (a, _) => (shReg a).isSome)) else none

/-- Stage an image (R307). -/
def stageImage (s : State) (e : JEntry) (tbl : Table) (base : Nat) : CmdOut :=
  withTable s e tbl (fun b =>
    match imagePairs base b with
    | some ps => stageAll s ps 0
    | none => refuse s PARAM_RANGE)

/-- TRIGGER_PROGRAM (R306, R307). -/
def execTriggerProgram (q : Nat) (tbl : Table) (s : State) : Res :=
  runCmd s q 0x1B [(48, 16)] (fun p => pktIndex p ≤ 31 && bulkOk p && bulkLen p == 160)
    (fun s e => stageImage s e tbl (trgA (pktIndex e.pkt) 0))

/-- POND_CONFIG (R306). -/
def execPondConfig (q : Nat) (s : State) : Res :=
  runCmd s q 0x2A [(16, 16), (32, 16), (48, 1)] (fun p => pktIndex p == 0 && rd p 16 16 ≠ 0 && 1 ≤ rd p 48 1 && rd p 48 1 ≤ 15)
    (fun s e =>
      let w := rd e.pkt 48 1
      stageAll s ((pktMask e.pkt).flatMap (fun n =>
        ((List.range 4).filter (bit w)).map (fun j => (pondA n (4 * j), rd e.pkt (32 + 4 * j) 4)))) 0)

/-- SOUNDING_CONFIG (R306, R307). -/
def execSoundingConfig (q : Nat) (tbl : Table) (s : State) : Res :=
  runCmd s q 0x2B [(48, 16)] (fun p => pktIndex p ≤ 31 && bulkOk p && bulkLen p == 512)
    (fun s e => stageImage s e tbl (sndA (pktIndex e.pkt) 0))

/-- CAL_CONTROL (R103, R306). -/
def execCalControl (q : Nat) (s : State) : Res :=
  runCmd s q 0x30 [(16, 16), (32, 4)] (fun p => pktIndex p == 0 && rd p 16 16 ≠ 0)
    (fun s e => stageAll s ((pktMask e.pkt).map (fun n => (weirA n 0xC0, rd e.pkt 32 4))) 0)

/-- DISPLAY_CONFIG (R306, R307, R403). -/
def execDisplayConfig (q : Nat) (tbl : Table) (s : State) : Res :=
  runCmd s q 0x48 [(16, 4), (48, 16)]
    (fun p => pktIndex p == 0 && bulkOk p && rd p 16 4 % 4 == 0 && rd p 16 4 + bulkLen p ≤ 0x4000)
    (fun s e => stageImage s e tbl (ltnA (rd e.pkt 16 4)))

/-- LAMP_FRAME_WRITE (R306, R406). -/
def execLampFrameWrite (q : Nat) (tbl : Table) (s : State) : Res :=
  runCmd s q 0x50 [(16, 1), (17, 1), (48, 16)]
    (fun p => pktIndex p == 0 && 1 ≤ rd p 17 1 && rd p 16 1 + rd p 17 1 ≤ 128 && bulkOk p && bulkLen p == 4 * rd p 17 1)
    (fun s e => withTable s e tbl (fun b =>
      stageAll s ((wordsOf b).zipIdx.map (fun (v, i) => (lampDutyA (rd e.pkt 16 1 + i), v))) 0))

/-- LAMP_CONFIG (R306, R307, R408). -/
def execLampConfig (q : Nat) (tbl : Table) (s : State) : Res :=
  runCmd s q 0x51 [(16, 4), (48, 16)]
    (fun p => pktIndex p == 0 && bulkOk p && rd p 16 4 % 4 == 0 && rd p 16 4 + bulkLen p ≤ 0x800)
    (fun s e => stageImage s e tbl (lampA (rd e.pkt 16 4)))

end Sys2Proof.Machine
end

