-- ==== Sys2Proof/Machine/Dispatch.lean ====
section
/-! DEFINITION. The dispatch of the commands: one arm per row of the opcode table. -/

namespace Sys2Proof.Machine

def exec (i : Instr) (s : State) : Host.Outcome State Fault Refusal :=
  match i with
  | .nop q => Sys2Proof.Machine.execNop q s
  | .identify q => Sys2Proof.Machine.execIdentify q s
  | .getStatus q => Sys2Proof.Machine.execGetStatus q s
  | .recoverReport q writeOk => Sys2Proof.Machine.execRecoverReport q writeOk s
  | .stageWrite q tbl => Sys2Proof.Machine.execStageWrite q tbl s
  | .commitApply q => Sys2Proof.Machine.execCommitApply q s
  | .commitDiscard q => Sys2Proof.Machine.execCommitDiscard q s
  | .readConfig q writeOk => Sys2Proof.Machine.execReadConfig q writeOk s
  | .setSampleRate q => Sys2Proof.Machine.execSetSampleRate q s
  | .setReference q jumpNow => Sys2Proof.Machine.execSetReference q jumpNow s
  | .clockOutputConfig q => Sys2Proof.Machine.execClockOutputConfig q s
  | .phaseStep q => Sys2Proof.Machine.execPhaseStep q s
  | .channelConfig q => Sys2Proof.Machine.execChannelConfig q s
  | .delayTableLoad q tbl => Sys2Proof.Machine.execDelayTableLoad q tbl s
  | .filterBankLoad q tbl => Sys2Proof.Machine.execFilterBankLoad q tbl s
  | .triggerProgram q tbl => Sys2Proof.Machine.execTriggerProgram q tbl s
  | .arm q => Sys2Proof.Machine.execArm q s
  | .forceTrigger q => Sys2Proof.Machine.execForceTrigger q s
  | .stop q => Sys2Proof.Machine.execStop q s
  | .abort q => Sys2Proof.Machine.execAbort q s
  | .streamStart q => Sys2Proof.Machine.execStreamStart q s
  | .streamStop q => Sys2Proof.Machine.execStreamStop q s
  | .recordRelease q => Sys2Proof.Machine.execRecordRelease q s
  | .recordQuery q writeOk => Sys2Proof.Machine.execRecordQuery q writeOk s
  | .pondConfig q => Sys2Proof.Machine.execPondConfig q s
  | .soundingConfig q tbl => Sys2Proof.Machine.execSoundingConfig q tbl s
  | .calControl q => Sys2Proof.Machine.execCalControl q s
  | .calReport q writeOk => Sys2Proof.Machine.execCalReport q writeOk s
  | .skewMeasure q => Sys2Proof.Machine.execSkewMeasure q s
  | .beaconConfig q tbl => Sys2Proof.Machine.execBeaconConfig q tbl s
  | .beaconMeasure q => Sys2Proof.Machine.execBeaconMeasure q s
  | .timeSetMap q => Sys2Proof.Machine.execTimeSetMap q s
  | .timeSetLoad q => Sys2Proof.Machine.execTimeSetLoad q s
  | .timeSetManual q => Sys2Proof.Machine.execTimeSetManual q s
  | .displayConfig q tbl => Sys2Proof.Machine.execDisplayConfig q tbl s
  | .edidRead q aux writeOk => Sys2Proof.Machine.execEdidRead q aux writeOk s
  | .lampFrameWrite q tbl => Sys2Proof.Machine.execLampFrameWrite q tbl s
  | .lampConfig q tbl => Sys2Proof.Machine.execLampConfig q tbl s
  | .monitorScanConfig q tbl => Sys2Proof.Machine.execMonitorScanConfig q tbl s
  | .monitorReadLast q => Sys2Proof.Machine.execMonitorReadLast q s
  | .monitorReadUrgent q => Sys2Proof.Machine.execMonitorReadUrgent q s
  | .powerState q => Sys2Proof.Machine.execPowerState q s
  | .domainControl q => Sys2Proof.Machine.execDomainControl q s
  | .keyProvisionWrite q tbl => Sys2Proof.Machine.execKeyProvisionWrite q tbl s
  | .keyProvisionErase q => Sys2Proof.Machine.execKeyProvisionErase q s
  | .debugChallenge q nonce => Sys2Proof.Machine.execDebugChallenge q nonce s
  | .debugResponse q tbl => Sys2Proof.Machine.execDebugResponse q tbl s
  | .alarmPolicy q => Sys2Proof.Machine.execAlarmPolicy q s
  | .attestDevice q writeOk => Sys2Proof.Machine.execAttestDevice q writeOk s
  | .attestRecord q writeOk => Sys2Proof.Machine.execAttestRecord q writeOk s
  | .errorRead q writeOk => Sys2Proof.Machine.execErrorRead q writeOk s
  | .errorAck q => Sys2Proof.Machine.execErrorAck q s
  | .controlStoreInfo q => Sys2Proof.Machine.execControlStoreInfo q s
  | .badOpcode q => Sys2Proof.Machine.execBadOpcode q s
  | .duplicateCommand q => Sys2Proof.Machine.execDuplicateCommand q s
  | .sqTailWrite q v => Sys2Proof.Machine.execSqTailWrite q v s
  | .sqFetch reads => Sys2Proof.Machine.execSqFetch reads s
  | .cqHeadWrite q v => Sys2Proof.Machine.execCqHeadWrite q v s
  | .qEnable q v => Sys2Proof.Machine.execQEnable q v s
  | .qDisable q v => Sys2Proof.Machine.execQDisable q v s
  | .qResume q v => Sys2Proof.Machine.execQResume q v s
  | .clearErr q v => Sys2Proof.Machine.execClearErr q v s
  | .eqEnable e v => Sys2Proof.Machine.execEqEnable e v s
  | .eqDisable e v => Sys2Proof.Machine.execEqDisable e v s
  | .eqResume e v => Sys2Proof.Machine.execEqResume e v s
  | .eqHeadWrite e v => Sys2Proof.Machine.execEqHeadWrite e v s
  | .cqPost q => Sys2Proof.Machine.execCqPost q s
  | .eventPost e => Sys2Proof.Machine.execEventPost e s
  | .latchedWritesApply => Sys2Proof.Machine.execLatchedWritesApply s
  | .abortAll v => Sys2Proof.Machine.execAbortAll v s
  | .microTrap k c => Sys2Proof.Machine.execMicroTrap k c s
  | .blockReplyTimeout q => Sys2Proof.Machine.execBlockReplyTimeout q s
  | .lockstepMismatch => Sys2Proof.Machine.execLockstepMismatch s
  | .sequencerSelfTestDone aPass bPass => Sys2Proof.Machine.execSequencerSelfTestDone aPass bPass s
  | .requeuedExecute q => Sys2Proof.Machine.execRequeuedExecute q s
  | .journalCopyFail copy cause => Sys2Proof.Machine.execJournalCopyFail copy cause s
  | .journalBRebuild => Sys2Proof.Machine.execJournalBRebuild s
  | .tbNowLoRead => Sys2Proof.Machine.execTbNowLoRead s
  | .errEntryRepeatRead n => Sys2Proof.Machine.execErrEntryRepeatRead n s
  | .registerWrite t v be => Sys2Proof.Machine.execRegisterWrite t v be s
  | .irqMaskWrite c v => Sys2Proof.Machine.execIrqMaskWrite c v s
  | .glbIrqMaskWrite v => Sys2Proof.Machine.execGlbIrqMaskWrite v s
  | .msixUnmask v => Sys2Proof.Machine.execMsixUnmask v s
  | .imgBell v => Sys2Proof.Machine.execImgBell v s
  | .bar2Read off len ecc => Sys2Proof.Machine.execBar2Read off len ecc s
  | .bar2Write off => Sys2Proof.Machine.execBar2Write off s
  | .dmaEnable c v => Sys2Proof.Machine.execDmaEnable c v s
  | .dmaDisable c v => Sys2Proof.Machine.execDmaDisable c v s
  | .dmaStoppingEnd c => Sys2Proof.Machine.execDmaStoppingEnd c s
  | .dmaPause c v => Sys2Proof.Machine.execDmaPause c v s
  | .dmaUnpause c v => Sys2Proof.Machine.execDmaUnpause c v s
  | .creditAdd c v => Sys2Proof.Machine.execCreditAdd c v s
  | .dmaMove c => Sys2Proof.Machine.execDmaMove c s
  | .dmaLoop c => Sys2Proof.Machine.execDmaLoop c s
  | .dmaWaitSeg c => Sys2Proof.Machine.execDmaWaitSeg c s
  | .dmaWaitCredit c => Sys2Proof.Machine.execDmaWaitCredit c s
  | .dmaWaitTb c => Sys2Proof.Machine.execDmaWaitTb c s
  | .dmaWaitResume c => Sys2Proof.Machine.execDmaWaitResume c s
  | .dmaSignalHalf c => Sys2Proof.Machine.execDmaSignalHalf c s
  | .dmaSignalFull c => Sys2Proof.Machine.execDmaSignalFull c s
  | .dmaSignalRelease c => Sys2Proof.Machine.execDmaSignalRelease c s
  | .dmaLoadImm c => Sys2Proof.Machine.execDmaLoadImm c s
  | .dmaLoadAdd c => Sys2Proof.Machine.execDmaLoadAdd c s
  | .dmaLoadMem c => Sys2Proof.Machine.execDmaLoadMem c s
  | .dmaLoadShl c => Sys2Proof.Machine.execDmaLoadShl c s
  | .dmaFence c => Sys2Proof.Machine.execDmaFence c s
  | .dmaEnd c => Sys2Proof.Machine.execDmaEnd c s
  | .dmaBadInstr c => Sys2Proof.Machine.execDmaBadInstr c s
  | .dmaBurstResponse c r st => Sys2Proof.Machine.execDmaBurstResponse c r st s
  | .completionTimeout r => Sys2Proof.Machine.execCompletionTimeout r s
  | .flr => Sys2Proof.Machine.execFlr s
  | .hotReset => Sys2Proof.Machine.execHotReset s
  | .d3hotEnter => Sys2Proof.Machine.execD3hotEnter s
  | .d0Return => Sys2Proof.Machine.execD0Return s
  | .laneFault lane cause => Sys2Proof.Machine.execLaneFault lane cause s
  | .ptmDialog ns ago => Sys2Proof.Machine.execPtmDialog ns ago s
  | .coldReset => Sys2Proof.Machine.execColdReset s
  | .resetNAssert => Sys2Proof.Machine.execResetNAssert s
  | .perstNAssert => Sys2Proof.Machine.execPerstNAssert s
  | .resetRelease resetN flash copies => Sys2Proof.Machine.execResetRelease resetN flash copies s
  | .imageVerified img => Sys2Proof.Machine.execImageVerified img s
  | .startupPhaseDone ms => Sys2Proof.Machine.execStartupPhaseDone ms s
  | .startupPhaseOverrun ms => Sys2Proof.Machine.execStartupPhaseOverrun ms s
  | .domainRampDone => Sys2Proof.Machine.execDomainRampDone s
  | .heartbeatTimeout d => Sys2Proof.Machine.execHeartbeatTimeout d s
  | .domainRestartOn d => Sys2Proof.Machine.execDomainRestartOn d s
  | .lockDeclared x => Sys2Proof.Machine.execLockDeclared x s
  | .springGate => Sys2Proof.Machine.execSpringGate s
  | .lossOfLock cmps => Sys2Proof.Machine.execLossOfLock cmps s
  | .refLost cause => Sys2Proof.Machine.execRefLost cause s
  | .refReturn jump => Sys2Proof.Machine.execRefReturn jump s
  | .slewDone => Sys2Proof.Machine.execSlewDone s
  | .freeRunRelock => Sys2Proof.Machine.execFreeRunRelock s
  | .dividerBoundary => Sys2Proof.Machine.execDividerBoundary s
  | .clockMonitorAlarm what => Sys2Proof.Machine.execClockMonitorAlarm what s
  | .tbWrap => Sys2Proof.Machine.execTbWrap s
  | .ppsInEdge stamp rise => Sys2Proof.Machine.execPpsInEdge stamp rise s
  | .ppsMissing => Sys2Proof.Machine.execPpsMissing s
  | .timeSetTimeout q => Sys2Proof.Machine.execTimeSetTimeout q s
  | .ppsOutPulse => Sys2Proof.Machine.execPpsOutPulse s
  | .beaconFrameSend p => Sys2Proof.Machine.execBeaconFrameSend p s
  | .beaconFrameReceive p frame edge => Sys2Proof.Machine.execBeaconFrameReceive p frame edge s
  | .portDown p => Sys2Proof.Machine.execPortDown p s
  | .portSelfTest p pass result => Sys2Proof.Machine.execPortSelfTest p pass result s
  | .arrMeasured p => Sys2Proof.Machine.execArrMeasured p s
  | .beaconMeasureDone writeOk => Sys2Proof.Machine.execBeaconMeasureDone writeOk s
  | .trigInTransition input t rise => Sys2Proof.Machine.execTrigInTransition input t rise s
  | .triggerDecision g feeds upTo => Sys2Proof.Machine.execTriggerDecision g feeds upTo s
  | .trigOutTimedEdge out => Sys2Proof.Machine.execTrigOutTimedEdge out s
  | .sequenceTimeout g => Sys2Proof.Machine.execSequenceTimeout g s
  | .acqBoundary u => Sys2Proof.Machine.execAcqBoundary u s
  | .fadeEnd n => Sys2Proof.Machine.execFadeEnd n s
  | .postFillEnd g feeds => Sys2Proof.Machine.execPostFillEnd g feeds s
  | .segmentComplete g => Sys2Proof.Machine.execSegmentComplete g s
  | .waitFullEnd g => Sys2Proof.Machine.execWaitFullEnd g s
  | .streamFrameEnd g feeds => Sys2Proof.Machine.execStreamFrameEnd g feeds s
  | .avgWriteoutDone g => Sys2Proof.Machine.execAvgWriteoutDone g s
  | .mapClearDone n => Sys2Proof.Machine.execMapClearDone n s
  | .decayPassStart n => Sys2Proof.Machine.execDecayPassStart n s
  | .stackFailure k cause => Sys2Proof.Machine.execStackFailure k cause s
  | .rebuildDone => Sys2Proof.Machine.execRebuildDone s
  | .estimatorWindowEnd n w => Sys2Proof.Machine.execEstimatorWindowEnd n w s
  | .trimTick => Sys2Proof.Machine.execTrimTick s
  | .foregroundCalDone q found => Sys2Proof.Machine.execForegroundCalDone q found s
  | .quadStart q => Sys2Proof.Machine.execQuadStart q s
  | .skewMeasureDone res writeOk => Sys2Proof.Machine.execSkewMeasureDone res writeOk s
  | .frameBoundary => Sys2Proof.Machine.execFrameBoundary s
  | .line0Flip => Sys2Proof.Machine.execLine0Flip s
  | .rasterPassDone => Sys2Proof.Machine.execRasterPassDone s
  | .lineUnderrun => Sys2Proof.Machine.execLineUnderrun s
  | .fetchUrgent enter => Sys2Proof.Machine.execFetchUrgent enter s
  | .dpTrain k => Sys2Proof.Machine.execDpTrain k s
  | .dpTrainEnd k sink tries => Sys2Proof.Machine.execDpTrainEnd k sink tries s
  | .hpdLow k => Sys2Proof.Machine.execHpdLow k s
  | .hpdIrq k => Sys2Proof.Machine.execHpdIrq k s
  | .dpRetry k => Sys2Proof.Machine.execDpRetry k s
  | .dpSelfTest k pass result => Sys2Proof.Machine.execDpSelfTest k pass result s
  | .lampRowSlot findings => Sys2Proof.Machine.execLampRowSlot findings s
  | .lampFrameBoundary => Sys2Proof.Machine.execLampFrameBoundary s
  | .lampSyncEdge => Sys2Proof.Machine.execLampSyncEdge s
  | .lampDiagSubframe findings => Sys2Proof.Machine.execLampDiagSubframe findings s
  | .buoyScanStart => Sys2Proof.Machine.execBuoyScanStart s
  | .buoyConversionDone code => Sys2Proof.Machine.execBuoyConversionDone code s
  | .ageingGate input count => Sys2Proof.Machine.execAgeingGate input count s
  | .railComparatorTrip d => Sys2Proof.Machine.execRailComparatorTrip d s
  | .tempComparatorCheck out => Sys2Proof.Machine.execTempComparatorCheck out s
  | .lidSenseHigh => Sys2Proof.Machine.execLidSenseHigh s
  | .zeroiseEraseDone => Sys2Proof.Machine.execZeroiseEraseDone s
  | .vendorUnlockEraseDone => Sys2Proof.Machine.execVendorUnlockEraseDone s
  | .keystoreError slot => Sys2Proof.Machine.execKeystoreError slot s
  | .challengeExpiry => Sys2Proof.Machine.execChallengeExpiry s
  | .acceptanceOpens g => Sys2Proof.Machine.execAcceptanceOpens g s
  | .acquisitionEnded g feeds => Sys2Proof.Machine.execAcquisitionEnded g feeds s
  | .receiverLosesAlignment p => Sys2Proof.Machine.execReceiverLosesAlignment p s
  | .uncorrectableStateError d => Sys2Proof.Machine.execUncorrectableStateError d s
  | .vddAonReturn => Sys2Proof.Machine.execVddAonReturn s
  | .tapAccess a => Sys2Proof.Machine.execTapAccess a s
  | .receivedTlpError e => Sys2Proof.Machine.execReceivedTlpError e s
  | .pcieLinkUp gen width flit => Sys2Proof.Machine.execPcieLinkUp gen width flit s

end Sys2Proof.Machine
end

