-- ==== Sys2Proof/Machine/Pins.lean ====
section
/-! DEFINITION. What each output shows at its balls, the level its line then holds, its edge-energy class, the termination of REF_IN, and
what the TAP's registers capture (R156, R243, R245, R413, R443 to R445, R461, R466, R487, R489, R491). -/

namespace Sys2Proof.Machine

/-- The outputs of R444, R445 and R491. -/
inductive Output where
  | ready | alarmN | wakeN | tdo | flashSck | flashCsN | flashIo | pcieTx
  | clkOut (k : Nat)
  | trigOut (i : Nat)
  | ppsOut
  | bcnTx (p : Nat)
  | dpTx (k : Nat)
  | lampRow (r : Nat)
  | lampCol (c : Nat)
  deriving DecidableEq, Repr

/-- What an output does. -/
inductive Pin where
  | highZ | low | high
  /-- Electrical idle. -/
  | idle
  /-- It sends: a clock, frames, a link, a lamp's current, scan data. -/
  | sends
  /-- The TAP's boundary cells drive it. -/
  | scan
  deriving DecidableEq, Repr

/-- A differential or single-ended level. -/
def Pin.ofLevel (b : Bool) : Pin := if b then .high else .low

/-- The domain an output lies in (R445). -/
def Output.domain : Output → Nat
  | .ready | .alarmN | .wakeN | .tdo | .flashSck | .flashCsN | .flashIo => 49
  | .pcieTx => 44
  | .clkOut _ => 42
  | .trigOut _ | .ppsOut | .bcnTx _ => 43
  | .dpTx _ => 46
  | .lampRow _ | .lampCol _ => 47

/-- PPS_OUT (R243): MODE 0, and SITE with no valid anchor, drive a low; a pulse lasts WIDTH core cycles, and POL 1 inverts. -/
def State.ppsLevel (s : State) : Bool :=
  let t := s.tb
  if t.outMode = 0 || (t.outMode = 1 && !t.anchorValid) then false
  else
    let high := match t.ppsPulse with
      | some p => decide (p ≤ 64 * s.now) && decide ((64 * s.now : Nat) < p + 64 * 16 * t.outWidth)
      | none => false
    high != (t.outPol == 1)

/-- What an output's function does with it while the output is released (R443, R445). -/
def State.pinOn (s : State) : Output → Pin
  | .ready => if s.pwr.ready then .highZ else .low
  | .alarmN => if s.kpr.alarm == .clear then .highZ else .low
  | .wakeN => if s.pcie.wakeN then .low else .highZ
  | .tdo => .sends
  | .flashSck | .flashCsN | .flashIo => if s.kpr.img == .loading && s.kpr.imgSource = 0 then .sends else .highZ
  | .pcieTx => .sends
  | .clkOut k =>
    if !s.outEn k || (nth s.spr.outs k).gated || s.spr.outHeld then .low else .sends
  | .trigOut i => .ofLevel (s.trigOutLevel i)
  | .ppsOut => .ofLevel s.ppsLevel
  | .bcnTx p =>
    let x := nth s.bcn.ports p
    if x.en && !x.failed && !x.gated && !s.spr.fallback && s.tb.counting then .sends else .low
  | .dpTx k => match (nth s.ltn.dp k).st with | .training | .up => .sends | _ => .idle
  | .lampRow r => if s.rowLow r then .low else .highZ
  | .lampCol c => if s.sinkOn c then .sends else .highZ

/-- What an output shows (R444, R461): it is high-impedance while the A128 is unpowered, in reset or without the output's domain; the TAP
works in reset, and takes the pins of domains that are on. -/
def State.pin (s : State) (o : Output) : Pin :=
  if !s.pwr.aon then .highZ
  else if o = .tdo then s.pinOn o
  else if !s.pwr.resetN || !s.pwr.perstN || !s.domOn o.domain then .highZ
  else if s.kpr.tapPins then (if s.kpr.tap = .highz then .highZ else .scan)
  else s.pinOn o

/-- The level of a line that its output leaves high-impedance, from the board's network (R443, R491): none where the network leaves no
level or the peer or the standard does. -/
def Output.idleLevel (aon : Bool) : Output → Option Bool
  | .ready => some aon
  | .alarmN | .wakeN | .tdo | .flashCsN | .flashIo | .lampRow _ => some true
  | .flashSck | .clkOut _ | .trigOut _ | .ppsOut | .bcnTx _ => some false
  | .pcieTx | .dpTx _ | .lampCol _ => none

/-- The level an output's line holds, where it holds one (R444, R491). -/
def State.lineLevel (s : State) (o : Output) : Option Bool :=
  match s.pin o with
  | .low => some false
  | .high => some true
  | .highZ => o.idleLevel s.pwr.aon
  | _ => none

/-- The edge-energy class of an output, true QUIET; none where its standard rules (R489). -/
def State.quiet (s : State) : Output → Option Bool
  | .ready | .alarmN | .wakeN => some true
  | .tdo | .flashSck | .flashCsN | .flashIo => some false
  | .pcieTx | .dpTx _ => none
  | .clkOut k => some (s.regB (outCfgA k) 3)
  | .trigOut i => some (s.regB (trgA 0 (0x3A0 + 4 * i)) 3)
  | .ppsOut => some s.tb.outQuiet
  | .bcnTx p => some (nth s.bcn.ports p).quiet
  | .lampRow _ | .lampCol _ => some (s.regB (lampA 0) 2)

/-- The termination of REF_IN (R487). -/
inductive Termination where
  /-- 100 Ω between the legs. -/
  | differential
  /-- 50 Ω from each leg to GND. -/
  | perLeg
  deriving DecidableEq, Repr

/-- The termination that REF_CFG.FORMAT selects; HCSL is code 2 (R236, R487). -/
def State.refTermination (s : State) : Termination := if s.spr.fmt = 2 then .perLeg else .differential

/-- The 32 bits that the register of the TAP's instruction captures, for those the manual gives: IDCODE, and BYPASS's one bit, 0. -/
def State.tapCaptures (s : State) : Option (BitVec 32) :=
  match if tapReach s.kpr.dbg s.kpr.tap then s.kpr.tap else .bypass with
  | .idcode => some 0x0A12854B
  | .bypass => some 0
  | _ => none

/-- The value the boundary cell of an output captures: 0 where its domain is off (R461). -/
def State.cellCaptures (s : State) (o : Output) : Bool := s.domOn o.domain && s.pinOn o == .high

end Sys2Proof.Machine
end

