-- ==== Sys2Proof/Safety.lean ====
section
/-! DEFINITION. What counts as a safe run, and the words the statements share. -/

namespace Sys2Proof.Machine

/-- The two memories hold their canonical form: addresses rising, no listed byte equal to what an unlisted address reads as. -/
def State.memOk (s : State) : Prop := Memory.wf s.rsv.mem = true ∧ Memory.wf s.pond.mem = true

/-- The active set holds its canonical form: register keys rising, no listed value equal to the register's reset value. -/
def State.cfgOk (s : State) : Prop := swf shReset s.cfg = true

/-- No commit unit holds more than two pending generations (R22, R31). -/
def State.pendOk (s : State) : Prop := ∀ u ∈ s.units, u.pend.length ≤ 2

/-- No event queue holds more than 256 events, and PD49 no more than 16 (R280, R432). -/
def State.eventsOk (s : State) : Prop := (∀ e ∈ s.cp.eqs, e.held.length ≤ 256) ∧ s.stby.length ≤ 16

/-- A step neither stops nor refuses. -/
def StepsOn (s : State) : Prop := ∃ t, step s = .next t

/-! ### Words the statements share -/

/-- A command e of opcode op stands at the front of queue q, is no duplicate, and may run, its change list fitting in the change log (R268,
R270, R274, R281, R288). -/
structure CmdReady (s : State) (q op : Nat) (e : JEntry) : Prop where
  current : s.cp.current q = some e
  isOp : opcode e.pkt = op
  fresh : e.dup = false
  ready : s.ready q e = true
  room : s.logRoom e = true

/-- R300, step 1: no reserved byte of the packet is used, and the checks `pre` of the opcode hold. -/
def PktGood (e : JEntry) (spans : List (Nat × Nat)) (pre : Packet → Bool) : Prop := pktOk e.pkt spans = true ∧ pre e.pkt = true

/-- The command e has passed its checks in state s and now waits for w; with INTERIM it owes an ACCEPTED completion (R268, R288). -/
def State.waitsFor (s : State) (e : JEntry) (w : Wait) (accepted : Option (List Byte)) : State :=
  (s.updJ e.idx (fun x =>
    { x with st := .executing, wait := some w, acceptedDue := if interim e.pkt then accepted.map (padTo 16) else none })).threadWaits e.queue

/-- The completion c stands at entry CQ_TAIL of queue q's ring and CQ_TAIL has moved past it; vector q is signalled where CQ_IRQ_EN is set
(R267, R268, R373). -/
def State.posted (s : State) (q : Nat) (c : List Byte) : State :=
  let x := nth s.cp.queues q
  let t := (s.hostWrite (x.cqBase.toNat + 32 * (x.cqTail.toNat % 2 ^ x.cqSize)) c).updQ q (fun y => { y with cqTail := y.cqTail + 1 })
  if x.irqEn then t.signal q else t

/-- A power sequence that waits for completions to be posted goes on (R428). -/
def State.goesOn (s : State) : State :=
  if s.pwr.trans.any (fun t => t.steps.head? == some .retain) then s.sequencer else s

/-- The state and operands with which a staging command stages all of its pairs (R27, R306). -/
structure StagesOk (s : State) (ps : List (Nat × Nat)) : Prop where
  values : (ps.all (fun (a, v) => 0x1000000 ≤ a || shValueOk a v)) = true
  shadow : (ps.all (fun (a, _) => (stagePairs s ps).1.shadowOk a)) = true
  noMove : (stagePairs s ps).2.2 = false
  powered : (ps.all (fun (a, _) => s.domOn (regDom a))) = true

/-- RESULT of a staging command (R306): registers staged, the units touched, and the command's own word. -/
def stageResult (s : State) (ps : List (Nat × Nat)) (extra : Nat) : List Byte :=
  leBytes 4 (distinctRegs ps) ++ leBytes 5 (stagePairs s ps).2.1 ++ zeros 3 ++ leBytes 4 extra

/-- The staging command e has staged the pairs and ended OK. -/
def State.staged (s : State) (e : JEntry) (ps : List (Nat × Nat)) (extra : Nat) : State :=
  (stagePairs s ps).1.finish e.idx OK (stageResult s ps extra)

/-- The channel c of state s runs instruction i, which is valid, at its PC (R331, R332, R334). -/
structure DmaReady (s : State) (c : Nat) (x : DmaCh) (i : DmaIns) : Prop where
  chan : nth s.dma.ch c = x
  at_pc : s.dmaIns c = some i
  valid : i.ok = true

end Sys2Proof.Machine
end

