-- ==== Sys2Proof/Certificates/Slice0/Obligations.lean ====
section
/-! DEFINITION. The statements for the provers. Each completion statement names the state a command finds and the state it answers; the
terms they share are in Sys2Proof/Safety.lean. -/

open Sys2Proof Sys2Proof.Machine

/-! ### Steps, and what every command keeps -/

/-- A step takes the command at the front of the queue and is that command's effect on the rest. -/
def Obligations.StepRunsTheFrontCommand : Prop :=
  ∀ (c : Instr) (rest : List Instr) (s : State), s.pending = c :: rest → step s = exec c { s with pending := rest }

/-- With no command waiting, one core cycle of 16 Ts passes (R12): the model's clock and TB_COUNT move, and the timebase epoch advances where
the count wraps (R237, R238), which the model notes for TB_NOW. A link in L0 that may rest (R364) does or does not, a free value. Nothing else changes.
That the idle step is a core cycle, and that a link may rest at one, are the model's choices (notes/assumptions/1.md, 115.md). -/
def Obligations.IdleStepIsOneCoreCycle : Prop :=
  ∀ s s1 : State, s.pending = [] → s1 = s.linkIdle →
    (s.mayRest = false → s1 = s) ∧
    (s.mayRest = true → s1 = { s with
      freeCtr := s.freeCtr + 1, pcie := { s.pcie with link := if Config.freeBool s.freeCtr then s.pcie.cfg.rest else .l0 } }) ∧
    (s.tb.counting = false → step s = .next { s1 with now := s.now + 16 }) ∧
    (s.tb.counting = true → s.tb.count.toNat + 16 < 2 ^ 64 →
      step s = .next { s1 with now := s.now + 16, tb := { s.tb with count := s.tb.count + 16 } }) ∧
    (s.tb.counting = true → 2 ^ 64 ≤ s.tb.count.toNat + 16 →
      step s = .next { s1 with now := s.now + 16, tb := { s.tb with count := s.tb.count + 16, epoch := (s.tb.epoch + 1) % 65536, wrapAt := some s.now } })

/-- No command stops the block, and none touches the commands that still wait. -/
def Obligations.EveryCommandAnswersAndKeepsTheQueue : Prop :=
  ∀ (c : Instr) (s : State), ∃ t, exec c s = .next t ∧ t.pending = s.pending

/-- Every step keeps the canonical form of Reservoir's and Pond's memory, and that of the active configuration. -/
def Obligations.StepKeepsMemoriesAndActiveSet : Prop :=
  (∀ s t : State, s.memOk → step s = .next t → t.memOk) ∧
  (∀ s t : State, s.cfgOk → step s = .next t → t.cfgOk)

/-- No step gives a commit unit a third pending generation (R22, R31). -/
def Obligations.StepKeepsTwoGenerations : Prop :=
  ∀ s t : State, s.pendOk → step s = .next t → t.pendOk

/-- No step makes an event queue hold more than 256 events or PD49 more than 16 (R280, R432). -/
def Obligations.StepKeepsEventBounds : Prop :=
  ∀ s t : State, s.eventsOk → step s = .next t → t.eventsOk

/-- The four invariants hold in the state after reset. The state right after a cold reset: every SH register reads its reset value; POLICY reads 0x0000_4110,
the alarm state is CLEAR and debug CLOSED; only PD49 is on; every queue and event queue is DISABLED, every vector masked and no interrupt set; TB_COUNT and the
epoch are 0; the log, the journal, the staging sets and both memories are empty. -/
def Obligations.ResetState : Prop :=
  (State.reset.memOk ∧ State.reset.cfgOk ∧ State.reset.pendOk ∧ State.reset.eventsOk) ∧
  ((∀ a, State.reset.reg a = (shReset a).toNat) ∧
      State.reset.kpr.policyLo = 0x4110 ∧ State.reset.kpr.policyHi = 0 ∧ State.reset.kpr.alarm = .clear ∧ State.reset.kpr.dbg = .closed ∧
      (∀ d, d < 50 → (State.reset.domOn d = true ↔ d = 49)) ∧
      (∀ q, (nth State.reset.cp.queues q).st = .disabled ∧ (nth State.reset.cp.queues q).enable = false) ∧ (∀ e, (nth State.reset.cp.eqs e).st = .disabled) ∧
      (∀ v, v < 64 → (nth State.reset.pcie.msix v).masked = true) ∧ State.reset.pcie.irqStat = 0 ∧ State.reset.pcie.irqMask = 0 ∧
      State.reset.tb.count = 0 ∧ State.reset.tb.epoch = 0 ∧ State.reset.err.entries = List.replicate 64 none ∧ State.reset.cp.jrn = [] ∧
      (∀ u, (nth State.reset.units u).staged = [] ∧ (nth State.reset.units u).pend = []) ∧ State.reset.rsv.mem = [] ∧ State.reset.pond.mem = [] ∧
      State.reset.pending = [])

/-! ### The frame of a command -/

/-- The end of a command: its journal entry, in each copy in service, becomes DONE with the status and the RESULT padded to 16 bytes,
its final completion is due, and its thread holds no change list (R281, R282, R288). Every other entry, every other thread's list, and everything
else but the thread's state, is unchanged. -/
def Obligations.EndOfACommand : Prop :=
  ∀ (s : State) (e : JEntry) (status : Nat) (result : List Byte), s.jget e.idx = some e → (s.cp.aOk || s.cp.bOk) = true →
    (s.finish e.idx status result).jget e.idx =
        some { e with st := .done, status := status, result := padTo 16 result, wait := none, finalDue := true } ∧
      (∀ i, i ≠ e.idx → (s.finish e.idx status result).jget i = s.jget i) ∧
      (s.cp.aOk = false → (s.finish e.idx status result).cp.jrnA = s.cp.jrnA) ∧
      (s.cp.bOk = false → (s.finish e.idx status result).cp.jrnB = s.cp.jrnB) ∧
      s.finish e.idx status result =
        { s with cp := { s.cp with jrnA := (s.finish e.idx status result).cp.jrnA, jrnB := (s.finish e.idx status result).cp.jrnB,
                                   threads := (s.finish e.idx status result).cp.threads,
                                   changeLog := upd s.cp.changeLog e.queue (fun _ => 0) } }

/-- A packet-level error ends the command with PARAM_RANGE before any other refusal, and a refused command changes nothing but its
own outcome (R300): shown for NOP, IDENTIFY, GET_STATUS, CONTROL_STORE_INFO, CHANNEL_CONFIG, ARM, DEBUG_CHALLENGE and ERROR_ACK, whatever
Keeper's alarm state is and whatever else would refuse the command. -/
def Obligations.PacketErrorsComeFirst : Prop :=
  ∀ (s : State) (q : Nat) (e : JEntry),
    (CmdReady s q 0x00 e → ¬ PktGood e [] (fun p => pktIndex p == 0) → exec (.nop q) s = .next (s.finish e.idx PARAM_RANGE [])) ∧
    (CmdReady s q 0x01 e → ¬ PktGood e [] (fun p => pktIndex p == 0) → exec (.identify q) s = .next (s.finish e.idx PARAM_RANGE [])) ∧
    (CmdReady s q 0x02 e → ¬ PktGood e [] (fun p => pktIndex p == 0) → exec (.getStatus q) s = .next (s.finish e.idx PARAM_RANGE [])) ∧
    (CmdReady s q 0x78 e → ¬ PktGood e [] (fun p => pktIndex p == 0) → exec (.controlStoreInfo q) s = .next (s.finish e.idx PARAM_RANGE [])) ∧
    (CmdReady s q 0x18 e → ¬ PktGood e [(16, 16), (32, 16), (48, 1)] (fun p => pktIndex p == 0 && rd p 16 16 ≠ 0 && 1 ≤ rd p 48 1 && rd p 48 1 ≤ 15) →
      exec (.channelConfig q) s = .next (s.finish e.idx PARAM_RANGE [])) ∧
    (CmdReady s q 0x20 e → ¬ PktGood e [] (fun p => pktIndex p ≤ 31) → exec (.arm q) s = .next (s.finish e.idx PARAM_RANGE [])) ∧
    (∀ nonce, CmdReady s q 0x69 e → ¬ PktGood e [(16, 1)] (fun p => pktIndex p == 0 && (rd p 16 1 == 1 || rd p 16 1 == 2)) →
      exec (.debugChallenge q nonce) s = .next (s.finish e.idx PARAM_RANGE [])) ∧
    (CmdReady s q 0x71 e → ¬ PktGood e [(16, 8)] (fun p => pktIndex p == 0) → exec (.errorAck q) s = .next (s.finish e.idx PARAM_RANGE []))

/-! ### Queries -/

/-- NOP, IDENTIFY, GET_STATUS, CONTROL_STORE_INFO and RECOVER_REPORT complete OK with the RESULT of R303 and R304, an opcode the
command reference does not list with BAD_OPCODE (R283), and a duplicate with STATE and LAST_SEQ (R270). -/
def Obligations.QueriesComplete : Prop :=
  ∀ (s : State) (q : Nat) (e : JEntry),
    (CmdReady s q 0x00 e → PktGood e [] (fun p => pktIndex p == 0) → exec (.nop q) s = .next (s.finish e.idx OK [])) ∧
    (CmdReady s q 0x01 e → PktGood e [] (fun p => pktIndex p == 0) →
      exec (.identify q) s = .next (s.finish e.idx OK
        ([0x28, 0xA1, 0x00, BitVec.ofNat 8 (s.pcie.gen % 16 + 16 * (s.pcie.width % 8))] ++
          leBytes 4 ((s.cp.image.map Image.version).getD 0) ++ leBytes 8 Config.dieId.toNat))) ∧
    (CmdReady s q 0x02 e → PktGood e [] (fun p => pktIndex p == 0) → exec (.getStatus q) s = .next (s.finish e.idx OK (statusResult s))) ∧
    (∀ i, s.cp.image = some i → CmdReady s q 0x78 e → PktGood e [] (fun p => pktIndex p == 0) →
      exec (.controlStoreInfo q) s = .next (s.finish e.idx OK
        (leBytes 4 i.version ++ leBytes 4 i.words ++ leBytes 1 i.source ++ zeros 3 ++ padTo 4 i.digest))) ∧
    (∀ r, s.cp.report = some r → CmdReady s q 0x03 e →
      PktGood e [(48, 16)] (fun p => pktIndex p == 0 && bulkOk p && !(1 ≤ bulkLen p && bulkLen p ≤ 28)) →
      (bulkLen e.pkt = 0 → ∀ w, exec (.recoverReport q w) s =
        .next (s.finish e.idx OK (leBytes 2 r.num ++ leBytes 2 r.entries.length ++ leBytes 2 0))) ∧
      (bulkLen e.pkt ≠ 0 → s.busOk = true → exec (.recoverReport q true) s =
        let n := min r.entries.length ((bulkLen e.pkt - 32) / 32)
        .next ((s.hostWrite (bulkAddr e.pkt) (r.header n ++ (r.entries.take n).flatMap RepEntry.bytes)).finish e.idx OK
          (leBytes 2 r.num ++ leBytes 2 r.entries.length ++ leBytes 2 n)))) ∧
    (∀ op, op ∉ listedOpcodes → CmdReady s q op e → exec (.badOpcode q) s = .next (s.finish e.idx BAD_OPCODE [])) ∧
    (s.cp.current q = some e → e.dup = true → s.ready q e = true →
      exec (.duplicateCommand q) s = .next (s.finish e.idx STATE (leBytes 8 (nth s.cp.queues q).lastSeq.toNat)))

/-- READ_CONFIG returns up to four registers of a view in its RESULT, and more of them in its buffer with their count in the RESULT
(R305); it changes no register.
READ_CONFIG of a view a unit does not hold ends with STATE (R305). -/
def Obligations.ReadConfigCompletes : Prop :=
  (∀ (s : State) (q : Nat) (e : JEntry) (view a count : Nat),
      rd e.pkt 16 1 = view → rd e.pkt 20 4 = a → rd e.pkt 24 4 = count → CmdReady s q 0x0A e →
      PktGood e [(16, 1), (20, 4), (24, 4), (48, 16)]
        (fun p => pktIndex p == 0 && rd p 16 1 ≤ 3 && rangeOk (rd p 20 4) (rd p 24 4) && bulkOk p && (4 < rd p 24 4 || bulkLen p == 0)) →
      s.viewMissing view a count = false →
      (count ≤ 4 → ∀ w, exec (.readConfig q w) s =
        .next (s.finish e.idx OK ((List.range count).flatMap (fun i => leBytes 4 (s.viewReg view (a + 4 * i)))))) ∧
      (4 < count → 4 ≤ bulkLen e.pkt → s.busOk = true → exec (.readConfig q true) s =
        let n := min count (bulkLen e.pkt / 4)
        .next ((s.hostWrite (bulkAddr e.pkt) ((List.range n).flatMap (fun i => leBytes 4 (s.viewReg view (a + 4 * i))))).finish e.idx OK
          (leBytes 4 n)))) ∧
  (∀ (s : State) (q : Nat) (w : Bool) (e : JEntry), CmdReady s q 0x0A e →
      PktGood e [(16, 1), (20, 4), (24, 4), (48, 16)]
        (fun p => pktIndex p == 0 && rd p 16 1 ≤ 3 && rangeOk (rd p 20 4) (rd p 24 4) && bulkOk p && (4 < rd p 24 4 || bulkLen p == 0)) →
      s.viewMissing (rd e.pkt 16 1) (rd e.pkt 20 4) (rd e.pkt 24 4) = true → s.pwr.starting = false →
      exec (.readConfig q w) s = .next (s.finish e.idx STATE []))

/-! ### Staging and COMMIT -/

/-- STAGE_WRITE stages its inline pairs, or the pairs of its table; CLOCK_OUTPUT_CONFIG and PHASE_STEP stage an output's registers
(R233, R306). Each completes OK where R27 accepts the pairs and the domains are on; one whose change list does not fit in the change log
waits before its micro-commit and changes nothing else (R288).
CHANNEL_CONFIG, POND_CONFIG and CAL_CONTROL stage the registers their WHICH bits name of every channel of the mask: CH_CFG,
OFFSET, the quads' register, and MEMBER last; the four Pond registers; the CAL register (R21, R103, R306). -/
def Obligations.StagePairsAndChannelsComplete : Prop :=
  (∀ (s : State) (q : Nat) (e : JEntry),
      (∀ n, 1 ≤ n → n ≤ 4 → pktIndex e.pkt = n → CmdReady s q 0x08 e → pktOk e.pkt [(16, 48)] = true →
        (∀ i, 8 * n ≤ i → i < 48 → e.pkt.getD (16 + i) 0 = 0) →
        (∀ p ∈ pairsOf ((e.pkt.drop 16).take (8 * n)), bankReg p.1 = false ∧ p.1 < 0x100000) →
        StagesOk s (pairsOf ((e.pkt.drop 16).take (8 * n))) →
        ∀ tbl, exec (.stageWrite q tbl) s = .next (s.staged e (pairsOf ((e.pkt.drop 16).take (8 * n))) 0)) ∧
      (∀ bs, pktIndex e.pkt = 0 → CmdReady s q 0x08 e → pktOk e.pkt [(16, 48)] = true → rd e.pkt 16 32 = 0 → bulkOk e.pkt = true →
        bulkLen e.pkt % 8 = 0 → 8 ≤ bulkLen e.pkt → bulkLen e.pkt ≤ 32768 → s.busOk = true →
        (∀ p ∈ pairsOf (padTo (bulkLen e.pkt) bs), bankReg p.1 = false ∧ p.1 < 0x100000) →
        StagesOk s (pairsOf (padTo (bulkLen e.pkt) bs)) →
        exec (.stageWrite q (some bs)) s = .next (s.staged e (pairsOf (padTo (bulkLen e.pkt) bs)) 0)) ∧
      (∀ k cfg ph, pktIndex e.pkt = k → rd e.pkt 16 4 = cfg → rd e.pkt 20 4 = ph → CmdReady s q 0x12 e →
        PktGood e [(16, 4), (20, 4), (24, 1)] (fun p => pktIndex p ≤ 3 && 1 ≤ rd p 24 1 && rd p 24 1 ≤ 3) →
        (rd e.pkt 24 1 = 1 → StagesOk s [(outCfgA k, cfg)] → exec (.clockOutputConfig q) s = .next (s.staged e [(outCfgA k, cfg)] 0)) ∧
        (rd e.pkt 24 1 = 2 → StagesOk s [(outPhaseA k, ph)] → exec (.clockOutputConfig q) s = .next (s.staged e [(outPhaseA k, ph)] 0)) ∧
        (rd e.pkt 24 1 = 3 → StagesOk s [(outCfgA k, cfg), (outPhaseA k, ph)] →
          exec (.clockOutputConfig q) s = .next (s.staged e [(outCfgA k, cfg), (outPhaseA k, ph)] 0))) ∧
      (∀ k v, pktIndex e.pkt = k →
        v = stepPhase (s.shadow (outPhaseA k)) (fld (s.shadow (outCfgA k)) 19 4) (sgn 16 (rd e.pkt 16 2)) →
        CmdReady s q 0x13 e → PktGood e [(16, 2)] (fun p => pktIndex p ≤ 3) → StagesOk s [(outPhaseA k, v)] →
        exec (.phaseStep q) s = .next (s.staged e [(outPhaseA k, v)] v)) ∧
      (∀ k v, pktIndex e.pkt = k →
        v = stepPhase (s.shadow (outPhaseA k)) (fld (s.shadow (outCfgA k)) 19 4) (sgn 16 (rd e.pkt 16 2)) →
        s.cp.current q = some e → opcode e.pkt = 0x13 → e.dup = false → s.ready q e = true → s.logRoom e = false →
        PktGood e [(16, 2)] (fun p => pktIndex p ≤ 3) → StagesOk s [(outPhaseA k, v)] →
        exec (.phaseStep q) s = .next (s.threadWaits e.queue))) ∧
  (∀ (s : State) (q : Nat) (e : JEntry) (ns : List Nat) (w : Nat), pktMask e.pkt = ns → rd e.pkt 48 1 = w →
      (∀ ps, ps = (if bit w 0 then ns.map (fun n => (chCfgA n, rd e.pkt 32 4)) else []) ++
            (if bit w 1 then ns.map (fun n => (chOffsetA n, rd e.pkt 36 4)) else []) ++
            (if bit w 2 then (ns.filter (· % 4 == 0)).map (fun n => (quadCfgA (n / 4), rd e.pkt 40 4)) else []) ++
            (if bit w 3 then ns.map (fun n => (memberA n, rd e.pkt 44 4)) else []) →
        CmdReady s q 0x18 e →
        PktGood e [(16, 16), (32, 16), (48, 1)] (fun p => pktIndex p == 0 && rd p 16 16 ≠ 0 && 1 ≤ rd p 48 1 && rd p 48 1 ≤ 15) →
        StagesOk s ps → exec (.channelConfig q) s = .next (s.staged e ps 0)) ∧
      (∀ ps, ps = ns.flatMap (fun n => ((List.range 4).filter (bit w)).map (fun j => (pondA n (4 * j), rd e.pkt (32 + 4 * j) 4))) →
        CmdReady s q 0x2A e →
        PktGood e [(16, 16), (32, 16), (48, 1)] (fun p => pktIndex p == 0 && rd p 16 16 ≠ 0 && 1 ≤ rd p 48 1 && rd p 48 1 ≤ 15) →
        StagesOk s ps → exec (.pondConfig q) s = .next (s.staged e ps 0)) ∧
      (∀ ps, ps = ns.map (fun n => (weirA n 0xC0, rd e.pkt 32 4)) →
        CmdReady s q 0x30 e → PktGood e [(16, 16), (32, 4)] (fun p => pktIndex p == 0 && rd p 16 16 ≠ 0) →
        StagesOk s ps → exec (.calControl q) s = .next (s.staged e ps 0)))

/-- The staging commands with a table: DELAY_TABLE_LOAD, FILTER_BANK_LOAD (whose RESULT carries the bank's CRC), TRIGGER_PROGRAM,
SOUNDING_CONFIG, DISPLAY_CONFIG, LAMP_FRAME_WRITE and LAMP_CONFIG stage what the table holds (R99, R110, R111, R306, R307). -/
def Obligations.TableStagingCompletes : Prop :=
  ∀ (s : State) (q : Nat) (e : JEntry) (tbl b : List Byte), s.busOk = true → padTo (bulkLen e.pkt) tbl = b →
    (∀ ps, ps = (pktMask e.pkt).map (fun n => (weirA n 8, rd b (4 * n) 4)) → CmdReady s q 0x19 e →
      PktGood e [(16, 16), (48, 16)] (fun p => pktIndex p == 0 && rd p 16 16 ≠ 0 && bulkOk p && bulkLen p == 512) →
      StagesOk s ps → exec (.delayTableLoad q (some tbl)) s = .next (s.staged e ps 0)) ∧
    (∀ ps, ps = (pktMask e.pkt).flatMap (fun n => bankPairs n (rd e.pkt 32 1) (rd e.pkt 34 2) (rd e.pkt 36 1) (crc32 b) (wordsOf b)) →
      CmdReady s q 0x1A e →
      PktGood e [(16, 16), (32, 1), (34, 2), (36, 1), (48, 16)]
        (fun p => pktIndex p == 0 && rd p 16 16 ≠ 0 && rd p 32 1 ≤ 1 && 1 ≤ rd p 34 2 && rd p 34 2 ≤ 1536 && rd p 36 1 ≤ 15 &&
          bulkOk p && bulkLen p == 4 * rd p 34 2) →
      (∀ w ∈ wordsOf b, w < 2 ^ 18) → StagesOk s ps →
      exec (.filterBankLoad q (some tbl)) s = .next (s.staged e ps (crc32 b))) ∧
    (∀ ps, imagePairs (trgA (pktIndex e.pkt) 0) b = some ps → CmdReady s q 0x1B e →
      PktGood e [(48, 16)] (fun p => pktIndex p ≤ 31 && bulkOk p && bulkLen p == 160) →
      StagesOk s ps → exec (.triggerProgram q (some tbl)) s = .next (s.staged e ps 0)) ∧
    (∀ ps, imagePairs (sndA (pktIndex e.pkt) 0) b = some ps → CmdReady s q 0x2B e →
      PktGood e [(48, 16)] (fun p => pktIndex p ≤ 31 && bulkOk p && bulkLen p == 512) →
      StagesOk s ps → exec (.soundingConfig q (some tbl)) s = .next (s.staged e ps 0)) ∧
    (∀ ps, imagePairs (ltnA (rd e.pkt 16 4)) b = some ps → CmdReady s q 0x48 e →
      PktGood e [(16, 4), (48, 16)]
        (fun p => pktIndex p == 0 && bulkOk p && rd p 16 4 % 4 == 0 && rd p 16 4 + bulkLen p ≤ 0x4000) →
      StagesOk s ps → exec (.displayConfig q (some tbl)) s = .next (s.staged e ps 0)) ∧
    (∀ ps, ps = (wordsOf b).zipIdx.map (fun (v, i) => (lampDutyA (rd e.pkt 16 1 + i), v)) → CmdReady s q 0x50 e →
      PktGood e [(16, 1), (17, 1), (48, 16)]
        (fun p => pktIndex p == 0 && 1 ≤ rd p 17 1 && rd p 16 1 + rd p 17 1 ≤ 128 && bulkOk p && bulkLen p == 4 * rd p 17 1) →
      StagesOk s ps → exec (.lampFrameWrite q (some tbl)) s = .next (s.staged e ps 0)) ∧
    (∀ ps, imagePairs (lampA (rd e.pkt 16 4)) b = some ps → CmdReady s q 0x51 e →
      PktGood e [(16, 4), (48, 16)]
        (fun p => pktIndex p == 0 && bulkOk p && rd p 16 4 % 4 == 0 && rd p 16 4 + bulkLen p ≤ 0x800) →
      StagesOk s ps → exec (.lampConfig q (some tbl)) s = .next (s.staged e ps 0))

/-- Staging touches staging sets, and the note of which unit staged a register last, alone: the active set, every pending generation, the generation numbers and every other field of the
state stay as they were (R22, R26).
A staging command with a value outside its register's range stages nothing and ends with PARAM_RANGE, whatever else it stages
(R27); one that a register's dark domain or an armed group's membership refuses stages nothing either and ends with STATE. -/
def Obligations.StagingIsConfined : Prop :=
  (∀ (s : State) (ps : List (Nat × Nat)),
      (stagePairs s ps).1 = { s with units := (stagePairs s ps).1.units, cp := { s.cp with stageOrd := (stagePairs s ps).1.cp.stageOrd } } ∧
        (stagePairs s ps).1.units.map (fun u => { u with staged := [] }) = s.units.map (fun u => { u with staged := [] })) ∧
  (∀ (s : State) (ps : List (Nat × Nat)) (extra : Nat),
      ((∃ p ∈ ps, p.1 < 0x1000000 ∧ shValueOk p.1 p.2 = false) → stageAll s ps extra = .done s PARAM_RANGE []) ∧
      ((ps.all (fun (a, v) => 0x1000000 ≤ a || shValueOk a v)) = true → (∃ p ∈ ps, (stagePairs s ps).1.shadowOk p.1 = false) →
        stageAll s ps extra = .done s PARAM_RANGE []) ∧
      ((ps.all (fun (a, v) => 0x1000000 ≤ a || shValueOk a v)) = true → (ps.all (fun (a, _) => (stagePairs s ps).1.shadowOk a)) = true →
        ((stagePairs s ps).2.2 = true ∨ ∃ p ∈ ps, s.domOn (regDom p.1) = false) → stageAll s ps extra = .done s STATE []))

/-- A register of a frame, lamp frame or divider unit that has just been staged reads, in the shadow view, as the value staged,
whatever its pending generations hold (R23, R26). -/
def Obligations.ShadowReadsTheStagedValue : Prop :=
  ∀ (s : State) (a v u : Nat) (r : ShReg), s.units.length = 36 → shReg a = some r → r.owner = .unit u → u < 36 → v < 2 ^ 32 →
    (s.stage1 a v).shadow a = v

/-- COMMIT with ACTION APPLY makes the unit's staging set its newest pending generation, numbered NEXT_GEN, clears the staging set and
waits for the generation's boundary (R30, R32, R34); the active set and every other unit are unchanged, and the generation is noted as the newest staged (R26). With nothing changed it is refused with
PARAM_RANGE for a ganged quad split over units and with STATE for a move of a channel of an armed group (R30). -/
def Obligations.CommitApplyCompletes : Prop :=
  (∀ (s : State) (q : Nat) (e : JEntry) (u : Nat), pktIndex e.pkt = u →
      PktGood e [(16, 1)] (fun p => pktIndex p ≤ 35 && rd p 16 1 ≤ 1) → CmdReady s q 0x09 e →
      (rd e.pkt 16 1 = 0 → s.gangSplit (fun k => k = u) = false → s.stagedMoveArmed u = false → (nth s.units u).pend.length < 2 →
        exec (.commitApply q) s = .next
          (((s.updCp (fun c =>
            { c with genOrd := (u, (nth s.units u).nextGen) :: c.genOrd.filter (fun p => p != (u, (nth s.units u).nextGen)) })).updUnit u
              (fun x => { x with pend := x.pend ++ [{ num := x.nextGen, regs := x.staged }], staged := [],
                                 nextGen := (x.nextGen + 1) % 65536, discarded := false })).waitsFor
            e (.commit u (nth s.units u).nextGen) (some (commitResult (nth s.units u).nextGen 0 u 0))))) ∧
  (∀ (s : State) (q : Nat) (e : JEntry) (u : Nat), pktIndex e.pkt = u →
      PktGood e [(16, 1)] (fun p => pktIndex p ≤ 35 && rd p 16 1 == 0) → CmdReady s q 0x09 e →
      (s.gangSplit (fun k => k = u) = true → exec (.commitApply q) s = .next (s.finish e.idx PARAM_RANGE [])) ∧
      (s.pwr.starting = false → s.gangSplit (fun k => k = u) = false → s.stagedMoveArmed u = true →
        exec (.commitApply q) s = .next (s.finish e.idx STATE [])))

/-! ### Queues, completions, events and the engine -/

/-- A doorbell write moves SQ_TAIL when it lies within the ring (R269); one outside it puts the queue into OVERRUN, counts it, owes a
QUEUE_OVERRUN completion with each refused tail and logs CONTAINED CP 5 (R271, R475); a SUSPENDED queue holds the newest write (R295); with PD45
off it is latched and asks for a wake (R431, R433). On a queue in OVERRUN or FETCH_ERROR it is judged as on a RUNNING one; a DRAINING queue stays
DRAINING and owes the completion, and on a DISABLED one a tail outside the ring changes nothing: the model's choice (notes/assumptions/77.md,
107.md).
A CQ head write consumes the completions up to it: their entries leave both journal copies in service, and a DRAINING queue with
none left becomes DISABLED (R269, R273, R281); an EQ head write moves EQ_HEAD; with PD45 off each is latched (R431), and the latched writes
apply in order, each as it would have, once PD45 and the command processor run. A queue that owes a QUEUE_OVERRUN completion drains no further
until that is posted. -/
def Obligations.DoorbellsAndHeadWritesComplete : Prop :=
  (∀ (s : State) (q : Nat) (v : Word) (x : Queue), nth s.cp.queues q = x →
      (s.domOn 45 = true → x.st ≠ .suspended → (v - x.sqHead).toNat ≤ 2 ^ x.sqSize →
        exec (.sqTailWrite q v) s = .next (s.tlp.updQ q (fun x => { x with sqTail := v }))) ∧
      (s.domOn 45 = true → x.st = .running ∨ x.st = .overrun ∨ x.st = .fetchError → 2 ^ x.sqSize < (v - x.sqHead).toNat →
        exec (.sqTailWrite q v) s = .next ((s.tlp.log CONTAINED bCP 5 q v.toNat).updQ q (fun x =>
          { x with st := .overrun, overrunDue := x.overrunDue ++ [v], overrunCnt := min 65535 (x.overrunCnt + 1) }))) ∧
      (s.domOn 45 = true → x.st = .draining → 2 ^ x.sqSize < (v - x.sqHead).toNat →
        exec (.sqTailWrite q v) s = .next ((s.tlp.log CONTAINED bCP 5 q v.toNat).updQ q (fun x =>
          { x with overrunDue := x.overrunDue ++ [v], overrunCnt := min 65535 (x.overrunCnt + 1) }))) ∧
      (s.domOn 45 = true → x.st = .disabled → 2 ^ x.sqSize < (v - x.sqHead).toNat → exec (.sqTailWrite q v) s = .next s.tlp) ∧
      (s.domOn 45 = true → x.st = .suspended → exec (.sqTailWrite q v) s = .next (s.tlp.updQ q (fun x => { x with heldTail := some v }))) ∧
      (s.domOn 45 = false →
        exec (.sqTailWrite q v) s = .next
          ((s.tlp.updPwr (fun p => { p with latched := p.latched ++ [{ addr := 0x8000 + 0x80 * q + 0x14, val := v }] })).askWake true))) ∧
  (∀ (s : State) (v : Word),
      (∀ q x s', nth s.cp.queues q = x → s.domOn 45 = true →
        s' = (s.tlp.updCp (fun c => c.mapJrn (List.filter (fun e =>
              !(e.queue == q && e.posted && (e.cqPos - x.cqHead).toNat < (v - x.cqHead).toNat))))).updQ q (fun y => { y with cqHead := v }) →
        (x.st ≠ .draining ∨ (∃ e ∈ s'.cp.jrn, e.queue = q) ∨ x.overrunDue ≠ [] → exec (.cqHeadWrite q v) s = .next s') ∧
        (x.st = .draining → (∀ e ∈ s'.cp.jrn, e.queue ≠ q) → x.overrunDue = [] → exec (.cqHeadWrite q v) s = .next (s'.updQ q (fun y => { y with st := .disabled })))) ∧
      (∀ q, s.domOn 45 = false →
        exec (.cqHeadWrite q v) s = .next (s.tlp.updPwr (fun p => { p with latched := p.latched ++ [{ addr := 0x8000 + 0x80 * q + 0x18, val := v }] }))) ∧
      (∀ e, s.domOn 45 = true → exec (.eqHeadWrite e v) s = .next (s.tlp.updEq e (fun x => { x with head := v }))) ∧
      (∀ e, s.domOn 45 = false →
        exec (.eqHeadWrite e v) s = .next (s.tlp.updPwr (fun p => { p with latched := p.latched ++ [{ addr := 0xA000 + 0x40 * e + 0x0C, val := v }] })))) ∧
  (∀ s : State, s.domOn 45 = true → s.cp.st = .running →
      exec .latchedWritesApply s = .next ((s.pwr.latched.foldl State.applyLatched s).updPwr (fun p => { p with latched := [], wakePend := false }))) ∧
  (∀ (s : State) (v : Word), s.domOn 45 = true →
      (∀ q, q < 8 → exec (.sqTailWrite q v) s = .next (s.tlp.applyLatched { addr := 0x8000 + 0x80 * q + 0x14, val := v })) ∧
      (∀ q, q < 8 → exec (.cqHeadWrite q v) s = .next (s.tlp.applyLatched { addr := 0x8000 + 0x80 * q + 0x18, val := v })) ∧
      (∀ e, e < 4 → exec (.eqHeadWrite e v) s = .next (s.tlp.applyLatched { addr := 0xA000 + 0x40 * e + 0x0C, val := v })))

/-- The entry an accepted packet becomes in the journal: the next global index, the packet, and whether it is a duplicate (R269, R270). -/
def Obligations.FetchAcceptsIntoTheJournal : Prop :=
  ∀ (s : State) (q : Nat) (p : Packet) (x : Queue), nth s.cp.queues q = x → q < 8 →
    s.cp.st = .running → s.busOk = true → s.domOn 45 = true → x.st = .running → x.sqHead ≠ x.sqTail →
    (s.cp.jrn.filter (fun e => e.queue == q)).length < 32 → (s.cp.aOk || s.cp.bOk) = true →
    exec (.sqFetch [(q, some [p])]) s = .next
      ((s.tlp.updCp (fun c => { c with
          jrnA := if c.aOk then c.jrnA ++ [{ idx := c.nextIdx, queue := q, pkt := padTo 64 p, dup := decide (pktSeq p ≤ x.lastSeq.toNat) }] else c.jrnA,
          jrnB := if c.bOk then c.jrnB ++ [{ idx := c.nextIdx, queue := q, pkt := padTo 64 p, dup := decide (pktSeq p ≤ x.lastSeq.toNat) }] else c.jrnB,
          nextIdx := c.nextIdx + 1 })).updQ q (fun y =>
        if pktSeq p ≤ x.lastSeq.toNat then { y with sqHead := y.sqHead + 1, dupCnt := satAdd 65535 y.dupCnt 1 }
        else { y with sqHead := y.sqHead + 1, lastSeq := BitVec.ofNat 64 (pktSeq p) })) ∧
    exec (.sqFetch [(q, none)]) s = .next
      ((s.tlp.log CONTAINED bCP 6 q (x.sqBase.toNat + 64 * (x.sqHead.toNat % 2 ^ x.sqSize))).updQ q (fun y => { y with st := .fetchError }))

/-- Q_CTL: ENABLE on a DISABLED queue runs it with its counters at 0 and LAST_SEQ 0; ENABLE 0 makes a queue with a journaled
command, or with a QUEUE_OVERRUN completion owed, DRAINING and any other DISABLED (R271, R273); RESUME runs a SUSPENDED queue and rings the doorbell it held (R295); CLEAR_ERR returns
OVERRUN and FETCH_ERROR to RUNNING with SQ_TAIL at SQ_HEAD (R271, R272). The sizes change only while the queue is DISABLED or SUSPENDED,
and CQ_IRQ_EN with every write (R297). A bit that its state does not name has no effect.
EQ_CTL: ENABLE on a DISABLED event queue runs it from empty, ENABLE 0 on one that holds nothing disables it, and RESUME runs a
SUSPENDED one, whose ring continues where it stood (R273, R295, R297). With PD45 off a control write is discarded (R431). -/
def Obligations.QueueControlCompletes : Prop :=
  (∀ (s : State) (q : Nat) (v : Word) (x y : Queue), nth s.cp.queues q = x → q < 8 → s.cp.queues.length = 8 → s.domOn 45 = true →
      y = { x with
        irqEn := bit v.toNat 3,
        sqSize := if (x.st = .disabled ∨ x.st = .suspended) ∧ 4 ≤ fld v.toNat 7 4 ∧ fld v.toNat 7 4 ≤ 12 then fld v.toNat 7 4 else x.sqSize,
        cqSize := if (x.st = .disabled ∨ x.st = .suspended) ∧ 5 ≤ fld v.toNat 11 8 ∧ fld v.toNat 11 8 ≤ 13 then fld v.toNat 11 8 else x.cqSize } →
      (x.st = .disabled →
        exec (.qEnable q v) s = .next (s.tlp.updQ q (fun _ =>
          { y with enable := true, st := .running, sqHead := 0, sqTail := 0, cqHead := 0, cqTail := 0, lastSeq := 0, heldTail := none,
                   overrunDue := [] }))) ∧
      (x.st = .running ∨ x.st = .draining ∨ (x.st = .overrun ∨ x.st = .fetchError) ∧ bit v.toNat 2 = false ∨ x.st = .suspended ∧ bit v.toNat 1 = false →
        exec (.qEnable q v) s = .next (s.tlp.updQ q (fun _ => { y with enable := true }))) ∧
      (x.st = .disabled ∨ x.st = .draining → exec (.qDisable q v) s = .next (s.tlp.updQ q (fun _ => { y with enable := false }))) ∧
      (x.st ≠ .disabled → x.st ≠ .draining → s.cp.jrn.filter (fun e => e.queue == q) ≠ [] ∨ x.overrunDue ≠ [] →
        exec (.qDisable q v) s = .next (s.tlp.updQ q (fun _ => { y with enable := false, st := .draining }))) ∧
      (x.st ≠ .disabled → x.st ≠ .draining → s.cp.jrn.filter (fun e => e.queue == q) = [] → x.overrunDue = [] →
        exec (.qDisable q v) s = .next (s.tlp.updQ q (fun _ => { y with enable := false, st := .disabled }))) ∧
      (x.st = .suspended → bit v.toNat 0 = true → x.heldTail = none →
        exec (.qResume q v) s = .next (s.tlp.updQ q (fun _ => { y with enable := true, st := .running }))) ∧
      (∀ w, x.st = .suspended → bit v.toNat 0 = true → x.heldTail = some w →
        ((w - x.sqHead).toNat ≤ 2 ^ y.sqSize →
          exec (.qResume q v) s = .next (s.tlp.updQ q (fun _ => { y with enable := true, st := .running, heldTail := none, sqTail := w }))) ∧
        (2 ^ y.sqSize < (w - x.sqHead).toNat → bit v.toNat 2 = false →
          exec (.qResume q v) s = .next (((s.tlp.updQ q (fun _ => { y with enable := true, st := .running, heldTail := none })).log CONTAINED bCP 5 q w.toNat).updQ q
            (fun x => { x with st := .overrun, overrunDue := x.overrunDue ++ [w], overrunCnt := min 65535 (x.overrunCnt + 1) })))) ∧
      (x.st = .overrun ∨ x.st = .fetchError → bit v.toNat 0 = true →
        exec (.clearErr q v) s = .next (s.tlp.updQ q (fun _ => { y with enable := true, st := .running, sqTail := x.sqHead }))) ∧
      (bit v.toNat 0 = false → exec (.qResume q v) s = exec (.qDisable q v) s ∧ exec (.clearErr q v) s = exec (.qDisable q v) s) ∧
      (bit v.toNat 0 = true → x.st ≠ .suspended →
        exec (.qResume q v) s = exec (.qEnable q v) s ∧ (x.st ≠ .overrun → x.st ≠ .fetchError → exec (.clearErr q v) s = exec (.qEnable q v) s))) ∧
  (∀ (s : State) (e : Nat) (v : Word) (x y : EventQueue), nth s.cp.eqs e = x → e < 4 → s.cp.eqs.length = 4 → s.domOn 45 = true →
      y = { x with
        irqEn := bit v.toNat 2,
        size := if (x.st = .disabled ∨ x.st = .suspended) ∧ 5 ≤ fld v.toNat 7 4 ∧ fld v.toNat 7 4 ≤ 12 then fld v.toNat 7 4 else x.size } →
      (x.st = .disabled →
        exec (.eqEnable e v) s = .next (s.tlp.updEq e (fun _ => { y with enable := true, st := .running, head := 0, tail := 0 }))) ∧
      (x.st = .running ∨ x.st = .suspended ∧ bit v.toNat 1 = false → exec (.eqEnable e v) s = .next (s.tlp.updEq e (fun _ => { y with enable := true }))) ∧
      (x.held = [] → exec (.eqDisable e v) s = .next (s.tlp.updEq e (fun _ => { y with enable := false, st := .disabled }))) ∧
      (x.held ≠ [] → x.st ≠ .suspended ∨ bit v.toNat 1 = false → exec (.eqDisable e v) s = .next (s.tlp.updEq e (fun _ => { y with enable := false }))) ∧
      (x.st = .suspended → bit v.toNat 0 = true → exec (.eqResume e v) s = .next (s.tlp.updEq e (fun _ => { y with enable := true, st := .running }))) ∧
      (x.st = .suspended → bit v.toNat 0 = false → x.held ≠ [] →
        exec (.eqResume e v) s = .next (s.tlp.updEq e (fun _ => { y with enable := false, st := .running })))) ∧
  (∀ (s : State) (k : Nat) (v : Word), s.domOn 45 = false →
      exec (.qEnable k v) s = .next s.tlp ∧ exec (.qDisable k v) s = .next s.tlp ∧ exec (.qResume k v) s = .next s.tlp ∧ exec (.clearErr k v) s = .next s.tlp ∧
      exec (.eqEnable k v) s = .next s.tlp ∧ exec (.eqDisable k v) s = .next s.tlp ∧ exec (.eqResume k v) s = .next s.tlp)

/-- Posting writes the completion of R266 at entry CQ_TAIL of the ring, advances CQ_TAIL, and signals vector q where CQ_IRQ_EN is set (R268, R373): the
rolled-back command's first, then the interim one, then the final one, which marks the command posted (R281, R291); a queue that owes no completion of a command
posts QUEUE_OVERRUN with LAST_SEQ and the oldest refused tail, the last of which makes a DRAINING queue with no journaled command DISABLED (R271, R273). A power
sequence that waits for the queues' completions then goes on (R428). EVENT_POST writes the oldest held event of a RUNNING EQ with room at entry EQ_TAIL, as R277
lays it out, and advances EQ_TAIL; with EQ_IRQ_EN it signals vector 8 + e (R280, R373); an EQ whose ENABLE is 0 is DISABLED once it holds nothing (R297). -/
def Obligations.Posting : Prop :=
  (∀ (s : State) (q : Nat) (x : Queue), nth s.cp.queues q = x → x.st ≠ .suspended → x.st ≠ .disabled →
      (x.cqTail - x.cqHead).toNat < 2 ^ x.cqSize → s.busOk = true → s.domOn 45 = true →
      (∀ e, s.cp.current q = some e → e.rollbackDue = true →
        exec (.cqPost q) s = .next (State.goesOn ((s.posted q (completion x q (pktSeq e.pkt) ROLLED_BACK_REQUEUED true e.dup [])).updJ e.idx
          (fun e => { e with rollbackDue := false })))) ∧
      (∀ e r, s.cp.current q = some e → e.rollbackDue = false → e.acceptedDue = some r →
        exec (.cqPost q) s = .next (State.goesOn ((s.posted q (completion x q (pktSeq e.pkt) ACCEPTED e.recovered e.dup r)).updJ e.idx
          (fun e => { e with acceptedDue := none })))) ∧
      (∀ e, s.cp.current q = some e → e.rollbackDue = false → e.acceptedDue = none → e.finalDue = true →
        exec (.cqPost q) s = .next (State.goesOn ((s.posted q (completion x q (pktSeq e.pkt) e.status e.recovered e.dup e.result)).updJ e.idx
          (fun e => { e with posted := true, cqPos := x.cqTail })))) ∧
      (∀ v rest t, (∀ e, s.cp.current q = some e → e.rollbackDue = false ∧ e.acceptedDue = none ∧ e.finalDue = false) → x.overrunDue = v :: rest →
        t = (s.posted q (completion x q x.lastSeq.toNat QUEUE_OVERRUN false false (leBytes 4 v.toNat))).updQ q (fun y => { y with overrunDue := rest }) →
        (x.st ≠ .draining ∨ rest ≠ [] ∨ (∃ e ∈ s.cp.jrn, e.queue = q) → exec (.cqPost q) s = .next (State.goesOn t)) ∧
        (x.st = .draining → rest = [] → (∀ e ∈ s.cp.jrn, e.queue ≠ q) →
          exec (.cqPost q) s = .next (State.goesOn (t.updQ q (fun y => { y with st := .disabled })))))) ∧
  (∀ (s : State) (e : Nat) (x : EventQueue) (ev : Event) (rest : List Event), nth s.cp.eqs e = x → e < s.cp.eqs.length →
      x.st = .running → (x.tail - x.head).toNat < 2 ^ x.size → s.busOk = true → s.domOn 45 = true → x.held = ev :: rest →
      ∀ t, t = (s.hostWrite (x.base.toNat + 32 * (x.tail.toNat % 2 ^ x.size)) (eventRecord x e ev)).updEq e
            (fun y => { y with held := rest, tail := y.tail + 1 }) →
      (x.enable = true ∨ rest ≠ [] → exec (.eventPost e) s = .next (if x.irqEn then t.signal (8 + e) else t)) ∧
      (x.enable = false → rest = [] →
        exec (.eventPost e) s = .next ((if x.irqEn then t.signal (8 + e) else t).updEq e (fun y => { y with st := .disabled }))))

/-- An event raised while PD45 runs takes the EVT_SEQ of its type's EQ and is held there, oldest first, where fewer than 256 are held,
marked as the one before which events were lost where they were; otherwise it is lost: EVT_SEQ still advances, EQ_LOST counts it, and the next event held says so (R277, R278, R280). -/
def Obligations.EventsAreHeldOrCounted : Prop :=
  ∀ (s : State) (type source : Nat) (tag : Option Nat) (tb : BitVec 64) (payload : List Byte) (x : EventQueue),
    nth s.cp.eqs (eqOf type) = x → eqOf type < s.cp.eqs.length → s.domOn 45 = true → s.pcie.cfg.d3hot = false →
    (x.held.length < 256 →
      s.event type source tag tb payload = s.updEq (eqOf type) (fun _ =>
        { x with held := x.held ++ [{ type := type, source := source, tag := tag, lostBefore := x.lostFlag, seq := x.evtSeq, tb := tb,
                                      payload := padTo 16 payload }],
                 evtSeq := (x.evtSeq + 1) % 65536, lostFlag := false })) ∧
    (256 ≤ x.held.length →
      s.event type source tag tb payload = s.updEq (eqOf type) (fun _ =>
        { x with lost := min 0xFFFFFFFF (x.lost + 1), evtSeq := (x.evtSeq + 1) % 65536, lostFlag := true }))

/-- LOCKSTEP_MISMATCH counts itself and starts an engine restart; the sixteenth within one second raises the alarm source LOCKSTEP
(R285, R289, R463).
After an engine restart that a mismatch started, both self-tests passing keeps the pair in lockstep and logs CORRECTED CP 1; one
failing retires that sequencer with DEGRADED CP 2 and the other goes on alone; both failing stops commands with FATAL CP 3 (R285, R475).
Where one goes on, the journal is classified, the threads hold no change lists and the queues continue (R288, R289, R290). -/
def Obligations.LockstepCompletes : Prop :=
  (∀ s : State, s.cp.st = .running → s.cp.lockstep = true →
      (s.cp.mismatchTb.length < 15 →
        exec .lockstepMismatch s = .next
          ((s.updCp (fun c => { c with mismatchCnt := satAdd 65535 c.mismatchCnt 1, mismatchTb := s.tb.count :: c.mismatchTb })).startRestart
            { kind := 4, mismatch := true })) ∧
      (15 ≤ s.cp.mismatchTb.length → (∀ x ∈ s.cp.mismatchTb, (s.tb.count - x).toNat < s.fs) → 0 < s.fs →
        exec .lockstepMismatch s = .next
          (((s.updCp (fun c => { c with mismatchCnt := satAdd 65535 c.mismatchCnt 1, mismatchTb := (s.tb.count :: c.mismatchTb).take 16 })).raiseAlarm 5 0).startRestart
            { kind := 4, mismatch := true }))) ∧
  (∀ (s : State) (r : Restart), s.cp.restart = some r → s.cp.st = .restarting → s.cp.retiredA = false → s.cp.retiredB = false →
      (r.mismatch = true →
        exec (.sequencerSelfTestDone true true) s = .next
          (((((s.log CORRECTED bCP 1 0 s.cp.mismatchCnt).updCp (fun c => { c with lockstep := true })).dropRolledBack).recover
              { kind := r.kind, domain := r.domain } 0 []).updCp
            (fun c => { c with st := .running, restart := none, threads := c.threads.map (fun _ => {}), changeLog := List.replicate 8 0 }))) ∧
      (exec (.sequencerSelfTestDone true false) s = .next
          (((((s.log DEGRADED bCP 2 1 2).updCp (fun c => { c with lockstep := false, retiredA := false, retiredB := true })).dropRolledBack).recover
              { kind := r.kind, domain := r.domain } 0 []).updCp
            (fun c => { c with st := .running, restart := none, threads := c.threads.map (fun _ => {}), changeLog := List.replicate 8 0 }))) ∧
      (exec (.sequencerSelfTestDone false false) s = .next
          (((s.log FATAL bCP 3 0 3).updCp (fun c => { c with lockstep := false })).updCp (fun c => { c with st := .stopped, restart := none }))))

/-- MICRO_TRAP saves the thread's micro-state in a frame, and the handler of the condition acts: a corrected error is logged CORRECTED
CP 8, a bulk read error ends the command with PARAM_RANGE and a missing reply with INTERNAL_FAULT, each logged CONTAINED CP 7, an uncorrectable
error restarts the engine; the end of a handler restores the newest frame; a third nested trap locks the thread with FATAL CP 4 and restarts
the engine (R286, R287). What the handler leaves in the live registers, and how much of its change list a
thread had written when the trap met it, are free values, the latter at most its command's changes and the room there is (R288).
BLOCK_REPLY_TIMEOUT ends the command with INTERNAL_FAULT and logs CONTAINED CP 7 (R286); REQUEUED_EXECUTE begins a requeued command
when every one with a lower index has begun (R290); a journal copy that fails leaves service with DEGRADED JRNL 1, and the second one with
FATAL JRNL 2 stops commands; copy B returns by a rebuild from copy A once PD43 is on (R16, R282). -/
def Obligations.EngineEventsComplete : Prop :=
  (∀ (s : State) (k : Nat) (t : Thread) (e : JEntry), nth s.cp.threads k = t → s.cp.st = .running → s.cp.current k = some e →
      t.st ≠ .locked →
      (e.wait = none → ∃ l, l ≤ changesOf e.pkt ∧ l ≤ s.cp.logSpace k ∧
        s.listAtTrap k (s.freeCtr + 22) = (if e.finalDue = false ∧ t.frames = [] then s.updCp (fun p => { p with changeLog := upd p.changeLog k (fun _ => l) }) else s)) ∧
      (∀ s', s' = (({ s with freeCtr := s.freeCtr + 23 }).listAtTrap k (s.freeCtr + 22)).updThread k (fun x =>
            { x with frames := x.cur :: x.frames, cur := freeFrame s.freeCtr, st := if x.frames.isEmpty then .trap1 else .trap2 }) →
        t.frames.length < 2 →
        (∀ a, exec (.microTrap k (.corrected a)) s = .next (s'.log CORRECTED bCP 8 k a)) ∧
        (e.finalDue = false → e.wait = none →
          exec (.microTrap k .bulkReadError) s = .next (((s'.logCp7 e).finish e.idx PARAM_RANGE []).updThread k (fun _ => {})) ∧
          exec (.microTrap k .noReply) s = .next (((s'.logCp7 e).finish e.idx INTERNAL_FAULT []).updThread k (fun _ => {}))) ∧
        exec (.microTrap k .uncorrectable) s = .next (s'.startRestart { kind := 4 }) ∧
        exec (.microTrap k .abortAll) s = .next s') ∧
      (∀ f, t.frames = [f] → e.wait = none →
        exec (.microTrap k .handlerEnd) s = .next (s.updThread k (fun x => { x with cur := f, frames := [], st := .idle }))) ∧
      (2 ≤ t.frames.length → e.finalDue = false → e.wait = none → e.lockedOnce = false → ∀ a,
        exec (.microTrap k (.corrected a)) s = .next
          (((((s.log FATAL bCP 4 k t.cur.microPc).updCp (fun c => { c with trapLockCnt := satAdd 255 c.trapLockCnt 1 })).updJ e.idx
              (fun x => { x with lockedOnce := true, st := .executing })).startRestart { kind := 4 }).updThread k (fun x => { x with st := .locked })))) ∧
  (∀ (s : State) (q : Nat) (e : JEntry),
      (s.cp.st = .running → s.cp.current q = some e → (nth s.cp.threads q).st ≠ .locked → e.finalDue = false → e.wait = none →
        exec (.blockReplyTimeout q) s = .next ((s.logCp7 e).finish e.idx INTERNAL_FAULT [])) ∧
      (s.cp.current q = some e → e.st = .requeued → s.cp.st = .running → s.pwr.starting = false → (nth s.cp.queues q).st ≠ .suspended →
        (∀ f ∈ s.cp.jrn, f.st = .requeued → e.idx ≤ f.idx) → fence e.pkt = false →
        exec (.requeuedExecute q) s = .next (s.updJ e.idx (fun x => { x with st := .executing }))) ∧
      (∀ cause, s.cp.aOk = true → s.cp.bOk = true →
        exec (.journalCopyFail 0 cause) s = .next ((s.log DEGRADED bJRNL 1 0 cause).updCp (fun c => { c with aOk := false, aFailed := true })) ∧
        exec (.journalCopyFail 1 cause) s = .next ((s.log DEGRADED bJRNL 1 1 cause).updCp (fun c => { c with bOk := false, bRebuild := cause == 1 }))) ∧
      (∀ cause, s.cp.aOk = true → s.cp.bOk = false →
        exec (.journalCopyFail 0 cause) s = .next
          (((s.log FATAL bJRNL 2 0 cause).updCp (fun c => { c with aOk := false, aFailed := true })).updCp (fun c => { c with st := .stopped }))) ∧
      (s.cp.aOk = true → s.cp.bOk = false → s.cp.bRebuild = true → s.domOn 43 = true →
        exec .journalBRebuild s = .next (s.updCp (fun c => { c with jrnB := c.jrnA, bOk := true, bRebuild := false }))))

/-! ### Acquisition -/

/-- ARM and STREAM_START: at the boundary the group's oldest generation applies, the checks of R314 run, and the acquisition starts with the
group's next ACQ_NUM (R40, R314); the RESULT holds ACQ_NUM, the slots and TB_COUNT.
ARM of an armed group ends with GROUP_BUSY and changes nothing (R180, R314), STREAM_START likewise; a check that fails refuses the
command with its status after the boundary's generation has applied. In LOCKDOWN and ZEROISED both end with SECURITY_DENIED (R301). -/
def Obligations.ArmAndStreamStartComplete : Prop :=
  (∀ (s : State) (q : Nat) (e : JEntry) (g : Nat) (l : Layout), pktIndex e.pkt = g → pktOk e.pkt [] = true → g ≤ 31 → s.kpr.alarm = .clear →
      s.armed g = false → s.movePending g = false → (s.acqBoundaryAt g).layout g = l →
      (CmdReady s q 0x20 e → (s.acqBoundaryAt g).armChecks g false l = OK →
        ∃ t, t = (s.acqBoundaryAt g).startRun g l (doneTag e.pkt) ∧
          exec (.arm q) s = .next (t.finish e.idx OK (leBytes 4 (nth t.rsv.grp g).acqNum ++ leBytes 4 l.slots ++ leBytes 8 t.tb.count.toNat))) ∧
      (CmdReady s q 0x24 e → (s.acqBoundaryAt g).armChecks g true l = OK →
        ∃ t, t = (s.acqBoundaryAt g).startRun g l (doneTag e.pkt) ∧
          exec (.streamStart q) s = .next (t.finish e.idx OK (leBytes 4 (nth t.rsv.grp g).acqNum ++ leBytes 4 l.slots ++ leBytes 8 t.tb.count.toNat)))) ∧
  (∀ (s : State) (q : Nat) (e : JEntry) (g : Nat), pktIndex e.pkt = g → pktOk e.pkt [] = true → g ≤ 31 →
      (s.kpr.alarm = .clear → s.armed g = true →
        (CmdReady s q 0x20 e → exec (.arm q) s = .next (s.finish e.idx GROUP_BUSY [])) ∧
        (CmdReady s q 0x24 e → exec (.streamStart q) s = .next (s.finish e.idx GROUP_BUSY []))) ∧
      (∀ st, s.kpr.alarm = .clear → s.armed g = false → s.movePending g = false →
        (s.acqBoundaryAt g).armChecks g false ((s.acqBoundaryAt g).layout g) = st → st ≠ OK → st ≠ STATE → CmdReady s q 0x20 e →
        exec (.arm q) s = .next ((s.acqBoundaryAt g).finish e.idx st [])) ∧
      (s.kpr.alarm ≠ .clear →
        (CmdReady s q 0x20 e → exec (.arm q) s = .next (s.finish e.idx SECURITY_DENIED [])) ∧
        (CmdReady s q 0x24 e → exec (.streamStart q) s = .next (s.finish e.idx SECURITY_DENIED []))))

/-- What a start does to the record side: the group is armed with the acquisition's layout, ACQ_NUM has advanced and wraps after
4,294,967,295 to 1, SEGS_DONE and the other counts of the acquisition begin at 0, the directory gains its entry, and every other group's
record state, every register and the journal are as they were. -/
def Obligations.StartOpensTheAcquisition : Prop :=
  ∀ (s : State) (g : Nat) (l : Layout) (tag : Option Nat), g < s.rsv.grp.length →
    ∃ r, (nth (s.startRun g l tag).rsv.grp g).run = some r ∧ r.mode = l.mode ∧ r.members = l.members ∧ r.slots = l.slots ∧ r.tag = tag ∧ r.seg = 0 ∧
      r.acqNum = (nth (s.startRun g l tag).rsv.grp g).acqNum ∧
      (nth (s.startRun g l tag).rsv.grp g).acqNum = (if (nth s.rsv.grp g).acqNum = 4294967295 then 1 else (nth s.rsv.grp g).acqNum + 1) ∧
      (nth (s.startRun g l tag).rsv.grp g).segsDone = 0 ∧ (nth (s.startRun g l tag).rsv.grp g).dropped = 0 ∧
      (∀ h, h ≠ g → nth (s.startRun g l tag).rsv.grp h = nth s.rsv.grp h) ∧
      (s.startRun g l tag).rsv.dir = s.rsv.dir ++
        [{ group := g, acqNum := r.acqNum, mode := l.mode, rgnBase := l.base, descBase := l.desc, slots := l.slots,
           slotBlocks := l.members.length * l.area, rgnBlocks := l.rgn, descSlots := l.descSlots }] ∧
      (s.startRun g l tag).cfg = s.cfg ∧ (s.startRun g l tag).cp = s.cp ∧ (s.startRun g l tag).units = s.units

/-- FORCE_TRIGGER counts a qualified trigger at the stamp the group's logic processes; accepted, it opens the segment's post-trigger fill
and completes with ACCEPTED; with WAIT 0 while the group does not accept, it is rejected; with WAIT 1 it waits, ACCEPTED owed
where it asks for one (R149, R302, R315). On a group that
judges nothing it ends with STATE. A record whose dead time has ended closes first (R194). -/
def Obligations.ForceTriggerCompletes : Prop :=
  ∀ (s : State) (q : Nat) (e : JEntry) (g t : Nat) (s1 s' : State), pktIndex e.pkt = g → s1 = s.closeDue g → s1.forceTime g = t → CmdReady s q 0x21 e →
    PktGood e [(16, 1)] (fun p => pktIndex p ≤ 31 && rd p 16 1 < 2) →
    s' = (s1.updTrg g (fun x => { x with qualCnt := min 0xFFFFFFFF (x.qualCnt + 1) })).outPulse g 1 t (t / 4096 + s1.logicBack g) →
    (s1.judging g = true → s'.accepting g t = true →
      exec (.forceTrigger q) s = .next ((s'.acceptForce g t).finish e.idx OK
        (forceResult (s'.acceptForce g t) g t (((nth s'.rsv.grp g).run.map Run.seg).getD 0) 0))) ∧
    (s1.judging g = true → s'.accepting g t = false → rd e.pkt 16 1 = 0 →
      exec (.forceTrigger q) s = .next ((s'.reject g t).finish e.idx OK
        (forceResult (s'.reject g t) g t (((nth s'.rsv.grp g).run.map Run.seg).getD 0) 1))) ∧
    (s1.judging g = true → s'.accepting g t = false → rd e.pkt 16 1 = 1 →
      exec (.forceTrigger q) s = .next ((s'.updTrg g (fun x => { x with forces := x.forces ++ [e.idx] })).waitsFor e (.force g) (some []))) ∧
    (s1.judging g = false → s.pwr.starting = false → exec (.forceTrigger q) s = .next (s1.finish e.idx STATE []))

/-- An accepted trigger ends acceptance at once, but in a stream, becomes the segment's or sweep's trigger (in a stream the first of a frame does), updates
ACC_CNT and LAST_TRIG and starts hold-off with the values in force, HELD being handed over (R145, R146, R148); no other group's record state changes.
A qualified trigger of the program is judged once (R145, R147): inside hold-off it is held and hands nothing to a segment; past it,
and while the group does not accept, it is rejected and counted for the segment, and logged where LOG_REJ asks; otherwise it is accepted and satisfies a waiting force. -/
def Obligations.TriggersAreJudgedOnce : Prop :=
  (∀ (s : State) (g t src dec back : Nat) (r : Run) (info : TrigInfo) (v : State), g < s.trg.grp.length → g < s.rsv.grp.length →
      (nth s.rsv.grp g).run = some r → info = { t := t, src := src, held := (nth s.trg.grp g).held, hoMode := s.regF (trgA g 0) 1 0 } →
      v = s.acceptTrig g t src dec back →
      ((nth v.trg.grp g).st = (if (nth s.trg.grp g).st = .streaming then .streaming else .postFill) ∧
        (nth v.trg.grp g).openAt = (if (nth s.trg.grp g).st = .streaming then (nth s.trg.grp g).openAt else none) ∧
        (nth v.trg.grp g).accCnt = min 4294967295 ((nth s.trg.grp g).accCnt + 1) ∧
        (nth v.trg.grp g).lastTb = s.trigTb g t ∧
        (nth v.trg.grp g).lastFrac = t % 4096 ∧
        (nth v.trg.grp g).lastSrc = src ∧
        (nth v.trg.grp g).held = 0 ∧
        (nth v.trg.grp g).hoMode = s.regF (trgA g 0) 1 0 ∧
        (nth v.trg.grp g).hoEnd = some (t + 4096 * (s.reg (trgA g 4) + 2 ^ 32 * s.regF (trgA g 8) 8 0)) ∧
        (nth v.trg.grp g).hoLeft = s.reg (trgA g 0xC)) ∧
      (r.mode ≠ 3 → (nth v.rsv.grp g).run.bind Run.trig = some info) ∧
      (r.mode = 3 → (nth v.rsv.grp g).run.bind Run.trig = some (r.trig.getD info)) ∧
      ((nth v.rsv.grp g).run.map Run.accTimes = some (if r.mode = 3 ∨ r.mode = 4 then r.accTimes ++ [t] else [t])) ∧
      (∀ h, h ≠ g → nth v.rsv.grp h = nth s.rsv.grp h)) ∧
  (∀ (s : State) (g t src dec back : Nat) (x : TrgGrp), nth s.trg.grp g = x →
      ∀ s', s' = (s.updTrg g (fun x => { x with qualCnt := min 0xFFFFFFFF (x.qualCnt + 1) })).outPulse g 1 t (dec + back) → g < s.trg.grp.length →
      (x.hoMode % 2 = 1 ∧ (∃ e, x.hoEnd = some e ∧ t < e) ∨ 2 ≤ x.hoMode ∧ x.hoLeft ≠ 0 →
        s.judge g t src dec back = s'.updTrg g (fun x =>
          { x with held := min 0xFFFFFFFF (x.held + 1), hoLeft := x.hoLeft - 1, heldCnt := min 0xFFFFFFFF (x.heldCnt + 1) })) ∧
      ((x.hoMode % 2 = 0 ∨ (∀ e, x.hoEnd = some e → e ≤ t)) → (x.hoMode < 2 ∨ x.hoLeft = 0) →
        (s'.accepting g t = false → ∀ v, v = s'.updTrg g (fun x => { x with rejCnt := min 0xFFFFFFFF (x.rejCnt + 1), rejSeg := min 0xFFFFFFFF (x.rejSeg + 1) }) →
          (s.regB (trgA g 0) 4 = false → s.judge g t src dec back = v) ∧
          (s.regB (trgA g 0) 4 = true → s.judge g t src dec back = v.updRun g (fun r =>
            if r.log.length < 16 then { r with log := r.log ++ [(t, false)] } else { r with logDropped := true }))) ∧
        (s'.accepting g t = true → s.judge g t src dec back = (s'.acceptTrig g t src dec back).satisfyForces g t)))

/-- STOP, ABORT and STREAM_STOP: on an idle group each completes at once with the RESULT of R316 for it; on a running acquisition STOP lets
a fill that runs complete and otherwise closes capture, and the open record of an AVERAGE acquisition with it, ABORT closes it and frees the open slot, each waiting for the end; STREAM_STOP waits
for the next frame boundary; STOP of a stream and STREAM_STOP of an acquisition end with STATE (R174, R176, R178, R199, R316). One that comes after a fill or frame has
ended, and before it is stored, acts once it is (notes/assumptions/27.md).
ABORT_ALL with the key 0xAB07 counts itself and acts as ABORT on every armed or streaming group; any other value changes nothing (R296). -/
def Obligations.StopAndAbortComplete : Prop :=
  (∀ (s : State) (q : Nat) (e : JEntry) (g : Nat), pktIndex e.pkt = g → PktGood e [] (fun p => pktIndex p ≤ 31) →
      ((nth s.rsv.grp g).run = none →
        (CmdReady s q 0x22 e → exec (.stop q) s = .next (s.finish e.idx OK (zeros 13 ++ [1]))) ∧
        (CmdReady s q 0x23 e → exec (.abort q) s = .next (s.finish e.idx OK (zeros 13 ++ [1]))) ∧
        (CmdReady s q 0x25 e → exec (.streamStop q) s = .next (s.finish e.idx OK (zeros 13 ++ [1])))) ∧
      (∀ r0 r s1, (nth s.rsv.grp g).run = some r0 → (nth (s.closeDue g).rsv.grp g).run = some r → s1 = (s.closeDue g).abortForces g →
        (r.ending.isSome = true ∨ r.after.isSome = true →
          (CmdReady s q 0x22 e → r0.mode ≠ 3 → exec (.stop q) s = .next ((s.closeDue g).waitsFor e (.ending g) (some []))) ∧
          (CmdReady s q 0x23 e → exec (.abort q) s = .next ((s.closeDue g).waitsFor e (.ending g) none))) ∧
        (r.ending = none → r.after = none → s1.fillEnded g = true →
          (CmdReady s q 0x22 e → r0.mode ≠ 3 →
            exec (.stop q) s = .next ((s1.updRun g (fun r => { r with after := some (.stop, s.now) })).waitsFor e (.ending g) (some []))) ∧
          (CmdReady s q 0x23 e →
            exec (.abort q) s = .next ((s1.updRun g (fun r => { r with after := some (.abort, s.now) })).waitsFor e (.ending g) none))) ∧
        (r.ending = none → r.after = none → s1.fillEnded g = false →
          (CmdReady s q 0x22 e → r0.mode ≠ 3 → (nth (s.closeDue g).trg.grp g).st = .postFill →
            exec (.stop q) s = .next (((s1.updRun g (fun r => { r with stopping := true })).updTrg g (fun x =>
              { x with seqWaitB := false, seqNb := 0, hoEnd := none, hoLeft := 0, held := 0 })).waitsFor e (.ending g) (some []))) ∧
          (∀ s2, s2 = (if r.mode = 4 ∧ r.sweeps ≠ 0 then s1.closeRecord g true else s1) →
            CmdReady s q 0x22 e → r0.mode ≠ 3 → (nth (s.closeDue g).trg.grp g).st ≠ .postFill →
            exec (.stop q) s = .next (((s2.updRun g (fun r =>
              { r with ending := some .stop, endNow := s.now, closeAt := none, shut := none })).stopJudging g).waitsFor e (.ending g) (some []))) ∧
          (CmdReady s q 0x23 e →
            exec (.abort q) s = .next (((s1.updRun g (fun y =>
              { y with ending := some .abort, endNow := s.now, closeAt := none, shut := none,
                       freed := y.freed + (if r.mode ≤ 1 ∧ (nth (s.closeDue g).trg.grp g).st = .postFill ∨
                         r.mode = 4 ∧ ((nth (s.closeDue g).trg.grp g).st = .postFill ∨ r.sweeps ≠ 0) ∨ r.mode = 3 ∧ r.dropping = false then 1 else 0) })).stopJudging
              g).waitsFor e (.ending g) none)))) ∧
      (∀ r, (nth s.rsv.grp g).run = some r →
        (CmdReady s q 0x25 e → r.mode = 3 → s.fillEnded g = false ∨ r.after.isSome = true →
          exec (.streamStop q) s = .next ((s.updRun g (fun r => { r with streamStop := true })).waitsFor e (.ending g) (some []))) ∧
        (CmdReady s q 0x25 e → r.mode = 3 → s.fillEnded g = true → r.after = none → g < s.rsv.grp.length →
          exec (.streamStop q) s = .next ((s.updRun g (fun r => { r with after := some (.stop, s.now) })).waitsFor e (.ending g) (some []))) ∧
        (s.pwr.starting = false →
          (CmdReady s q 0x22 e → r.mode = 3 → exec (.stop q) s = .next (s.finish e.idx STATE [])) ∧
          (CmdReady s q 0x25 e → r.mode ≠ 3 → exec (.streamStop q) s = .next (s.finish e.idx STATE []))))) ∧
  (∀ (s : State) (v : Word), s.domOn 45 = true →
      (fld v.toNat 15 0 = 0xAB07 →
        exec (.abortAll v) s = .next
          ((List.range 32).foldl (fun s g => s.stopRun g true) (s.tlp.updCp (fun c => { c with abortCnt := min 65535 (c.abortCnt + 1) })))) ∧
      (fld v.toNat 15 0 ≠ 0xAB07 → exec (.abortAll v) s = .next s.tlp)) ∧
  (∀ (s : State) (v : Word), s.domOn 45 = false → exec (.abortAll v) s = .next s.tlp)

/-- RECORD_RELEASE frees the complete segments of its range and answers how many it released and how many were released already; a range
that reaches a segment not yet complete, and an acquisition not yet started, release nothing and end with STATE (R184, R318). RECORD_QUERY with ACQ_NUM 0 counts the
directory's acquisitions, their unreleased and their lost segments of one group or, with INDEX 255, of all, and writes their entries to its buffer; with an ACQ_NUM it
maps the segments from FIRST on, two bits each (R319). It changes nothing but host memory. -/
def Obligations.RecordCommandsComplete : Prop :=
  ∀ (s : State) (q : Nat) (e : JEntry) (g acq first count : Nat),
    pktIndex e.pkt = g → rd e.pkt 16 4 = acq → rd e.pkt 20 4 = first → rd e.pkt 24 4 = count →
    (CmdReady s q 0x28 e → PktGood e [(16, 4), (20, 4), (24, 4)] (fun p => pktIndex p ≤ 31 && 1 ≤ rd p 24 4 && rd p 24 4 ≤ 16777216) →
      (∀ a, s.rsv.find g acq = some a → a.active = false →
        exec (.recordRelease q) s = .next ((s.releaseSegs a (fun n => first ≤ n && n < first + count)).finish e.idx OK
          (leBytes 4 (a.segs.countP (fun x => first ≤ x.num && x.num < first + count)) ++
            leBytes 4 (count - a.segs.countP (fun x => first ≤ x.num && x.num < first + count))))) ∧
      (s.rsv.find g acq = none → acq ≤ (nth s.rsv.grp g).acqNum →
        exec (.recordRelease q) s = .next (s.finish e.idx OK (leBytes 4 0 ++ leBytes 4 count))) ∧
      (s.rsv.find g acq = none → (nth s.rsv.grp g).acqNum < acq → s.pwr.starting = false →
        exec (.recordRelease q) s = .next (s.finish e.idx STATE [])) ∧
      (∀ a k, s.rsv.find g acq = some a → s.reached a = some k → k < first + count → s.pwr.starting = false →
        exec (.recordRelease q) s = .next (s.finish e.idx STATE []))) ∧
    (∀ all w, CmdReady s q 0x29 e → pktOk e.pkt [(16, 4), (20, 4), (24, 4), (48, 16)] = true → bulkOk e.pkt = true → acq = 0 → rd e.pkt 20 8 = 0 →
      (g ≤ 31 ∨ g = 255) → bulkLen e.pkt = 0 → all = (s.rsv.dir.filter (fun a => g == 255 || a.group == g)).take 0 →
      exec (.recordQuery q w) s = .next (s.finish e.idx OK (leBytes 4 0 ++ leBytes 4 0 ++ leBytes 4 0))) ∧
    (∀ all, CmdReady s q 0x29 e → pktOk e.pkt [(16, 4), (20, 4), (24, 4), (48, 16)] = true → bulkOk e.pkt = true → acq = 0 → rd e.pkt 20 8 = 0 →
      (g ≤ 31 ∨ g = 255) → s.busOk = true → all = (s.rsv.dir.filter (fun a => g == 255 || a.group == g)).take (bulkLen e.pkt / 32) → all ≠ [] →
      exec (.recordQuery q true) s = .next ((s.hostWrite (bulkAddr e.pkt) (all.flatMap AcqRec.entry)).finish e.idx OK
        (leBytes 4 all.length ++ leBytes 4 (all.map AcqRec.unrel).sum ++
          leBytes 4 ((all.map (fun a => a.segs.countP (fun x => x.st == .lost))).sum)))) ∧
    (∀ n cs, CmdReady s q 0x29 e → pktOk e.pkt [(16, 4), (20, 4), (24, 4), (48, 16)] = true → bulkOk e.pkt = true → acq ≠ 0 → g ≤ 31 →
      n = min count (4 * bulkLen e.pkt) → cs = (List.range n).map (fun j => s.segCode (s.rsv.find g acq) (first + j)) →
      s.busOk = true → packCodes cs ≠ [] →
      exec (.recordQuery q true) s = .next ((s.hostWrite (bulkAddr e.pkt) (packCodes cs)).finish e.idx OK
        (leBytes 4 n ++ leBytes 4 (cs.countP (fun c => c == 1 || c == 3)) ++ leBytes 4 (cs.countP (· == 3)))))

/-! ### Boundaries, segments, maps and stacks -/

/-- The oldest pending generation applies as one: it leaves the unit's pending sets, LAST_GEN and the boundary's TB_COUNT are recorded, the
unit's staging set and every other unit are untouched, and each register it holds reads, in the active view, as the generation set it, every
other register as before (R22, R34, R36, R42). -/
def Obligations.GenerationAppliesAsOne : Prop :=
  ∀ (s : State) (u : Nat) (bnd : BitVec 64) (gen : Gen) (rest : List Gen), s.cfgOk → u < s.units.length →
    (nth s.units u).pend = gen :: rest → (gen.regs.map Prod.fst).Nodup →
    nth (s.applyGen u bnd).units u = { nth s.units u with pend := rest, lastGen := gen.num, bnd := bnd } ∧
      (∀ v, v ≠ u → nth (s.applyGen u bnd).units v = nth s.units v) ∧
      (∀ a v, (a, v) ∈ gen.regs → (s.applyGen u bnd).reg a = v.toNat) ∧
      (∀ a, a ∉ gen.regs.map Prod.fst → (s.applyGen u bnd).reg a = s.reg a)

/-- ACQ_BOUNDARY of a unit whose group runs nothing is a boundary at every core-cycle edge (R35): with nothing pending and nothing else held
the unit's sets are unchanged; with a generation pending it applies, its COMMIT ends, and the commits still pending keep their order (R36). Between
segments the boundary also opens the next segment (R38, R172); a boundary between a fill or frame that has ended and its row keeps its instant for it. In AVERAGE none applies a
generation, and the record whose dead time has ended closes (R194). -/
def Obligations.AcquisitionBoundaryCompletes : Prop :=
  ∀ (s : State) (u : Nat), u ≤ 32 →
    ((nth s.rsv.grp u).run = none → exec (.acqBoundary u) s = .next (s.acqBoundaryAt u)) ∧
    (∀ gen rest, u < s.units.length → (nth s.units u).pend = gen :: rest →
      (nth (s.acqBoundaryAt u).units u).pend = rest ∧ (nth (s.acqBoundaryAt u).units u).lastGen = gen.num ∧
      (nth (s.acqBoundaryAt u).units u).staged = (nth s.units u).staged) ∧
    (∀ r, (nth s.rsv.grp u).run = some r → r.mode = 4 → exec (.acqBoundary u) s = .next (s.closeDue u)) ∧
    (∀ r, (nth s.rsv.grp u).run = some r → r.mode = 1 → (nth s.trg.grp u).st = .rearm → r.openT ≤ 4096 * s.now →
      exec (.acqBoundary u) s = .next ((s.acqBoundaryAt u).openSeg u (4096 * s.now))) ∧
    (∀ r, (nth s.rsv.grp u).run = some r → r.mode = 3 ∨ r.mode = 1 ∧ (nth s.trg.grp u).st ≠ .rearm → s.boundaryDue u r = true →
      exec (.acqBoundary u) s = .next ((s.acqBoundaryAt u).updRun u (fun x => { x with cut := some (s.now, !(nth s.units u).pend.isEmpty) }))) ∧
    (∀ r s', (nth s.rsv.grp u).run = some r → r.mode = 3 → s.boundaryDue u r = false → r.bndAt = some s.now →
      s' = (s.acqBoundaryAt u).updRun u (fun x => { x with bndAt := none }) →
      ((nth s.units u).pend = [] → exec (.acqBoundary u) s = .next s') ∧
      ((nth s.units u).pend ≠ [] → exec (.acqBoundary u) s = .next (s'.frameFrom u (s'.firstFrom r (4096 * s.now))))) ∧
    (∀ r, (nth s.rsv.grp u).run = some r → r.mode = 0 ∨ r.mode = 2 → s.boundaryDue u r = false → exec (.acqBoundary u) s = .next s)

/-- ACCEPTANCE_OPENS opens acceptance, and a force that waits is accepted there once the group's logic has passed the stamp; in a stream it is judged where the
logic stands (R146, R149); WAIT_FULL_END opens the segment that waited once its slot is free, and one that frees before the dead time has ended was never waited for; a sequence
that has waited for B longer than SEQ_TIMEOUT in the time the logic has reached is abandoned (R38, R141, R172). -/
def Obligations.AcceptanceAndTimeoutsComplete : Prop :=
  ∀ (s : State) (g : Nat),
    (∀ s1 s2 o below, s1 = s.closeDue g → g < s1.trg.grp.length →
      (nth s1.trg.grp g).st = .preFill ∨ (nth s1.trg.grp g).st = .rearm ∨ (nth s1.trg.grp g).st = .accepting → (nth s1.trg.grp g).openAt = some o →
      o ≤ 4096 * s1.now → s2 = s1.updTrg g (fun x => { x with st := .accepting }) →
      below = (if s1.usedSlots g = [] then 4096 * (s1.now - s1.logicBack g) + 1 else (nth s1.trg.grp g).pos) →
      ((nth s1.trg.grp g).forces = [] ∨ below ≤ s2.ceil16 g o ∨ s2.accepting g (s2.ceil16 g o) = false → exec (.acceptanceOpens g) s = .next s2) ∧
      (∀ i rest, (nth s1.trg.grp g).forces = i :: rest → s2.ceil16 g o < below → s2.accepting g (s2.ceil16 g o) = true →
        ∃ t, t = (s2.updTrg g (fun x => { x with forces := rest })).acceptForce g (s2.ceil16 g o) ∧
          exec (.acceptanceOpens g) s = .next (t.finish i OK
            (forceResult t g (s2.ceil16 g o) (((nth s2.rsv.grp g).run.map Run.seg).getD 0) 0)))) ∧
    (∀ s1 i rest, s1 = s.closeDue g → (nth s1.trg.grp g).st = .streaming → (nth s1.trg.grp g).forces = i :: rest → s1.accepting g (s1.forceTime g) = true →
      s1.usedSlots g = [] ∨ s1.forceTime g < (nth s1.trg.grp g).pos →
      ∃ t, t = (s1.updTrg g (fun x => { x with forces := rest })).acceptForce g (s1.forceTime g) ∧
        exec (.acceptanceOpens g) s = .next (t.finish i OK (forceResult t g (s1.forceTime g) (((nth s1.rsv.grp g).run.map Run.seg).getD 0) 0))) ∧
    (∀ r, (nth s.rsv.grp g).run = some r → (nth s.trg.grp g).st = .waitFull → s.slotFree g r = true →
      (r.openT ≤ 4096 * s.now → exec (.waitFullEnd g) s = .next (s.openSeg g (4096 * s.now))) ∧
      (4096 * s.now < r.openT → exec (.waitFullEnd g) s = .next
        (((s.updRun g (fun r => { r with waited := false })).updRec g (fun x => { x with waitFullCnt := x.waitFullCnt - 1 })).openSeg g r.openT))) ∧
    ((nth s.trg.grp g).seqWaitB = true → s.reg (trgA g 0x14) ≠ 0 → (nth s.trg.grp g).seqStart + 4096 * s.reg (trgA g 0x14) < (nth s.trg.grp g).pos →
      exec (.sequenceTimeout g) s = .next (s.updTrg g (fun x => { x with seqWaitB := false, seqNb := 0 })))

/-- Trigger events: a TRIG_IN transition on an enabled input is stamped, delayed and queued for every judging group, and kept for a group that begins to judge
before its stamp (R135, R153); a record whose dead time has ended closes first (R194); the group's slots compare what their channels deliver, and its logic
takes what they and the inputs give in order of time, as far as the row says and it may go, and then a force that waits (R133, R147, R149, R153); a transition
that satisfies an EDGE event A of a group with no sequence is one qualified trigger (R137, R141); a TIMED pulse of TRIG_OUT is placed at its trigger's time plus
OUT_DELAY, rounded to Ts/64 (R157). -/
def Obligations.TriggerEventsComplete : Prop :=
  ∀ (s : State) (g : Nat),
    (∀ i t rise u (item : InboxItem), s.domOn 43 = true → s.regB (trgA 0 (0x390 + 4 * i)) 0 = true →
      u = t + 4096 * fld (s.reg (trgA 0 (0x398 + 4 * i))) 27 12 + fld (s.reg (trgA 0 (0x398 + 4 * i))) 11 0 →
      item = { src := 0x80 + i, rise := rise, t := u, dec := u } →
      exec (.trigInTransition i t rise) s = .next
        ((List.range 32).foldl (fun s g =>
          if s.judging g then s.updTrg g (fun x => { x with inbox := insItem { item with sets := decide (u < x.pos) } x.inbox })
          else s) { s with trg := { s.trg with
            inLevel := s.trg.inLevel.set i rise,
            ahead := (if 4096 * s.now ≤ u then insItem item s.trg.ahead else s.trg.ahead).filter (fun x => 4096 * s.now ≤ x.t) } })) ∧
    (∀ feeds upTo, ((s.take feeds).closeDue g).judging g = false → exec (.triggerDecision g feeds upTo) s = .next ((s.take feeds).closeDue g)) ∧
    (∀ feeds upTo s0 s1 known below s2, s0 = (s.take feeds).closeDue g → s0.judging g = true →
      s1 = (List.range 4).foldl (fun s k => s.feedGroupSlot g k) s0 →
      known = (s1.usedSlots g).foldl (fun m k => if s1.slotSrc g k < 128 then min m (nth (nth s1.trg.grp g).slots k).known else m) (min upTo (4096 * (s1.now - s1.logicBack g))) →
      s2 = State.batches (nth s1.trg.grp g).inbox.length s1 g known →
      below = (match s2.logicEnd g with | some e => min known e | none => known) + 1 →
      (s2.judging g = true → exec (.triggerDecision g feeds upTo) s = .next ((s2.forceBelow g below).updTrg g (fun x => { x with pos := max x.pos below })).drawMaps) ∧
      (s2.judging g = false → exec (.triggerDecision g feeds upTo) s = .next (s2.updTrg g (fun x => { x with pos := max x.pos below })).drawMaps)) ∧
    (∀ i k, s.judging g = true → g < s.trg.grp.length → i.program = none → i.ignored = false → i.sets = false → i.lvlB = false → i.slot = none → i.src = 0x80 ∨ i.src = 0x81 →
      (s.evCfg g false).type = 1 → (s.evCfg g false).slot = k → k < 4 → s.slotSrc g k = i.src →
      (s.evCfg g false).pol = 2 ∨ (s.evCfg g false).pol = (if i.rise then 0 else 1) → (s.evCfg g true).type = 0 → s.seqMode g = 0 →
      ∃ s' x', s.batch g [i] = s'.judge g i.t (trigSrc i k false) (cdiv i.dec 4096) (s'.decisionBack g i) ∧ s' = s.updTrg g (fun _ => x') ∧
        x'.inbox = (nth s.trg.grp g).inbox ∧ x'.pos = (nth s.trg.grp g).pos ∧ x'.st = (nth s.trg.grp g).st ∧ x'.openAt = (nth s.trg.grp g).openAt) ∧
    (∀ i t rest e, (nth s.trg.out i).due = t :: rest →
      e = (roundAway ((t + 4096 * s.regF (trgA 0 (0x3A8 + 4 * i)) 15 0 : Nat) / (64 : Rat))).toNat →
      exec (.trigOutTimedEdge i) s = .next (s.updOut i (fun o =>
        { o with due := rest, pulses := (e, e + 64 * 16 * fld (s.reg (trgA 0 (0x3A0 + 4 * i))) 22 11) :: o.pulses })))

/-- The ends of a fill, of a stream's frame, of a record's write-out and of an acquisition (R166, R173 to R179, R194 to R199), each once the samples it needs are
known: the members' samples make the segment, the sweep or the frame; the oldest queued segment completes in the directory with SEG_DONE; an acquisition that a
command ended, its writes done, ends with ACQ_DONE.
What completing a segment does: the oldest queued segment of the acquisition becomes complete and is counted, in the directory and in
SEGS_DONE; no other group's record state and no register changes (R173, R175). -/
def Obligations.FillsAndFramesComplete : Prop :=
  (∀ (s0 s : State) (g : Nat) (feeds : List Feed) (r : Run) (a : AcqRec) (v : State), s = s0.take feeds →
      (nth s.rsv.grp g).run = some r → s.rsv.find g r.acqNum = some a → v = s.asOf (r.openT / 4096) →
      (∀ t ps, r.trig = some t → (nth s.trg.grp g).st = .postFill → s.fillEnded g = true → s.fillJudged g = true →
        v.parts (r.members.filter v.produces) (fun n => (v.trigSample n t.t - r.pre * v.perBlock n, (r.pre + r.post) * v.perBlock n)) = some ps →
        exec (.postFillEnd g feeds) s0 = .next (s.fillDone g r a t ps) ∧
        (r.cut = none → r.after = none →
          s.fillDone g r a t ps = (s.under (r.openT / 4096) (fun v => if r.mode = 4 then v.fillSweep g r t ps else v.fillSegment g r a t ps)).updRun g
            (fun r => { r with cut := none, after := none }))) ∧
      (∀ last, r.mode = 3 → r.ending = none → s.fillLast g = some last → last < 4096 * s.now → s.fillJudged g = true →
        (r.dropping = true → exec (.streamFrameEnd g feeds) s0 = .next (s.frameDone g r)) ∧
        (∀ ps, r.dropping = false → v.parts (r.members.filter v.produces) (fun n => (v.countLt n r.openT, r.post * v.perBlock n)) = some ps →
          exec (.streamFrameEnd g feeds) s0 = .next ((s.under (r.openT / 4096) (fun v => v.storeFrame g r a ps)).frameDone g r)))) ∧
  (∀ (s : State) (g : Nat) (r : Run) (a : AcqRec), (nth s.rsv.grp g).run = some r → s.rsv.find g r.acqNum = some a →
      (r.mode ≠ 4 → exec (.segmentComplete g) s = .next ((s.completeSeg g r).endIfComplete g)) ∧
      (r.mode = 4 → exec (.segmentComplete g) s = .next s) ∧
      (∀ w rest t, s.closeDue g = s → r.writeout = w :: rest →
        t = ((s.storeRecord r w).putDesc (a.descBase + w.num % r.slots) w.desc).updRun g (fun r => { r with writeout := rest }) →
        (rest ≠ [] → exec (.avgWriteoutDone g) s = .next ((t.completeSeg g r).endIfComplete g)) ∧
        (rest = [] → exec (.avgWriteoutDone g) s = .next
          (((r.members.foldl (fun s n => s.updPondCh n (fun x => { x with writeout := false })) t).completeSeg g r).endIfComplete g)))) ∧
  (∀ (s0 s : State) (g : Nat) (feeds : List Feed) (r : Run) (a : AcqRec) (why : EndReason), s = (s0.take feeds).closeDue g →
      (nth s.rsv.grp g).run = some r → s.rsv.find g r.acqNum = some a → r.ending = some why →
      (r.mode ≠ 2 → why ≠ .complete → s.drainedAcq g r = true → exec (.acquisitionEnded g feeds) s0 = .next (s.endAcq g why)) ∧
      (∀ ps, r.mode = 2 → s.rollParts r = some ps →
        exec (.acquisitionEnded g feeds) s0 = .next (((s.storeRoll g r a ps).completeSeg g r).endAcq g why))) ∧
  (∀ (s : State) (g : Nat) (r : Run) (a : AcqRec) (x : Seg), g < s.rsv.grp.length →
      s.rsv.find g r.acqNum = some a → a.segs.find? (fun x => x.st == .queued) = some x →
      (∃ b, (s.completeSeg g r).rsv.find g r.acqNum = some b ∧ b.done = min 4294967295 (a.done + 1) ∧
        b.segs = a.segs.map (fun y => if y.num = x.num then { y with st := .complete } else y)) ∧
      (nth (s.completeSeg g r).rsv.grp g).segsDone = min 4294967295 ((nth s.rsv.grp g).segsDone + 1) ∧
      (∀ h, h ≠ g → nth (s.completeSeg g r).rsv.grp h = nth s.rsv.grp h) ∧ (s.completeSeg g r).cfg = s.cfg ∧ (s.completeSeg g r).units = s.units)

/-- A fade ends with the new bank alone (R114); a map's clear ends once its time is over (R203); a decay pass starts after DECAY_INT sweeps: every cell of the map
decays, or, while another pass still runs, the pass is dropped and counted, and drawing goes on (R203). How long a pass runs is a free value (notes/assumptions/45.md). -/
def Obligations.FadesAndMapsComplete : Prop :=
  ∀ (s : State) (n : Nat),
    (∀ f, (nth s.weir n).fade = some f → f.ended = false → s.fading n = false →
      exec (.fadeEnd n) s = .next ((s.updWeir n (fun x => { x with fade := some { f with ended := true } })).standby n (fun _ => false))) ∧
    ((nth s.pond.ch n).clearEnd ≤ s.now → exec (.mapClearDone n) s = .next (s.updPondCh n (fun x => { x with clearing := false }))) ∧
    (s.now < (nth s.pond.ch n).clearEnd → exec (.mapClearDone n) s = .next s) ∧
    (∀ c s', c = s.reg (pondA n 0) → fld c 1 0 = 3 → fld c 15 12 ≠ 0 → fld c 31 16 ≤ (nth s.pond.ch n).sweepsSince →
      s' = ({ s with freeCtr := s.freeCtr + 1 }).updPondCh n (fun x => { x with sweepsSince := 0 }) →
      (∀ t, (nth s.pond.ch n).decayEnd ≤ s.now →
        t = ({ s' with pond := { s'.pond with mem := decayMem n (fld c 15 12) (bit c 2) s'.pond.mem } }).updPondCh n
            (fun x => { x with decayEnd := s.now + Config.freeNat s.freeCtr }) →
        exec (.decayPassStart n) s = .next (t.drawDue (1026 * (nth t.pond.ch n).due.length) n)) ∧
      (∀ t, s.now < (nth s.pond.ch n).decayEnd → t = s'.updPondCh n (fun x => { x with decayMiss := min 65535 (x.decayMiss + 1) }) →
        exec (.decayPassStart n) s = .next (t.drawDue (1026 * (nth t.pond.ch n).due.length) n)))

/-- The first stack fault takes the stack out of service with DEGRADED RSV 3; a fault of its domain (causes 3 to 5) starts a rebuild of every
retained stripe once the domain is on, and the rebuild's end returns the stack and ends degraded mode (R188, R189, R475). A second fault of another stack ends every
acquisition, sets SECOND_FAULT and leaves MISSING_STACK at the first (R190). How fast a rebuild goes is a free value (notes/assumptions/87.md). -/
def Obligations.StackFaultsComplete : Prop :=
  ∀ (s : State) (k : Nat), k < 5 → (nth s.rsv.stk k).st ≠ .failed →
    (∀ cause, s.rsv.missing = none → cause ≠ 3 → cause ≠ 4 → cause ≠ 5 → k < s.rsv.stk.length →
      exec (.stackFailure k cause) s = .next
        (((s.log DEGRADED bRSV 3 k cause).updStack k (fun x => { x with st := .failed })).updRsv (fun r => { r with missing := some k }))) ∧
    (∀ cause s1, s.rsv.missing = none → cause = 3 ∨ cause = 4 ∨ cause = 5 → k < s.rsv.stk.length →
      s1 = ((s.log DEGRADED bRSV 3 k cause).updStack k (fun x => { x with st := .rebuilding })).updRsv (fun r => { r with missing := some k }) →
      (s.domOn (37 + k) = false → exec (.stackFailure k cause) s = .next s1) ∧
      (s.domOn (37 + k) = true → s.rsv.rebuildRun = false → s.rsv.secondFault = false →
        exec (.stackFailure k cause) s = .next (({ s1 with freeCtr := s1.freeCtr + 1 }).updRsv (fun r =>
          { r with
              rebuildRun := true, rebuildLeft := r.retained, rebuildAt := s.now, rebuildKey := s.freeCtr,
              dir := r.dir.map (fun (a : AcqRec) => { a with segs := a.segs.map (fun (x : Seg) => { x with fresh := false }) }) })))) ∧
    (∀ cause j, s.rsv.missing = some j → s.rsv.secondFault = false →
      exec (.stackFailure k cause) s = .next (s.secondStack k cause) ∧ (s.secondStack k cause).rsv.secondFault = true ∧
        (s.secondStack k cause).rsv.missing = s.rsv.missing ∧ (s.secondStack k cause).rsv.second = some k ∧
        (∀ g, g < 32 → (nth (s.secondStack k cause).rsv.grp g).run = none)) ∧
    (s.rsv.missing = some k → s.rsv.rebuildRun = true → s.domOn (37 + k) = true →
      exec .rebuildDone s = .next ((s.updStack k (fun x => { x with st := .inService })).updRsv (fun r =>
        { r with missing := none, rebuildRun := false, rebuildLeft := 0 })))

/-! ### Calibration -/

/-- The window that ended last is evaluated once, where the channel's windows run and it ran whole; one with an eighth or more of its samples excluded is void and
counts nothing (R74). A counted window feeds, in this order, the estimates, the figures, counters and runs, the spares' shadowing, the judgement of
positions, the spares' next positions, CAL_STATE, and a new set where one is due (R76, R79, R84, R85, R91, R92). At a trim tick every channel's trims move (R78).
CAL_STATE after a counted window (R85): eight starved windows move ACQUIRING and TRACKING to STARVED, eight good ones ACQUIRING to TRACKING,
four bad ones TRACKING to ACQUIRING and four that starve nothing STARVED to ACQUIRING; COLD and FROZEN stay. -/
def Obligations.EstimatorWindowsComplete : Prop :=
  (∀ (s0 s : State) (n e : Nat) (x : WindowIn), s = s0.take x.feeds → e = s.windowEnd →
      (s.windowsRun n = false ∨ e ≤ (nth s.acq.cal n).winDone ∨ s.windowSamples n e = none →
        exec (.estimatorWindowEnd n x) s0 = .next s) ∧
      (∀ ws s1, s.windowsRun n = true → (nth s.acq.cal n).winDone < e → s.windowSamples n e = some ws →
        s1 = s.updCal n (fun c => { c with winDone := e }) →
        (ws.length < 8 * ws.countP WinSample.out → exec (.estimatorWindowEnd n x) s0 = .next s1) ∧
        (∀ w s2 s3 s4 t, 8 * ws.countP WinSample.out ≤ ws.length → s2 = { s1 with freeCtr := s1.freeCtr + 1 } →
          w = winStats (s2.positions n) s1.freeCtr ws → s3 = (s2.estimateDue n w).countWindow n w →
          s4 = ((s3.converters n).foldl (fun s m => s.spareTick n m) s3).judgeWindow n w.stuck x.spares ws →
          t = ((s4.converters n).foldl State.spareMove s4).calWindow n →
          (((nth t.acq.cal n).st = .acquiring ∨ (nth t.acq.cal n).st = .tracking) → t.regF (weirA n 0xC0) 18 11 ≤ (nth t.acq.cal n).sincePrep →
            exec (.estimatorWindowEnd n x) s0 = .next (t.prepare n)) ∧
          ((nth t.acq.cal n).sincePrep < t.regF (weirA n 0xC0) 18 11 ∨ (nth t.acq.cal n).st ≠ .acquiring ∧ (nth t.acq.cal n).st ≠ .tracking →
            exec (.estimatorWindowEnd n x) s0 = .next t)))) ∧
  (∀ s : State, exec .trimTick s = .next ((List.range 128).foldl State.trimChannel s)) ∧
  (∀ (s : State) (n : Nat) (c : CalCh), nth s.acq.cal n = c →
      (c.st = .acquiring ∨ c.st = .tracking → 8 ≤ c.runStarved → s.calWindow n = s.setCal n .starved) ∧
      (c.st = .acquiring → c.runStarved < 8 → 8 ≤ c.runGood → s.calWindow n = s.setCal n .tracking) ∧
      (c.st = .tracking → c.runStarved < 8 → 4 ≤ c.runBad → s.calWindow n = s.setCal n .acquiring) ∧
      (c.st = .starved → 4 ≤ c.runNotStarved → s.calWindow n = s.setCal n .acquiring) ∧
      (c.st = .acquiring → c.runStarved < 8 → c.runGood < 8 → s.calWindow n = s) ∧
      (c.st = .tracking → c.runStarved < 8 → c.runBad < 4 → s.calWindow n = s) ∧
      (c.st = .starved → c.runNotStarved < 4 → s.calWindow n = s) ∧
      (c.st = .cold ∨ c.st = .frozen → s.calWindow n = s))

/-- Foreground calibration of a powered quad judges the sub-converters that failed, spares first, sets the trims it found, makes the quad READY, moves its four
channels to ACQUIRING and prepares their first sets (R75, R77, R85, R93); at the start that follows, its channels that produce samples open a window of 4,096 Ts
and all take a synchronising reset (R62, R70, R120).
CAL_REPORT answers CAL_STATE and figures, and with WHICH 1 writes the set of an epoch in the channel's history; an epoch not in it, or a buffer too short for the
set, ends with PARAM_RANGE (R83, R320). SKEW_MEASURE passes its checks, selects the calibration network and waits for the measurement, whose end restores the
inputs with windows of 4,096 Ts and completes the command; one that finds another under way waits; a channel that is no lead refuses it with
PARAM_RANGE, and one that is armed, not ready, off or without its part of the filter chain with STATE; a channel counts as measured where its measurement did not fail (R95, R96, R97, R321). -/
def Obligations.CalibrationCompletes : Prop :=
  (∀ (s : State) (q : Nat),
      (∀ fails found s1, s.domOn q = true → (nth s.acq.quads q).fgRun = true →
        s1 = (fails.filter (fun f => 64 ≤ f.2) ++ fails.filter (fun f => f.2 < 64)).foldl (fun s f => s.fgFail (4 * q + f.1) f.2) s →
        exec (.foregroundCalDone q { fails := fails, results := found }) s = .next
          ([4 * q, 4 * q + 1, 4 * q + 2, 4 * q + 3].foldl (fun s n => (s.setCal n .acquiring).prepare n)
            ((found.foldl (fun s f => s.fgSet q f) s1).updQuad q (fun x => { x with ready := true, fgRun := false, startDue := true })))) ∧
      ((nth s.acq.quads q).startDue = true →
        exec (.quadStart q) s = .next
          ([4 * q, 4 * q + 1, 4 * q + 2, 4 * q + 3].foldl (fun s n => ((if s.produces n then s.openWindow n 4096 else s).setLive n true).syncReset n)
            (s.remember.updQuad q (fun x => { x with startDue := false })))) ∧
      (∀ found, s.domOn q = false ∨ (nth s.acq.quads q).fgRun = false → exec (.foregroundCalDone q found) s = .next s)) ∧
  (∀ (s : State) (q : Nat) (e : JEntry),
      (∀ n w, pktIndex e.pkt = n → CmdReady s q 0x31 e →
        PktGood e [(16, 1), (18, 2), (48, 16)] (fun p => pktIndex p ≤ 127 && rd p 16 1 ≤ 1 && bulkOk p) →
        (rd e.pkt 16 1 = 0 → exec (.calReport q w) s = .next (s.finish e.idx OK (calResult (nth s.acq.cal n) 0))) ∧
        (∀ x, rd e.pkt 16 1 = 1 → (nth s.acq.cal n).history.find? (fun x => x.epoch == rd e.pkt 18 2) = some x → bulkLen e.pkt = 0 →
          exec (.calReport q w) s = .next (s.finish e.idx OK (calResult (nth s.acq.cal n) 0))) ∧
        (∀ x, rd e.pkt 16 1 = 1 → (nth s.acq.cal n).history.find? (fun x => x.epoch == rd e.pkt 18 2) = some x →
          (setImage n x).length ≤ bulkLen e.pkt → s.busOk = true →
          exec (.calReport q true) s = .next
            ((s.hostWrite (bulkAddr e.pkt) (setImage n x)).finish e.idx OK (calResult (nth s.acq.cal n) (setImage n x).length)) ∧
          exec (.calReport q false) s = .next ((s.logCp7 e).finish e.idx PARAM_RANGE [])) ∧
        (∀ x, rd e.pkt 16 1 = 1 → (nth s.acq.cal n).history.find? (fun x => x.epoch == rd e.pkt 18 2) = some x →
          bulkLen e.pkt ≠ 0 → bulkLen e.pkt < (setImage n x).length → exec (.calReport q w) s = .next (s.finish e.idx PARAM_RANGE [])) ∧
        (rd e.pkt 16 1 = 1 → (nth s.acq.cal n).history.find? (fun x => x.epoch == rd e.pkt 18 2) = none →
          exec (.calReport q w) s = .next (s.finish e.idx PARAM_RANGE []))) ∧
      (CmdReady s q 0x32 e →
        PktGood e [(16, 16), (32, 4), (48, 16)] (fun p => pktIndex p == 0 && rd p 16 16 ≠ 0 && 1024 ≤ rd p 32 4 && rd p 32 4 ≤ 65536 && bulkOk p &&
          (bulkLen p == 0 || bulkLen p == 512)) →
        ((∀ n ∈ pktMask e.pkt, s.lead n = true ∧ s.skewOk n = true) →
          (s.acq.skew = none → exec (.skewMeasure q) s = .next
            ((s.beginSkew { cmd := some e.idx, mask := rd e.pkt 16 16, n := rd e.pkt 32 4, buf := bulkAddr e.pkt,
                            len := bulkLen e.pkt, tag := doneTag e.pkt }).waitsFor e .skew (some []))) ∧
          (s.acq.skew.isSome = true → exec (.skewMeasure q) s = .next (s.threadWaits e.queue))) ∧
        ((∀ n ∈ pktMask e.pkt, s.lead n = true) → (∃ n ∈ pktMask e.pkt, s.skewOk n = false) → s.pwr.starting = false →
          exec (.skewMeasure q) s = .next (s.finish e.idx STATE [])) ∧
        (∀ n ∈ pktMask e.pkt, s.lead n = false → exec (.skewMeasure q) s = .next (s.finish e.idx PARAM_RANGE []))) ∧
      (∀ r ns res s0 s1 d, s.acq.skew = some r → ns = allBelow 128 (bit r.mask) → s0 = s.endSkew r →
        s1 = ns.foldl (fun s n => s.skewChannel r.n n (edgesOf res n)) s0 → d = skewChanges s0 s1 ns →
        (∀ w, r.cmd = none → exec (.skewMeasureDone res w) s = .next s1) ∧
        (∀ i result, r.cmd = some i →
          result = leBytes 4 (ns.countP (fun n => (s0.skewFails r.n n (edgesOf res n)).isNone)) ++
            leBytes 4 (d.foldl (fun m d => Nat.max m d.natAbs) 0) ++ leBytes 8 s1.tb.count.toNat →
          (∀ w, r.len = 0 → exec (.skewMeasureDone res w) s = .next (s1.finish i OK result)) ∧
          (r.len ≠ 0 → s.busOk = true →
            exec (.skewMeasureDone res true) s = .next ((s1.hostWrite r.buf (d.flatMap (fun d => leBytes 4 (unsgn 32 d)))).finish i OK result) ∧
            (s.jget i = some e → exec (.skewMeasureDone res false) s = .next ((s0.logCp7 e).finish i PARAM_RANGE []))))))

/-! ### Spring, the timebase, site time and Beacon -/

/-- SET_SAMPLE_RATE and SET_REFERENCE: in range and with nothing that forbids a relock, the loop is relocked with the new setting and the command waits for the
gate; fields of SET_REFERENCE that need no relock act at once, RETURN_ACTION with the jump it acted on in the RESULT; a setting whose f_VCO or f_pfd leaves its
range ends with PARAM_RANGE, and what forbids a relock, or a RETURN_ACTION with nothing to act on, with STATE (R213, R219, R220, R226, R228, R309, R310). At the
gate the setting is loaded, LOCK falls and TB_COUNT stops (R220); the phase comparisons that find lock release the clocks with TB_COUNT of R223 and the next
epoch, and what waited goes on; comparisons that do not leave the loop unlocked (R216); those that declare lock after the reference has returned act as its
return says (R226); a free-running loop relocks once the reference is valid and nothing is armed (R229). -/
def Obligations.RelocksComplete : Prop :=
  ∀ (s : State),
    (∀ q e n f, rd e.pkt 16 2 = n → rd e.pkt 20 4 = f → CmdReady s q 0x10 e →
      PktGood e [(16, 2), (20, 4), (24, 1)] (fun p => pktIndex p == 0 && 128 ≤ rd p 16 2 && rd p 16 2 ≤ 4096 && rd p 20 4 < 2 ^ 24 && rd p 24 1 < 2) →
      (pllOk s.spr.nomHz s.spr.rdiv n f = true → s.relockBusy = false → s.domOn 42 = true →
        exec (.setSampleRate q) s = .next
          (((s.updJ e.idx (fun x => { x with result := padTo 16 (leBytes 2 s.spr.nInt ++ leBytes 2 n ++ leBytes 4 s.spr.nFrac ++ leBytes 4 f) })).startRelock
            (s.spr.fmt, s.spr.rdiv, n, f, s.spr.nomHz) (bit (rd e.pkt 24 1) 0) (doneTag e.pkt)).waitsFor e .gate none)) ∧
      (pllOk s.spr.nomHz s.spr.rdiv n f = false → exec (.setSampleRate q) s = .next (s.finish e.idx PARAM_RANGE [])) ∧
      (pllOk s.spr.nomHz s.spr.rdiv n f = true → s.relockBusy = true ∨ s.domOn 42 = false → s.pwr.starting = false →
        exec (.setSampleRate q) s = .next (s.finish e.idx STATE []))) ∧
    (∀ q e j p action good, p = e.pkt → action = (if bit (rd p 16 1) 3 then rd p 33 1 else 0) → CmdReady s q 0x11 e →
      PktGood e [(16, 20)] (fun p => pktIndex p == 0 && refFieldsOk p) →
      good = (pllOk (rd p 28 4) (rd p 18 1) (rd p 20 2) (rd p 24 4) && s.sameVco (rd p 28 4) (rd p 18 1) (rd p 20 2) (rd p 24 4)) →
      (bit (rd p 16 1) 0 = false → s.domOn 42 = true → action = 0 ∨ s.returnOk action = true →
        exec (.setReference q j) s = .next
          (((s.refFields p).returnAction action j).1.rechoose.finish e.idx OK (refResult 0 action ((s.refFields p).returnAction action j).2))) ∧
      (bit (rd p 16 1) 0 = true → good = true → s.relockBusy = false → s.domOn 42 = true → action = 0 ∨ s.returnOk action = true →
        exec (.setReference q j) s = .next
          (((((s.refFields p).returnAction action j).1.updJ e.idx
              (fun x => { x with result := padTo 16 (refResult 1 action ((s.refFields p).returnAction action j).2) })).startRelock
            (rd p 17 1, rd p 18 1, rd p 20 2, rd p 24 4, rd p 28 4) false (doneTag p)).waitsFor e .gate none)) ∧
      (bit (rd p 16 1) 0 = true → good = false → exec (.setReference q j) s = .next (s.finish e.idx PARAM_RANGE [])) ∧
      (bit (rd p 16 1) 0 = true ∧ good = true ∧ s.relockBusy = true ∨ bit (rd p 16 1) 0 = false ∧ action ≠ 0 ∧ s.returnOk action = false →
        s.pwr.starting = false → exec (.setReference q j) s = .next (s.finish e.idx STATE []))) ∧
    (∀ fmt rdiv n f hz, s.spr.relock = some .buffered → s.spr.next = some (fmt, rdiv, n, f, hz) →
      exec .springGate s = .next
        ((((s.markBase.updSpr (fun x => { x with
            relock := some .gated, next := none, fmt := fmt, rdiv := rdiv, nInt := n, nFrac := f, nomHz := hz, lock := false, good := 0,
            fallback := true, gateTb := s.tb.count, outs := s.gateOuts })).updTb
          (fun t => { t with counting := false })).stacksSr true).updLtn (fun l => { l with stopped := l.scanning }) |>.finishWaits
            (fun e => e.wait == some .gate) OK JEntry.result)) ∧
    (∀ g cmps s1, s.domOn 42 = true → s1 = s.compareAll cmps →
      (s.spr.st = .start → s1.spr.lock = true → exec (.lockDeclared { periods := g, cmps := cmps }) s = .next s1.firstLock) ∧
      (s.spr.st ≠ .start → s.spr.relock = some .gated → s.spr.refOk = true → s1.spr.lock = true →
        exec (.lockDeclared { periods := g, cmps := cmps }) s = .next (s1.release g).resumed) ∧
      (s.spr.st = .start ∨ s.spr.relock = some .gated ∧ s.spr.refOk = true → s1.spr.lock = false →
        exec (.lockDeclared { periods := g, cmps := cmps }) s = .next s1) ∧
      (∀ a j s2, s.spr.st ≠ .start → s.spr.relock ≠ some .gated ∨ s.spr.refOk = false → s.spr.ret = some (a, j) →
        s2 = s1.updSpr (fun x => { x with ret := none }) →
        (s1.spr.lock = false → exec (.lockDeclared { periods := g, cmps := cmps }) s = .next s1) ∧
        (s1.spr.lock = true → a = .slew → exec (.lockDeclared { periods := g, cmps := cmps }) s = .next (s2.actSlew j).rechoose) ∧
        (s1.spr.lock = true → a = .step → exec (.lockDeclared { periods := g, cmps := cmps }) s = .next (s2.actStep j).rechoose))) ∧
    (∀ s1, s.spr.st = .freeRun → s1 = s.updSpr (fun x => { x with refOk := true }) →
      (s.anyArmed = false → exec .freeRunRelock s = .next
        (s1.startRelock (s.spr.fmt, s.spr.rdiv, s.spr.nInt, s.spr.nFrac, s.spr.nomHz) false none)) ∧
      (s.anyArmed = true → exec .freeRunRelock s = .next s1))

/-- Sixteen bad comparisons in a row lose lock; loss of lock and of the reference put a locked loop into holdover, with DEGRADED SPRING 1 and 3, and a loss of
lock again within 60 s logs FATAL SPRING 2 (R216, R218, R224, R475); the return of the reference acts as REF_RETURN_MODE says: HOLD leaves the jump open, SLEW
slews it and STEP_AT_BOUNDARY steps the count by it, at once where lock stands and else once it is declared (R226); the end of a slew whose offset has gone
locks the loop again. A clock monitor raises the alarm source CLOCK (R234, R463). A pending generation of the divider unit applies at the dividers' boundary
while the loop is locked (R35, R232). -/
def Obligations.ReferenceAndClockEventsComplete : Prop :=
  ∀ (s : State),
    (∀ cmps s1 err, s.spr.lock = true → s.spr.relock = none → s1 = s.compareAll cmps →
      err = unsgn 64 ((cmps.getLast?.map PdRun.err).getD 0).floor →
      (s1.spr.lock = true → exec (.lossOfLock cmps) s = .next s1) ∧
      (s1.spr.lock = false → (∀ t, s.spr.lossAt = some t → 60 * s.fsQ < ((s.now - t : Nat) : Rat)) →
        exec (.lossOfLock cmps) s = .next
          ((((s1.updSpr (fun x => { x with lossAt := some s.now, stuck := false })).log DEGRADED bSPRING 1 0 err).lockEvent false 0 none).holdover 2)) ∧
      (∀ t, s1.spr.lock = false → s.spr.lossAt = some t → ((s.now - t : Nat) : Rat) ≤ 60 * s.fsQ →
        exec (.lossOfLock cmps) s = .next
          ((((s1.updSpr (fun x => { x with lossAt := some s.now, stuck := true })).log FATAL bSPRING 2 0 err).lockEvent false 0 none).holdover 2))) ∧
    (∀ cause s', s.spr.refOk = true →
      s' = ((s.updSpr (fun x => { x with refOk := false, refLostCnt := min 65535 (x.refLostCnt + 1) })).log DEGRADED bSPRING 3 0 cause).measureRef →
      (s.spr.st = .locked ∨ s.spr.st = .slewing ∨ s.spr.st = .lpLock ∨ s.spr.st = .holdover → exec (.refLost cause) s = .next (s'.holdover cause)) ∧
      (s.spr.st = .relock ∨ s.spr.st = .freeRun ∨ s.spr.st = .start →
        exec (.refLost cause) s = .next (s'.event 0x20 0 none s'.tb.count [BitVec.ofNat 8 cause]))) ∧
    (∀ jump, s.spr.st = .relock ∨ s.spr.st = .freeRun ∨ s.spr.st = .start →
      exec (.refReturn jump) s = .next (s.updSpr (fun x => { x with refOk := true })).measureRef) ∧
    (∀ jump j s1 s', s.spr.st = .holdover → j = s.wrapJump jump →
      s1 = (s.updSpr (fun x => { x with refOk := true, jump := j, jumpTb := s.tb.count, jumpValid := true })).measureRef →
      s' = s1.event 0x21 0 none s1.tb.count (leBytes 8 (unsgn 64 j) ++ [BitVec.ofNat 8 s1.spr.retMode]) →
      (s'.spr.stuck = true ∨ s'.spr.retMode = 0 → exec (.refReturn jump) s = .next s') ∧
      (s'.spr.stuck = false → s'.spr.retMode = 1 → exec (.refReturn jump) s = .next (s'.returnBy .slew j)) ∧
      (s'.spr.stuck = false → s'.spr.retMode = 2 → exec (.refReturn jump) s = .next (s'.returnBy .step j))) ∧
    (∀ s1, s.spr.st = .slewing → s1 = s.updSpr (fun x => { x with slewFs := 0, slewFast := false }) →
      (s.slewLeft = 0 → exec .slewDone s = .next ((((s1.toSpr s1.lockedSt).lockEvent false 2 none).restartArr).rechoose)) ∧
      (s.slewLeft ≠ 0 → exec .slewDone s = .next s)) ∧
    (∀ what, (what = 0 → s.spr.relock = none) → (what = 2 → s.spr.lock = true) → exec (.clockMonitorAlarm what) s = .next (s.raiseAlarm 1 0)) ∧
    (s.dividerDue = true → s.spr.lock = true → s.spr.relock = none → s.domOn 42 = true →
      exec .dividerBoundary s = .next
        (((List.range 4).foldl (fun x k => x.outApplied s k) s.applyDivider).updSpr (fun x => { x with outHeld := false })) ∧
      (∀ gen rest, (nth s.units 35).pend = gen :: rest → s.pwr.outsDue = false → s.applyDivider = s.applyGen 35 s.tb.count)) ∧
    (s.tb.counting = true → 2 ^ 64 ≤ s.tb.count.toNat + 16 →
      exec .tbWrap s = .next { s.linkIdle with now := s.now + 16, tb := { s.tb with count := s.tb.count + 16, epoch := (s.tb.epoch + 1) % 65536, wrapAt := some s.now } })

/-- TIME_SET MANUAL sets the anchor at once; MAP and LOAD wait for the next PPS_IN edge, which sets it to the edge, LOAD stepping the count too; a wait
that sees no edge, a member, an input that is off, and a LOAD while a group is armed end with STATE (R241, R313). An edge of the selected polarity is stamped with PPS_DLY,
latched and counted (R240); 1.5 s without one count as bad. PPS_OUT places a pulse to Ts/64 (R243), a PTM dialog latches its pair and wakes the link (R244, R364), and a read of TB_NOW_LO
latches the high word and the epoch of one count within 64 Ts (R239), never one below 0 but just after a wrap; between the gate of a relock and its release the count read
is a free value (notes/assumptions/88.md). -/
def Obligations.SiteTimeCompletes : Prop :=
  ∀ (s : State),
    (∀ q e, CmdReady s q 0x3A e →
      (rd e.pkt 16 1 = 0 → PktGood e timeSpans (fun p => pktIndex p == 0 && rd p 16 1 == 0 && rd p 32 8 == 0 && rd p 40 2 == 0) →
        (s.domOn 43 = true → s.bcn.role ≠ 2 → s.tb.ppsEn = true → exec (.timeSetMap q) s = .next (s.waitsFor e .timeMap (some []))) ∧
        (s.bcn.role = 2 ∨ s.tb.ppsEn = false → s.pwr.starting = false → exec (.timeSetMap q) s = .next (s.finish e.idx STATE []))) ∧
      (rd e.pkt 16 1 = 1 → PktGood e timeSpans (fun p => pktIndex p == 0 && rd p 40 2 == 0) →
        (s.domOn 43 = true → s.bcn.role ≠ 2 → s.tb.ppsEn = true → s.anyArmed = false →
          exec (.timeSetLoad q) s = .next (s.waitsFor e .timeLoad (some []))) ∧
        (s.bcn.role = 2 ∨ s.tb.ppsEn = false ∨ s.anyArmed = true → s.pwr.starting = false →
          exec (.timeSetLoad q) s = .next (s.finish e.idx STATE []))) ∧
      (∀ t, rd e.pkt 16 1 = 2 → PktGood e timeSpans (fun p => pktIndex p == 0 && rd p 40 2 < 4096) →
        t = s.updTb (fun t => { t with anchorTb := BitVec.ofNat 64 (rd e.pkt 32 8), anchorFrac := rd e.pkt 40 2,
                                       anchorSec := BitVec.ofNat 64 (rd e.pkt 24 8), anchorValid := true, fromBeacon := false }) →
        (s.domOn 43 = true → s.bcn.role ≠ 2 → exec (.timeSetManual q) s = .next (t.finish e.idx OK
          (leBytes 8 (BitVec.ofNat 64 (rd e.pkt 32 8)).toNat ++ leBytes 2 (rd e.pkt 40 2) ++ leBytes 2 s.tb.epoch))) ∧
        (s.bcn.role = 2 → s.pwr.starting = false → exec (.timeSetManual q) s = .next (s.finish e.idx STATE [])))) ∧
    (∀ q e, s.cp.current q = some e → e.wait = some .timeMap ∨ e.wait = some .timeLoad →
      exec (.timeSetTimeout q) s = .next (s.finish e.idx STATE [])) ∧
    (∀ stamp rise t u s', s.domOn 43 = true → s.tb.ppsEn = true → rise = (s.tb.ppsEdge == 0) → t = stamp + 4096 * s.tb.ppsInt + s.tb.ppsFrac →
      u = (t : Int) + 4096 * ((s.tb.count.toNat : Int) - s.now) →
      s' = s.updTb (fun x => { x with ppsLast := tbCount u, ppsLastFrac := tbFrac u, ppsEdges := min 65535 (x.ppsEdges + 1),
                                      ppsBad := min 65535 (x.ppsBad + b2n (s.ppsBadAt t)), ppsPrev := some t }) →
      exec (.ppsInEdge stamp rise) s = .next
        ((s.cp.jrn.filter (fun e => e.wait == some .timeMap || e.wait == some .timeLoad)).foldl (fun s e => s.timeSetAct t e) s')) ∧
    (s.domOn 43 = true → s.tb.ppsEn = true → exec .ppsMissing s = .next (s.updTb (fun x => { x with ppsBad := min 65535 (x.ppsBad + 1) }))) ∧
    (∀ base gap, s.domOn 43 = true → s.ppsGrid = some (base, gap) → gap ≠ 0 →
      exec .ppsOutPulse s = .next (s.updTb (fun t =>
        { t with ppsPulse := some (roundAway (base + ((64 * (s.tb.count.toNat : Rat) - base) / gap).floor * gap) -
            64 * ((s.tb.count.toNat : Int) - s.now)) }))) ∧
    (∀ ns ago, s.domOn 43 = true → s.tb.ptmEn = true → s.pcie.cfg.ptmEn = true → s.busOk = true →
      exec (.ptmDialog ns ago) s = .next (s.tlp.updTb (fun t =>
        { t with ptmNs := ns, ptmTb := tbCount (s.unitTime (4096 * (s.now : Int) - ago)), ptmFrac := tbFrac (s.unitTime (4096 * (s.now : Int) - ago)),
                 ptmSeq := (t.ptmSeq + 1) % 65536 }))) ∧
    (∃ t : Int, (s.tb.counting = true → ((s.tb.count.toNat : Int) - 64 ≤ t ∧ t ≤ s.tb.count.toNat + 64 ∨ t = 0 ∧ s.tb.count.toNat < 64) ∧
          (s.tb.wrapAt = none → 0 ≤ t)) ∧
        (s.tb.counting = false → (s.tb.count.toNat : Int) ≤ t ∧ (s.spr.relock ≠ some .gated → t = s.tb.count.toNat)) ∧
      exec .tbNowLoRead s = .next
        { ({ s with freeCtr := s.freeCtr + 1 }).updTb (fun x =>
            { x with latchHi := BitVec.ofNat 32 (hi32 (BitVec.ofInt 64 t).toNat), latchEpoch := (((s.tb.epoch : Int) + t / 2 ^ 64) % 65536).toNat }) with
          lastRead := { data := leBytes 4 (BitVec.ofInt 64 t).toNat, ecrc := s.pcie.cfg.ecrcGen }, pcie := s.pcie.wake })

/-- Beacon: BEACON_CONFIG applies its table as one; BEACON_MEASURE starts a measurement on the ports of its mask and waits, or waits for the one under way; with
every port finished its end writes the entries and completes, ACTION 1 correcting the timebase once for the upstream's THETA (R250, R253, R312). A slot sends
the frame of R245, with the events handed over to Beacon by then (R155), or K28.5 after a gated window (R260); a received frame with a bad CRC is counted and
changes nothing else, a good one is taken, its events acted on in order, and the 64th in a row sets a training or lost port UP (R245, R246, R257); a port that
goes down logs DEGRADED BCN 1 and chooses the upstream anew; a passed self-test trains the port, a failed one takes it out of service, the second with FATAL
(R246, R475); lost alignment returns a mismatched port to training (R247); a finished average becomes ARR and is judged (R247, R248). The log of a LINK change
into UP is a row R475 does not give (notes/assumptions/89.md). -/
def Obligations.BeaconCompletes : Prop :=
  ∀ (s : State),
    (∀ q e b w ok, rd e.pkt 16 1 = w → s.busOk = true → CmdReady s q 0x38 e →
      PktGood e [(16, 1), (48, 16)] (fun p => pktIndex p == 0 && rd p 16 1 < 64 && bulkOk p && bulkLen p == 128) →
      ok = (beaconTableOk w b && ppsOutOk (if bit w 3 then fld (rd b 48 4) 1 0 else s.tb.outMode) (if bit w 3 then rd b 56 8 else s.tb.outPeriod) &&
        (!bit w 5 || qwOk (rd b 80 4) (rd b 84 4))) →
      (∀ tbl, padTo (bulkLen e.pkt) tbl = b →
        (ok = true → s.domOn 43 = true → exec (.beaconConfig q (some tbl)) s = .next ((s.beaconApply w b).finish e.idx OK [])) ∧
        (ok = false → exec (.beaconConfig q (some tbl)) s = .next (s.finish e.idx PARAM_RANGE []))) ∧
      exec (.beaconConfig q none) s = .next ((s.logCp7 e).finish e.idx PARAM_RANGE [])) ∧
    (∀ q e mask action bad, rd e.pkt 16 1 = mask → rd e.pkt 18 1 = action → CmdReady s q 0x39 e →
      PktGood e [(16, 1), (17, 1), (18, 1), (48, 16)]
        (fun p => pktIndex p == 0 && 1 ≤ rd p 16 1 && rd p 16 1 < 16 && 10 ≤ rd p 17 1 && rd p 17 1 ≤ 24 && rd p 18 1 ≤ 1 && bulkOk p) →
      bad = (!s.spr.lock || (allBelow 4 (bit mask)).any (fun p => (nth s.bcn.ports p).link ≠ .up) || (action = 1 && !(s.bcn.role = 2 && s.bcn.upPort.isSome))) →
      (bad = false → s.domOn 43 = true → s.bcn.meas = none → exec (.beaconMeasure q) s = .next
        ((s.updBcn (fun b =>
          { b with meas := some { cmd := e.idx, mask := mask, left := mask, action := action, shift := rd e.pkt 17 1,
                                  before := b.ports.map BcnPort.measSeq },
                   ports := b.ports.mapIdx (fun p x => if bit mask p then { x with accSum := 0, accN := 0 } else x) })).waitsFor e .beacon (some []))) ∧
      (bad = false → s.domOn 43 = true → s.bcn.meas.isSome = true → exec (.beaconMeasure q) s = .next (s.threadWaits e.queue)) ∧
      (bad = true → s.pwr.starting = false → exec (.beaconMeasure q) s = .next (s.finish e.idx STATE []))) ∧
    (∀ m e ps bs s0 s1, s.bcn.meas = some m → m.left = 0 → s.jget m.cmd = some e → ps = allBelow 4 (bit m.mask) →
      bs = ((ps.map (fun p => (nth s.bcn.ports p).entry)).take (bulkLen e.pkt / 32)).flatten →
      s0 = s.updBcn (fun b => { b with meas := none }) → s1 = s0.hostWrite (bulkAddr e.pkt) bs →
      (m.action = 0 → bs = [] ∨ s.busOk = true → exec (.beaconMeasureDone true) s = .next (s1.rechoose.finish m.cmd OK
        (leBytes 8 (unsgn 64 (nth s.bcn.ports (ps.headD 0)).theta) ++ leBytes 4 0 ++ leBytes 2 s1.tb.epoch))) ∧
      (∀ u s2 k, m.action = 1 → s.bcn.upPort = some u → bs = [] ∨ s.busOk = true → s1.correctFor u = (s2, k) →
        exec (.beaconMeasureDone true) s = .next (s2.rechoose.finish m.cmd OK
          (leBytes 8 (unsgn 64 (nth s.bcn.ports u).theta) ++ leBytes 4 (unsgn 32 (clampI (-2147483647) 2147483647 k)) ++ leBytes 2 s2.tb.epoch))) ∧
      (bs ≠ [] → s.busOk = true → exec (.beaconMeasureDone false) s = .next ((s0.logCp7 e).finish m.cmd PARAM_RANGE []))) ∧
    (∀ p x slot, p < 4 → nth s.bcn.ports p = x → s.domOn 43 = true → x.en = true → x.failed = false → s.tb.counting = true →
      slot = s.tb.count.toNat - s.tb.count.toNat % 1280 →
      (x.qwGate = true → s.bcn.aligned = true ∨ s.bcn.role = 1 → s.tb.inQuiet slot = true →
        exec (.beaconFrameSend p) s = .next (s.updPort p (fun x => { x with gated := true, resync := true, txFrame := [] }))) ∧
      (x.qwGate = false ∨ s.tb.inQuiet slot = false ∨ s.bcn.aligned = false ∧ s.bcn.role ≠ 1 →
        (x.resync = true → exec (.beaconFrameSend p) s = .next (s.updPort p (fun x =>
          { x with gated := false, resync := false, txFrame := List.replicate 32 0xBC }))) ∧
        (∀ words evs, x.resync = false → words = (if x.txSeq = 0 then s.payload p slot else x.txWords).set 4 (slot / 2 ^ 48) →
          evs = (if s.bcn.treeLink p = true ∧ s.bcn.role ≠ 0 then (x.queue.takeWhile (fun e => e.from_ ≤ s.now)).take 2 else []) →
          exec (.beaconFrameSend p) s = .next (s.updPort p (fun y =>
            { y with txFrame := s.frame p slot words evs, txWords := words, txSeq := (y.txSeq + 1) % 16, queue := y.queue.drop evs.length, gated := false }))))) ∧
    (∀ p f edge, p < 4 → p < s.bcn.ports.length → s.domOn 43 = true → (nth s.bcn.ports p).en = true → (nth s.bcn.ports p).failed = false → s.spr.fallback = false →
      (frameOk f = false → exec (.beaconFrameReceive p f edge) s = .next (s.updPort p (fun x => { x with validRun := 0 }))) ∧
      (frameOk f = true → frameCrcOk f = false →
        exec (.beaconFrameReceive p f edge) s = .next (s.updPort p (fun x => { x with crcErr := min 65535 (x.crcErr + 1), validRun := 0 }))) ∧
      (∀ s1 ups s2, frameOk f = true → frameCrcOk f = true → fld (rd f 1 1) 3 0 ≠ 15 → s1 = s.updPort p (fun x => x.take f edge) →
        ups = (63 ≤ (nth s.bcn.ports p).validRun && ((nth s.bcn.ports p).link == .training || (nth s.bcn.ports p).link == .down)) →
        s2 = (if ups then ((s1.updPort p (fun x => { x with link := .up, accSum := 0, accN := 0, arrTb := none, overRun := 0, underRun := 0 })).linkLog p) else s1).reselect
          s.bcn.hold →
        exec (.beaconFrameReceive p f edge) s = .next
          (([parseEvent (nth s2.bcn.ports p).rxTb (f.drop 12), parseEvent (nth s2.bcn.ports p).rxTb (f.drop 19)].filterMap id).foldl (fun s e => s.bevReceive p e) s2))) ∧
    (∀ p x, p < 4 → nth s.bcn.ports p = x → s.domOn 43 = true → x.link = .up ∨ x.link = .training ∨ x.link = .rateMismatch →
      exec (.portDown p) s = .next
        (((s.updPort p (fun x => { x with link := .down, lossCnt := min 65535 (x.lossCnt + 1), validRun := 0 })).log DEGRADED bBCN 1 p x.peerId).reselect
          s.bcn.hold)) ∧
    (∀ p x r s1, p < 4 → nth s.bcn.ports p = x → s.domOn 43 = true → x.failed = false → x.en = true ∧ x.link = .down ∨ s.pwr.starting = true ∧ x.link ≠ .up →
      s1 = s.updPort p (fun y => { y with link := if x.en then .failed else x.link, failed := true, validRun := 0 }) →
      (x.en = true → exec (.portSelfTest p true r) s = .next (s.updPort p (fun x => { x with link := .training, validRun := 0 }))) ∧
      (x.en = false → exec (.portSelfTest p true r) s = .next s) ∧
      (s.bcn.ports.any BcnPort.failed = false → exec (.portSelfTest p false r) s = .next ((s1.log DEGRADED bBCN 2 p r).reselect s.bcn.hold)) ∧
      (s.bcn.ports.any BcnPort.failed = true → exec (.portSelfTest p false r) s = .next ((s1.log FATAL bBCN 4 p r).reselect s.bcn.hold))) ∧
    (∀ p, p < 4 → (nth s.bcn.ports p).link = .rateMismatch →
      exec (.receiverLosesAlignment p) s = .next (s.updPort p (fun x => { x with link := .training, validRun := 0 }))) ∧
    (∀ p x slot s1, p < 4 → nth s.bcn.ports p = x → s.domOn 43 = true → x.link = .up ∨ x.link = .rateMismatch → s.bcn.frames p ≤ x.accN →
      slot = s.tb.count.toNat - s.tb.count.toNat % 1280 →
      s1 = s.updPort p (fun y => { y with arr := roundAway ((x.accSum : Rat) / x.accN), measSeq := (y.measSeq + 1) % 2 ^ 32, measN := y.accN, accSum := 0,
                                          accN := 0, arrTb := some slot, solved := false }) →
      (x.arrTb = none → exec (.arrMeasured p) s = .next ((s1.reselect s.bcn.hold).trySolve p)) ∧
      (∀ prev, x.arrTb = some prev → exec (.arrMeasured p) s = .next (((s1.judgeRate p x.arr prev slot).reselect s.bcn.hold).trySolve p)))

/-! ### Display, lamp matrix and monitoring -/

/-- The display's events: EDID_READ answers bytes, extension count and FAIL (R322); a frame boundary raises GLB bit 2 and applies the pending generations, each
core-cycle edge with scan-out stopped being one and none being one inside a relock's gate (R35, R386, R387, R400); line 0 flips (R383, R392); a finished pass
writes its picture, counts itself and the traces it skipped, and marks the buffer drawn, the owed pass beginning at once (R388 to R393); the underrun of a line,
once for the line (which one is a free value, notes/assumptions/105.md), and an entry to urgent fetching are counted (R395, R396); an output trains to the first
configuration that carries the pixels and passes, to NO_BW where the widest and fastest does not carry them, to LOST where every try fails; the outputs move
between TRAINING, UP, NO_BW, LOST and WAIT_HPD, and a failed self-test takes one out of service with DEGRADED LTN 1, the second with FATAL LTN 2 (R398, R399,
R475). -/
def Obligations.DisplayCompletes : Prop :=
  ∀ (s : State),
    (s.spr.relock ≠ some .gated → s.ltn.scanning = true → s.ltn.stopped = false → s.ltn.vblank = false →
      exec .frameBoundary s = .next ((s.updLtn (fun l => { l with vblank := true, line := s.vActive, vLines := s.vBlank })).raiseGlb 2).frameGen) ∧
    (s.spr.relock ≠ some .gated → s.ltn.scanning = false → exec .frameBoundary s = .next s.frameGen) ∧
    (s.spr.relock = some .gated → exec .frameBoundary s = .next s) ∧
    ∀ k, s.domOn 46 = true → k < 2 →
    (∀ q e aux w n, n = 128 * rd e.pkt 17 1 → pktIndex e.pkt = k → CmdReady s q 0x4A e →
      PktGood e [(16, 1), (17, 1), (48, 16)]
        (fun p => pktIndex p ≤ 1 && 1 ≤ rd p 17 1 && rd p 17 1 ≤ 4 && bulkOk p && (bulkLen p == 0 || 128 * rd p 17 1 ≤ bulkLen p)) →
      ((nth s.ltn.dp k).hpd = false → s.pwr.starting = false → exec (.edidRead q aux w) s = .next (s.finish e.idx STATE (edidResult 0 0 1))) ∧
      ((nth s.ltn.dp k).hpd = true → s.pwr.starting = false → exec (.edidRead q none w) s = .next (s.finish e.idx STATE (edidResult 0 0 2))) ∧
      (∀ bs ext, (nth s.ltn.dp k).hpd = true → ext = (if rd e.pkt 16 1 = 0 then rd (padTo n bs) 126 1 else 0) →
        (bulkLen e.pkt = 0 → exec (.edidRead q (some bs) w) s = .next (s.finish e.idx OK (edidResult 0 ext 0))) ∧
        (bulkLen e.pkt ≠ 0 → padTo n bs ≠ [] → s.busOk = true → exec (.edidRead q (some bs) true) s = .next
          ((s.hostWrite (bulkAddr e.pkt) (padTo n bs)).finish e.idx OK (edidResult n ext 0)) ∧
          exec (.edidRead q (some bs) false) s = .next ((s.logCp7 e).finish e.idx PARAM_RANGE [])))) ∧
    (s.ltn.scanning = true → s.ltn.stopped = false → s.ltn.vblank = true → exec .line0Flip s = .next ((s.line0.dpRefit 0).dpRefit 1)) ∧
    (∀ t u, s.ltn.passRun = true → s.spr.fallback = false → t = s.putBytes (s.fbBase s.ltn.passBuf) s.raster →
      u = t.updLtn (fun l =>
        { l with passRun := false, passReady := t.scanSrc = 0, passHeld := t.scanSrc ≠ 0, needPass := false, passCnt := min 0xFFFFFFFF (l.passCnt + 1),
                 traceSkip := min 65535 (l.traceSkip + (List.range 16).countP (fun t => (s.trace t).en && s.traceSkips (s.trace t))),
                 bufGen := l.bufGen.set l.passBuf l.passGen, owed := false }) →
      (s.ltn.owed = false ∨ u.scanSrc = 0 ∨ u.rasterEn = false → exec .rasterPassDone s = .next u) ∧
      (s.ltn.owed = true → u.scanSrc ≠ 0 → u.rasterEn = true → exec .rasterPassDone s = .next (u.startPass u.drawBuf))) ∧
    (∀ ls line x, ls = s.unscanned → line = ls.getD (Config.freeNat s.freeCtr % ls.length) 0 → x = Config.freeNat (s.freeCtr + 1) % s.hActive →
      (s.fetching = true → ls ≠ [] → exec .lineUnderrun s = .next
        ({ s with freeCtr := s.freeCtr + 2 }.updLtn (fun l =>
          { l with short := l.short ++ [(line, x)], underrunCnt := min 0xFFFFFFFF (l.underrunCnt + 1) }))) ∧
      (s.fetching = false ∨ ls = [] → exec .lineUnderrun s = .next s)) ∧
    (s.fetching = true → s.ltn.urgent = false → s.regF (ltnA 0) 16 10 ≠ 0 →
      exec (.fetchUrgent true) s = .next (s.updLtn (fun l => { l with urgent := true, urgentCnt := min 65535 (l.urgentCnt + 1) }))) ∧
    exec (.fetchUrgent false) s = .next (s.updLtn (fun l => { l with urgent := false })) ∧
    (∀ d, nth s.ltn.dp k = d → k < s.ltn.dp.length → s.dpEn k = true → d.failed = false → d.st ≠ .up → d.st ≠ .training →
      exec (.dpTrain k) s = .next ((s.updDp k (fun d => { d with hpd := true })).dpTo k .training)) ∧
    (∀ d lanes rate tries walk fits, nth s.ltn.dp k = d → d.st = .training →
      walk = trainOrder (min lanes (s.regF (ltnA 0) 7 6)) (min rate (s.regF (ltnA 0) 9 8)) → fits = walk.filter (fun c => s.linkFits c.1 c.2) →
      (s.linkFits (min lanes (s.regF (ltnA 0) 7 6)) (min rate (s.regF (ltnA 0) 9 8)) = false → exec (.dpTrainEnd k { lanes := lanes, rate := rate } tries) s = .next (s.dpTo k .noBw)) ∧
      (s.linkFits (min lanes (s.regF (ltnA 0) 7 6)) (min rate (s.regF (ltnA 0) 9 8)) = true →
        (∀ c, (fits.zip tries).find? Prod.snd = some (c, true) → exec (.dpTrainEnd k { lanes := lanes, rate := rate } tries) s = .next
          ((s.updDp k (fun d => { d with lanes := c.1, rate := c.2 })).dpTo k .up)) ∧
        ((∀ b ∈ tries, b = false) → exec (.dpTrainEnd k { lanes := lanes, rate := rate } tries) s = .next (s.dpTo k .lost)))) ∧
    (∀ s', s' = s.updDp k (fun d => { d with hpd := false }) →
      ((nth s'.ltn.dp k).st = .up → exec (.hpdLow k) s = .next (s'.dpTo k .lost)) ∧
      ((nth s'.ltn.dp k).st = .training ∨ (nth s'.ltn.dp k).st = .noBw → exec (.hpdLow k) s = .next (s'.dpTo k .waitHpd))) ∧
    ((nth s.ltn.dp k).st = .up → exec (.hpdIrq k) s = .next (s.dpTo k .training)) ∧
    ((nth s.ltn.dp k).st = .lost → (nth s.ltn.dp k).hpd = true → s.dpEn k = true → exec (.dpRetry k) s = .next (s.dpTo k .training)) ∧
    (∀ r d, nth s.ltn.dp k = d → d.failed = false → d.st ≠ .up → d.st ≠ .training →
      exec (.dpSelfTest k true r) s = .next s ∧
      ((nth s.ltn.dp (1 - k)).failed = false →
        exec (.dpSelfTest k false r) s = .next (((s.log DEGRADED bLTN 1 k r).updDp k (fun d => { d with failed := true })).dpTo k .failed)) ∧
      ((nth s.ltn.dp (1 - k)).failed = true →
        exec (.dpSelfTest k false r) s = .next (((s.log FATAL bLTN 2 k r).updDp k (fun d => { d with failed := true })).dpTo k .failed)))

/-- The lamp matrix: a row slot that no quiet window delays drives its 24 colours for their duties and judges those driven for 2 µs or more (R404, R408 to
R410); a diagnostic slot drives the colours that need it, the sixteenth ends the sub-frame and counts it (R409 to R411); a slot that a window delays waits dark with every row released, counted once,
and one that fits no gap between windows stands starved with its event (R260, R409); the frame's end ages the findings, applies the pending generation of the lamp unit with
the frame number as its boundary, forgets what DIAG_EN 0 leaves unverified, sets the currents and begins the next frame (R36, R405 to R407, R411, R412), and with PD47 off
the boundary is at every core-cycle edge (R35, R413); an edge of LAMP_SYNC starts a waiting frame and is counted in a running one (R406). -/
def Obligations.LampCompletes : Prop :=
  ∀ (s : State),
    (s.domOn 47 = false → exec .lampFrameBoundary s = .next (if (nth s.units 34).pend = [] then s else s.applyGen 34 0)) ∧
    ∀ fs : List Nat, s.domOn 47 = true →
    (∀ r s0 s1, s.lamp.slot = some r → r < 16 → s0 = s.updLamp (fun l => { l with starved := false }) → s.qwStarves = false →
      s1 = s.updLamp (fun l =>
        { l with starved := false, st := .rows, row := r, slot := some (r + 1), begun := some (s.now, 256 + 2 * s.rowGuard),
                 drive := (rowColours r).map (fun i => if s.driven i then s.duty i else 0), current := (rowColours r).map (fun i => nth l.iEff (i % 3)) }) →
      (s0.slotFits (256 + 2 * s.rowGuard) = true → exec (.lampRowSlot fs) s = .next ((rowColours r).foldl (fun x i =>
        if 100 ≤ (if s.driven i then s.duty i else 0) * x.tickDiv then x.lampFind i (LampDiag.ofCode (fs.getD (i % 24) 0)) else x) s1)) ∧
      (s0.slotFits (256 + 2 * s.rowGuard) = false → s.lamp.st ≠ .waitQw → exec (.lampRowSlot fs) s = .next
        (s0.updLamp (fun l => { l.dark with st := .waitQw, qwWait := min 65535 (l.qwWait + 1) })))) ∧
    (∀ r, s.lamp.slot = some r → r < 16 → s.qwStarves = true → s.lamp.starved = false → exec (.lampRowSlot fs) s = .next
      (((s.updLamp (fun l => { l.dark with st := .qwStarved })).event 0x41 0 none s.tb.count [1]).updLamp (fun l => { l with starved := true }))) ∧
    (∀ r s1 s2, s.lamp.diagSlot = some r → s.qwStarves = false → (s.updLamp (fun l => { l with starved := false })).slotFits (s.pulseTicks + 2 * s.rowGuard) = true →
      s1 = s.updLamp (fun l =>
        { l with starved := false, st := .diag, row := r, begun := some (s.now, s.pulseTicks + 2 * s.rowGuard),
                 drive := (rowColours r).map (fun i => if s.needsDiag i then s.pulseTicks else 0),
                 current := (rowColours r).map (fun i => max 1 ((2 * nth l.iEff (i % 3) + 8) / 16)) }) →
      s2 = (rowColours r).foldl (fun x i =>
        if ((rowColours r).map s.needsDiag).getD (i % 24) false then x.lampFind i (LampDiag.ofCode (fs.getD (i % 24) 0)) else x) s1 →
      (r < 15 → exec (.lampDiagSubframe fs) s = .next (s2.updLamp (fun l => { l with diagSlot := some (r + 1) }))) ∧
      (15 ≤ r → exec (.lampDiagSubframe fs) s = .next (s2.updLamp (fun l =>
        { l with diagSlot := none, slot := some 0, diagCnt := min 0xFFFFFFFF (l.diagCnt + 1) })))) ∧
    (∀ num s1 s2 s3, s.lamp.st = .stopped ∨ s.lamp.slot = some 16 →
      num = (if s.lamp.st = .stopped then 0 else min 0xFFFFFFFF (s.lamp.frameNum + 1)) →
      s1 = (if s.lamp.st = .stopped then s else (List.range 384).foldl State.lampAge s) →
      s2 = (if (nth s1.units 34).pend = [] then s1 else s1.applyGen 34 (BitVec.ofNat 64 num)) →
      s3 = ((List.range 384).foldl State.lampBlind s2).lampCurrent →
      (s.lamp.st ≠ .stopped ∨ s3.lampRun = true →
        exec .lampFrameBoundary s = .next ((s3.updLamp (fun l => { l with frameNum := num })).lampNext)) ∧
      (s.lamp.st = .stopped → s3.lampRun = false → exec .lampFrameBoundary s = .next s3)) ∧
    (s.lampExt = true → s.lamp.st = .waitSync → exec .lampSyncEdge s = .next s.lampStart) ∧
    (s.lampExt = true → s.lamp.st ≠ .waitSync → s.lamp.st ≠ .stopped →
      exec .lampSyncEdge s = .next (s.updLamp (fun l => { l with syncEarly := min 65535 (l.syncEarly + 1) })))

/-- Buoy: a scan that is due starts when nothing converts and is counted late when it meets a scan (R417, R418); a conversion becomes its input's result and is
judged (R415 to R420), the ageing inputs returning their last gate (R416); MONITOR_SCAN_CONFIG sets the scan and, with a table, the host windows (R323);
MONITOR_READ LAST answers the last result, URGENT converts at once unless a scan runs, when it is dropped and counted and answers the last scanned value (R324,
R418). While PD48 is off the comparators judge: a tripped rail raises RAIL and restarts its domain, a temperature that leaves its window raises TEMP (R421,
R447, R463). -/
def Obligations.MonitoringCompletes : Prop :=
  ∀ (s : State),
    (s.domOn 48 = true →
      (s.buoy.st = .idle → exec .buoyScanStart s = .next (s.updBuoy (fun b => b.startScan))) ∧
      (s.buoy.st = .scanning → exec .buoyScanStart s = .next (s.updBuoy (fun b => { b with due := true, scanLate := min 65535 (b.scanLate + 1) }))) ∧
      (s.buoy.st = .urgent → exec .buoyScanStart s = .next (s.updBuoy (fun b => { b with due := true }))) ∧
      (∀ code i c, s.buoy.input = i → c = (if 62 ≤ i then s.buoy.gates.getD (i - 62) 2048 else code) →
        (s.buoy.st = .scanning → exec (.buoyConversionDone code) s = .next
          (((s.putResult i c).judgeInput i c (nth s.buoy.scanLim i)).updBuoy Buoy.nextInput).sequencer) ∧
        (s.buoy.st = .urgent → exec (.buoyConversionDone code) s = .next (((s.putResult i c).judgeInput i c (nth s.buoy.lim i)).urgentDone).sequencer)) ∧
      (∀ i count, i = 62 ∨ i = 63 → exec (.ageingGate i count) s = .next (s.updBuoy (fun b =>
        { b with gates := upd b.gates (i - 62) (fun _ => (clampI 0 4095 (Config.ageingCode i count (nth s.buoy.res 50).code)).toNat) }))) ∧
      (∀ q e, CmdReady s q 0x58 e →
        PktGood e [(16, 8), (24, 1), (28, 4), (48, 16)]
          (fun p => pktIndex p == 0 && rd p 24 1 ≤ 3 && rd p 28 4 ≤ 1000000 && bulkOk p && (bulkLen p == 0 || bulkLen p == 512)) →
        (bulkLen e.pkt = 0 → ∀ tbl, exec (.monitorScanConfig q tbl) s = .next ((s.scanConfig e.pkt s.buoy.lim).finish e.idx OK [])) ∧
        (∀ tbl, bulkLen e.pkt = 512 → s.busOk = true → (List.range 64).all (limEntryOk (padTo 512 tbl)) = true →
          exec (.monitorScanConfig q (some tbl)) s = .next ((s.scanConfig e.pkt (loadLimits (padTo 512 tbl) s.buoy.lim)).finish e.idx OK []))) ∧
      (∀ q e i, rd e.pkt 16 1 = i → CmdReady s q 0x59 e → PktGood e [(16, 1), (17, 1)] monitorOk →
        (rd e.pkt 17 1 = 0 → exec (.monitorReadLast q) s = .next (s.finish e.idx OK (monitorResult (nth s.buoy.res i) false))) ∧
        (rd e.pkt 17 1 = 1 → s.buoy.st = .scanning → exec (.monitorReadUrgent q) s = .next
          ((s.updBuoy (fun b => { b with urgDrop := min 65535 (b.urgDrop + 1) })).finish e.idx OK (monitorResult (s.buoy.lastScanned i) true))) ∧
        (rd e.pkt 17 1 = 1 → s.buoy.st = .idle → exec (.monitorReadUrgent q) s = .next
          ((s.updBuoy (fun b => { b with urgents := b.urgents ++ [(i, e.idx)], st := .urgent, input := i })).waitsFor e (.convert i) none)) ∧
        (rd e.pkt 17 1 = 1 → s.buoy.st = .urgent → exec (.monitorReadUrgent q) s = .next
          ((s.updBuoy (fun b => { b with urgents := b.urgents ++ [(i, e.idx)] })).waitsFor e (.convert i) none)))) ∧
    (∀ d, s.domOn 48 = false → s.domOn d = true → exec (.railComparatorTrip d) s = .next
      ((({ s with freeCtr := s.freeCtr + 1 }).raiseAlarm 0 (d + 256 * (Config.freeNat s.freeCtr % 4096))).restartDomain d 0).sequencer) ∧
    (s.pwr.st = .standby ∨ s.pwr.st = .off →
      (bit s.kpr.srcNow 2 = false → exec (.tempComparatorCheck true) s = .next ((s.setNow 2 true).raiseAlarm 2 0)) ∧
      (bit s.kpr.srcNow 2 = true → exec (.tempComparatorCheck true) s = .next (s.setNow 2 true)) ∧
      exec (.tempComparatorCheck false) s = .next (s.setNow 2 false))

/-! ### Power, resets and start-up -/

/-- POWER_STATE acts at once where the sequencer is idle: OLD, NEW and TIME 0 in the state it names already, otherwise the sequence begins, and the command
waits for it; while the sequencer works or start-up runs it waits to act, and a busy part refuses it with STATE (R14, R325, R428, R434). DOMAIN_CONTROL switches
the domains of its masks on in rising and off in falling order, or waits for the transition under way (R326, R427). A ramp that ends leaves the domain on, or
off, posts DOMAIN and lets the sequencer go on, the five Reservoir domains going off together (R425, R426, R428, R429). A missed heartbeat and an uncorrectable
state error restart their domain, 1 ms later it is switched on again (R447). -/
def Obligations.PowerCompletes : Prop :=
  ∀ (s : State),
    (∀ q e target, rd e.pkt 16 1 = target → CmdReady s q 0x60 e → PktGood e [(16, 1)] (fun p => pktIndex p == 0 && rd p 16 1 ≤ 3) →
      (s.pwr.trans.isSome = true ∨ s.pwr.starting = true → exec (.powerState q) s = .next (s.waitsFor e (.power false) none).sequencer) ∧
      (s.pwr.trans = none → s.pwr.starting = false → s.powerBusy target = true →
        exec (.powerState q) s = .next (s.finish e.idx STATE []).sequencer) ∧
      (s.pwr.trans = none → s.pwr.starting = false → s.powerBusy target = false → PowerSt.ofCode target = s.pwr.st →
        exec (.powerState q) s = .next (s.finish e.idx OK (powerResult s.pwr.st.code s.pwr.st.code 0)).sequencer) ∧
      (∀ steps, s.pwr.trans = none → s.pwr.starting = false → s.powerBusy target = false → PowerSt.ofCode target ≠ s.pwr.st →
        powerSteps s.pwr.activeMask s.pwr.st (PowerSt.ofCode target) = some steps →
        ∀ s1, s1 = (if PowerSt.ofCode target = .standby ∨ PowerSt.ofCode target = .off then (s.updPwr (fun p => { p with ready := false })).closeDebug else s) →
        exec (.powerState q) s = .next ((s1.updPwr (fun p =>
          { p with trans := some { target := some (PowerSt.ofCode target), old := s.pwr.st, steps := steps, start := s1.now, cmd := some e.idx } })).waitsFor e
            (.power true) (some [])).sequencer)) ∧
    (∀ q e on off, rd e.pkt 16 8 = on → rd e.pkt 24 8 = off → CmdReady s q 0x61 e →
      PktGood e [(16, 8), (24, 8)] (fun p =>
        pktIndex p == 0 && rd p 16 8 ||| rd p 24 8 < 2 ^ 50 && rd p 16 8 &&& rd p 24 8 == 0 &&
          (rd p 16 8 ||| rd p 24 8) &&& (maskOf 45 42 ||| maskOf 49 48) == 0) →
      (s.domainBusy on off = false → s.pwr.trans = none →
        exec (.domainControl q) s = .next ((s.updPwr (fun p =>
          { p with trans := some { old := s.pwr.st, steps := (allBelow 49 (bit on)).map PStep.on ++ ((allBelow 49 (bit off)).reverse).map PStep.off,
                                   cause := 0, start := s.now },
                   activeMask := (p.activeMask ||| on) - (p.activeMask &&& off) })).waitsFor e .domains (some [])).sequencer) ∧
      (s.domainBusy on off = true → s.pwr.starting = false → exec (.domainControl q) s = .next (s.finish e.idx STATE []).sequencer) ∧
      (s.domainBusy on off = false → s.pwr.trans.isSome = true → exec (.domainControl q) s = .next (s.threadWaits e.queue).sequencer)) ∧
    (∀ t d rest s0 s1, s.pwr.trans = some t → t.steps = .on d :: rest →
      (nth s.pwr.doms d).st = .ramp ∧ s0 = s ∨ (nth s.pwr.doms d).st = .off ∧ (nth s.pwr.doms d).restarting = false ∧ s.cooling d = false ∧ s0 = s.ramp d true →
      s1 = s0.updDom d (fun x => { x with st := .on, cause := t.cause, offAt := none }) →
      exec .domainRampDone s = .next
        (((((if d = 45 then s1.flushStby else s1).domainEvent d).gainDomain d t.cause).updPwr Pwr.popStep).sequencer)) ∧
    (∀ t d rest, s.pwr.trans = some t → t.steps = .off d :: rest → (nth s.pwr.doms d).st = .ramp →
      exec .domainRampDone s = .next
        (((s.updDom d (fun x => { x with st := if t.cause = 4 then .heldOff else .off, cause := t.cause, restarting := t.cause = 3 && !rest.isEmpty,
                                         offAt := some s.now })).domainEvent
          d).updPwr Pwr.popStep).sequencer) ∧
    (∀ t rest ds, s.pwr.trans = some t → t.steps = .stacksOff :: rest → ds = [37, 38, 39, 40, 41].filter (fun d => (nth s.pwr.doms d).st == .ramp) → ds ≠ [] →
      exec .domainRampDone s = .next ((ds.foldl (fun s d => s.rampedOff d t.cause false) s).updPwr Pwr.popStep).sequencer) ∧
    (∀ d, (nth s.pwr.doms d).restarting = true ∨ s.cooling d = true →
      exec (.domainRestartOn d) s = .next (s.updDom d (fun x => { x with restarting := false, offAt := none })).sequencer) ∧
    (∀ d, d < 49 → s.domOn d = true → s.pwr.trans = none →
      exec (.heartbeatTimeout d) s = .next (s.beginRestart d 2).sequencer ∧
      exec (.uncorrectableStateError d) s = .next (s.beginRestart d 1).sequencer) ∧
    (∀ d, d < 49 → s.domOn d = true → s.pwr.trans.isSome = true →
      ((∀ x ∈ s.pwr.restartDue, x.1 ≠ d) →
        exec (.heartbeatTimeout d) s = .next (s.updPwr (fun p => { p with restartDue := p.restartDue ++ [(d, 2)] })).sequencer ∧
        exec (.uncorrectableStateError d) s = .next (s.updPwr (fun p => { p with restartDue := p.restartDue ++ [(d, 1)] })).sequencer) ∧
      ((∃ x ∈ s.pwr.restartDue, x.1 = d) →
        exec (.heartbeatTimeout d) s = .next s.sequencer ∧ exec (.uncorrectableStateError d) s = .next s.sequencer))

/-- The reset pins: the first that falls is a warm reset of its kind; a second one low at the same time only counts for the kind (R442, R446). With both
released the flash is asked for its SFDP and then read in the mode that chooses (R436), and start-up begins, its first steps switching on PD44, PD45 and PD48
(R440). A verified image runs; a refused one fails start-up, names the reason and raises IMAGE (R440, R441, R451, R452). A phase whose condition has come ends
and the next begins; one that overruns is logged CONTAINED PWR 3 (R441). The fall of VDD_AON is a cold reset: all of the state is as at power-up but the keys,
the raised floor, the permanent spare rows and what is the model's own (the queue of commands, its clock, its free values and its record of host writes); its
return switches PD49 on (R17, R188, R453, R454, R465). -/
def Obligations.ResetsAndStartUpComplete : Prop :=
  ∀ (s : State),
    (s.pwr.aon = true → s.pwr.resetN = true → s.pwr.perstN = true →
      exec .resetNAssert s = .next ((s.updPwr (fun p => { p with resetN := false })).warmReset 1) ∧
      exec .perstNAssert s = .next ((s.updPwr (fun p => { p with perstN := false })).warmReset 2)) ∧
    (s.pwr.aon = true → s.pwr.resetN = false → s.pwr.perstN = true →
      exec .perstNAssert s = .next (s.updPwr (fun p => { p with perstN := false }))) ∧
    (s.pwr.aon = true → s.pwr.resetN = true → s.pwr.perstN = false →
      exec .resetNAssert s = .next ((s.updPwr (fun p => { p with resetN := false, lastKind := if p.lastKind = 2 then 1 else p.lastKind })).updCp
        (fun c => { c with pendRec := c.pendRec.map (fun r => { r with kind := if r.kind = 2 then 1 else r.kind }) }))) ∧
    (∀ fl a b, s.pwr.aon = true → s.pwr.resetN = false → s.pwr.perstN = true →
      exec (.resetRelease true fl (a, b)) s = .next ((s.updPwr (fun p => { p with resetN := true, flash := [sfdpRead, flashMode fl] })).startUp a b)) ∧
    (∀ fl a b, s.pwr.aon = true → s.pwr.resetN = true → s.pwr.perstN = false →
      exec (.resetRelease false fl (a, b)) s = .next ((s.updPwr (fun p => { p with perstN := true, flash := [sfdpRead, flashMode fl] })).startUp a b)) ∧
    (∀ fl a b, s.pwr.aon = true → s.pwr.resetN = false → s.pwr.perstN = false →
      exec (.resetRelease true fl (a, b)) s = .next (s.updPwr (fun p => { p with resetN := true })) ∧
      exec (.resetRelease false fl (a, b)) s = .next (s.updPwr (fun p => { p with perstN := true }))) ∧
    (s.kpr.img = .loading → s.domOn 45 = true →
      (∀ b s1, s.kpr.imgSource ≠ 1 ∨ b.length = s.kpr.imgLen → imageCheck s.kpr.svnFloor b = 0 →
        s1 = (((s.setNow 3 false).updKpr (fun k => { k with img := .verified, failReason := 0, svn := rd b 12 1, advance := bit (rd b 13 1) 0 })).updCp
          (fun c => { c with image := some (imageOf s.kpr.imgSource b) })) →
        (s.pwr.reloading = false → exec (.imageVerified (some b)) s = .next
          (s1.updPwr (fun p => { p with starting := true, phase := .imageLoad })).startSequencers) ∧
        (s.pwr.reloading = true → exec (.imageVerified (some b)) s = .next (s1.raiseFloor.updPwr (fun p => { p with phase := .done })).sequencer)) ∧
      (∀ b reason, reason = (if s.kpr.imgSource = 1 ∧ b.length ≠ s.kpr.imgLen then 1 else imageCheck s.kpr.svnFloor b) → reason ≠ 0 →
        exec (.imageVerified (some b)) s = .next
          ((((s.updKpr (fun k => { k with img := .failed, failReason := reason })).setNow 3 true).updPwr (fun p => { p with phase := .failed, starting := false })).raiseAlarm 3
            reason)) ∧
      exec (.imageVerified none) s = .next
        ((((s.updKpr (fun k => { k with img := .failed, failReason := 5 })).setNow 3 true).updPwr (fun p => { p with phase := .failed, starting := false })).raiseAlarm 3 5)) ∧
    (∀ ms, s.pwr.starting = true → s.phaseMet = true → exec (.startupPhaseDone ms) s = .next (s.phaseEnd ms).nextPhase) ∧
    (∀ ms, s.pwr.starting = true → s.kpr.img ≠ .waitHost → s.pwr.phase ≠ .imageLoad ∨ s.kpr.img = .verified →
      exec (.startupPhaseOverrun ms) s = .next ((s.log CONTAINED bPWR 3 s.pwr.phase.code ms).phaseEnd ms).nextPhase) ∧
    (∀ ms, s.pwr.starting = true → s.kpr.img ≠ .waitHost → s.kpr.img ≠ .verified → s.pwr.phase = .imageLoad →
      exec (.startupPhaseOverrun ms) s = .next (s.log CONTAINED bPWR 3 s.pwr.phase.code ms)) ∧
    exec .coldReset s = .next
      { pending := s.pending, now := s.now, freeCtr := s.freeCtr, hostWrites := s.hostWrites, msixSent := s.msixSent, msgSent := s.msgSent, kpr := s.kpr.cold,
        rsv := { stk := s.rsv.stk.map (fun k => { rowsUsed := k.rowsUsed - k.remapped.length }) }, pwr := { aon := false } } ∧
    (s.pwr.aon = false → exec .vddAonReturn s = .next
      ((s.updPwr (fun p => { p with aon := true, doms := List.replicate 49 {} ++ [{ st := .on }] })).finishErase)) ∧
    (s.kpr.erase = none → s.finishErase = s)

/-- An output other than TDO is high-impedance while the A128 is unpowered, while RESET_N or PERST_N is low and while its domain is off, and its line then holds the
level of the board's network (R444, R491); released, it does what its function says, unless the TAP holds the pins (R445, R461). READY, ALARM_N and WAKE_N
are low while the part is not ready, raises an alarm or asks for a wake, and otherwise left to their pull-ups (R365, R443). TDO, which works in reset (R461), is the
model's exception to R444 (notes/assumptions/102.md). -/
def Obligations.OutputsAreReleased : Prop :=
  ∀ (s : State) (o : Output),
    (s.pwr.aon = false ∨ o ≠ .tdo ∧ (s.pwr.resetN = false ∨ s.pwr.perstN = false ∨ s.domOn o.domain = false) →
      s.pin o = .highZ ∧ s.lineLevel o = o.idleLevel s.pwr.aon) ∧
    (s.pwr.aon = true → o = .tdo ∨ s.pwr.resetN = true ∧ s.pwr.perstN = true ∧ s.domOn o.domain = true ∧ s.kpr.tapPins = false →
      s.pin o = s.pinOn o) ∧
    (s.pwr.aon = true → s.pwr.resetN = true → s.pwr.perstN = true → s.domOn 49 = true → s.kpr.tapPins = false →
      s.lineLevel .ready = some s.pwr.ready ∧ s.lineLevel .alarmN = some (decide (s.kpr.alarm = .clear)) ∧
      s.lineLevel .wakeN = some (!s.pcie.wakeN)) ∧
    (s.pwr.aon = true → s.pwr.resetN = true → s.pwr.perstN = true → s.domOn 43 = true → s.kpr.tapPins = false →
      s.lineLevel .ppsOut = some s.ppsLevel ∧ ∀ i, s.lineLevel (.trigOut i) = some (s.trigOutLevel i))

/-! ### Security -/

/-- The security commands and events: KEY_PROVISION fills an empty slot from a blob that unwraps, denies one that does not, or erases a slot (R455, R456);
DEBUG_CHALLENGE issues a nonce (R457); DEBUG_RESPONSE opens OPEN_USER on a good signature and counts a bad one (R458, R459); ALARM_POLICY is written once (R6,
R463); ATTEST writes its signed report (R462); a lid edge raises LID and a failed slot KEYSTORE (R454, R463); finished erases empty every slot (R459, R465); a
challenge expires (R328); the TAP takes the instructions the debug state reaches (R461). -/
def Obligations.SecurityCompletes : Prop :=
  ∀ (s : State) (q : Nat) (e : JEntry),
    (s.kpr.alarm = .clear → s.busOk = true →
      (∀ slot tbl b, rd e.pkt 16 1 = slot → padTo (bulkLen e.pkt) tbl = b → rd e.pkt 17 1 = 0 → CmdReady s q 0x68 e →
        PktGood e [(16, 1), (17, 1), (48, 16)] (fun p => pktIndex p == 0 && rd p 16 1 ≤ 2 && rd p 17 1 == 0 && bulkOk p && 64 ≤ bulkLen p && bulkLen p ≤ 1024) →
        blobOk slot (bulkLen e.pkt) b = true → s.kpr.dbg ≠ .openVendor → s.kpr.slots.getD slot none = none →
        slot = 2 ∨ (s.kpr.slots.getD 2 none).isSome = true →
        (∀ k, unwrap s slot b = some k →
          exec (.keyProvisionWrite q (some tbl)) s = .next ((s.setSlot slot (some k)).finish e.idx OK (slotResult (s.setSlot slot (some k)) slot))) ∧
        (unwrap s slot b = none → exec (.keyProvisionWrite q (some tbl)) s = .next (s.finish e.idx SECURITY_DENIED []))) ∧
      (∀ slot, rd e.pkt 16 1 = slot → rd e.pkt 17 1 = 1 → CmdReady s q 0x68 e →
        PktGood e [(16, 1), (17, 1), (48, 16)] (fun p => pktIndex p == 0 && rd p 16 1 ≤ 2 && rd p 17 1 == 1 && bulkOk p && bulkLen p == 0) →
        exec (.keyProvisionErase q) s = .next ((s.setSlot slot none).finish e.idx OK (slotResult (s.setSlot slot none) slot))) ∧
      (∀ lv nonce, rd e.pkt 16 1 = lv → CmdReady s q 0x69 e →
        PktGood e [(16, 1)] (fun p => pktIndex p == 0 && (rd p 16 1 == 1 || rd p 16 1 == 2)) →
        s.kpr.dbg.code < lv → (lv = 1 → (s.kpr.slots.getD 1 none).isSome = true) →
        exec (.debugChallenge q nonce) s = .next
          ((s.updKpr (fun k => { k with challenge := some { nonce := padTo 16 nonce, level := lv } })).finish e.idx OK (padTo 16 nonce))) ∧
      (∀ c sig ok, s.kpr.challenge = some c → CmdReady s q 0x6A e → PktGood e [(48, 16)] (fun p => pktIndex p == 0 && bulkOk p && bulkLen p == 96) →
        s.kpr.unlocks c (padTo 96 sig) = ok →
        (ok = false → exec (.debugResponse q (some sig)) s = .next (s.failUnlock.finish e.idx SECURITY_DENIED (debugResult s.failUnlock))) ∧
        (∀ t, ok = true → c.level = 1 → t = (s.updKpr (fun k => { k with challenge := none, fails := 0, dbg := .openUser })).raiseGlb 1 →
          exec (.debugResponse q (some sig)) s = .next (t.finish e.idx OK (debugResult t))) ∧
        (ok = true → c.level ≠ 1 →
          exec (.debugResponse q (some sig)) s = .next
            ((s.updKpr (fun k => { k with challenge := none, fails := 0, erase := some { vendor := true, cmd := some e.idx } })).waitsFor e .erase none))) ∧
      (∀ k, s.kpr.slots.getD 0 none = some k →
        (rd e.pkt 32 1 = 0 → CmdReady s q 0x6C e →
          PktGood e [(16, 16), (32, 1), (48, 16)] (fun p => pktIndex p == 0 && rd p 32 1 == 0 && bulkOk p && 512 ≤ bulkLen p) →
          exec (.attestDevice q true) s = .next
            (((attestReport s k e.pkt 0 [] []).2.hostWrite (bulkAddr e.pkt) (attestReport s k e.pkt 0 [] []).1).finish e.idx OK (leBytes 4 368))) ∧
        (∀ bs rec, rd e.pkt 32 1 = 1 → CmdReady s q 0x6C e →
          PktGood e [(16, 16), (32, 1), (33, 1), (36, 4), (40, 4), (44, 4), (48, 16)] (fun p => pktIndex p == 0 && rd p 32 1 == 1 && bulkOk p && 512 ≤ bulkLen p &&
            rd p 33 1 ≤ 31 && 1 ≤ rd p 44 4 && rd p 44 4 ≤ 65536) →
          descBytes s (rd e.pkt 33 1) (rd e.pkt 36 4) (rd e.pkt 40 4) (rd e.pkt 44 4) = some bs → s.selfRefresh = false →
          rec = leBytes 1 (rd e.pkt 33 1) ++ zeros 3 ++ (e.pkt.drop 36).take 12 →
          exec (.attestRecord q true) s = .next
            (((attestReport s k e.pkt 1 rec (Config.sha384 bs)).2.hostWrite (bulkAddr e.pkt) (attestReport s k e.pkt 1 rec (Config.sha384 bs)).1).finish e.idx OK
              (leBytes 4 368))))) ∧
    (CmdReady s q 0x6B e → alarmPolicyOk e.pkt = true →
      (∀ t, s.kpr.locked = false → t = s.updKpr (fun k =>
          { k with policyLo := BitVec.ofNat 32 (rd e.pkt 16 4), policyHi := BitVec.ofNat 32 (rd e.pkt 20 4), unlockLimit := rd e.pkt 24 1, locked := true }) →
        exec (.alarmPolicy q) s = .next (t.finish e.idx OK t.kpr.policyResult)) ∧
      (s.kpr.locked = true → exec (.alarmPolicy q) s = .next (s.finish e.idx LOCKED s.kpr.policyResult))) ∧
    (CmdReady s q 0x6B e → alarmPolicyOk e.pkt = false → exec (.alarmPolicy q) s = .next (s.finish e.idx PARAM_RANGE s.kpr.policyResult)) ∧
    (s.kpr.alarm ≠ .clear →
      (∀ tbl, rd e.pkt 17 1 = 0 → CmdReady s q 0x68 e →
        PktGood e [(16, 1), (17, 1), (48, 16)] (fun p => pktIndex p == 0 && rd p 16 1 ≤ 2 && rd p 17 1 == 0 && bulkOk p && 64 ≤ bulkLen p && bulkLen p ≤ 1024) →
        exec (.keyProvisionWrite q tbl) s = .next (s.finish e.idx SECURITY_DENIED [])) ∧
      (rd e.pkt 17 1 = 1 → CmdReady s q 0x68 e →
        PktGood e [(16, 1), (17, 1), (48, 16)] (fun p => pktIndex p == 0 && rd p 16 1 ≤ 2 && rd p 17 1 == 1 && bulkOk p && bulkLen p == 0) →
        exec (.keyProvisionErase q) s = .next (s.finish e.idx SECURITY_DENIED [])) ∧
      (∀ nonce, CmdReady s q 0x69 e → PktGood e [(16, 1)] (fun p => pktIndex p == 0 && (rd p 16 1 == 1 || rd p 16 1 == 2)) →
        exec (.debugChallenge q nonce) s = .next (s.finish e.idx SECURITY_DENIED [])) ∧
      (∀ tbl, CmdReady s q 0x6A e → PktGood e [(48, 16)] (fun p => pktIndex p == 0 && bulkOk p && bulkLen p == 96) →
        exec (.debugResponse q tbl) s = .next (s.finish e.idx SECURITY_DENIED []))) ∧
    exec .lidSenseHigh s = .next ((s.updKpr (fun k => { k with lid := true, srcNow := k.srcNow ||| 64 })).raiseAlarm 6 0) ∧
    (∀ slot, exec (.keystoreError slot) s = .next ((s.setSlot slot none).raiseAlarm 7 0)) ∧
    exec .challengeExpiry s = .next (s.updKpr (fun k => { k with challenge := none })) ∧
    (∀ v c src, s.kpr.erase = some { vendor := v, cmd := c, src := some src } →
      exec .zeroiseEraseDone s = .next
        ((((s.updKpr (fun k => { k with slots := [none, none, none], alarm := .zeroised, dbg := .closed, erase := none })).alarmEvent src 2 0).raiseGlb 1).eraseReply
          { cmd := c })) ∧
    (∀ v c t, s.kpr.erase = some { vendor := v, cmd := c, src := none } →
      t = (if v = true ∧ s.kpr.alarm = .clear ∧ (s.pwr.st = .active ∨ s.pwr.st = .idle) then
            (s.updKpr (fun k => { k with slots := [none, none, none], erase := none, dbg := .openVendor })).raiseGlb 1
          else s.updKpr (fun k => { k with slots := [none, none, none], erase := none })) →
      exec .vendorUnlockEraseDone s = .next (t.eraseReply { cmd := c })) ∧
    exec (.tapAccess .trst) s = .next (s.updKpr (fun k => { k with tap := .idcode, tapPins := false, tapHalt := false })) ∧
    (∀ i, tapReach s.kpr.dbg i = true →
      exec (.tapAccess (.update i)) s = .next (s.updKpr (fun k => { k with tap := i, tapPins := tapTakesPins i, tapHalt := i == .halt || i == .step }))) ∧
    (∀ i, tapReach s.kpr.dbg i = false →
      exec (.tapAccess (.update i)) s = .next (s.updKpr (fun k => { k with tap := .bypass, tapPins := false, tapHalt := false })))

/-! ### The error log, registers and PCI Express -/

/-- A detection (R472): the first of the five rules that fits writes the log, ERR_CNT counts the detection by its class, each write or update sets GLB_IRQ_STAT.ERR, and a FATAL one leaves a
FATAL entry and signals Uncorrectable Internal Error (R374). Nothing but the log, GLB_IRQ_STAT, its vector and the AER status changes. -/
def Obligations.DetectionsFollowTheFiveRules : Prop :=
  ∀ (s : State) (cls blk code inst detail : Nat) (kpr : Option Nat) (l : ErrLog) (t : State),
    s.err = l → t = s.logK cls blk code inst detail kpr → l.entries.length = 64 → l.cnt.length = 4 → cls < 4 → (∀ src, kpr = some src → src < 8) →
    (∀ e, some e ∈ l.entries → e.cls < 4) →
    (t.err.cnt = l.cnt.set cls (min 0xFFFFFFFF (nth l.cnt cls + 1))) ∧
    (∀ i e, findEntry l.entries blk code inst = some i → l.entries[i]? = some (some e) →
      ∃ e', t.err.entries = l.entries.set i (some e') ∧ e'.repeats = min 0xFFFFFFFF (e.repeats + 1) ∧ e'.firstTb = e.firstTb ∧ e'.detail = e.detail ∧
        e'.cls = max e.cls cls ∧ (e'.escalated = true ↔ e.escalated = true ∨ e.cls < cls) ∧ e'.logSeq = e.logSeq ∧
        t.err.seq = l.seq ∧ t.err.overflow = l.overflow) ∧
    (findEntry l.entries blk code inst = none →
      (∀ src, kpr = some src → t.err.entries = l.entries.set (56 + src)
          (some { newEntry (l.seq + 1) cls blk code inst detail s.tb.count with keeper := true }) ∧ t.err.seq = l.seq + 1 ∧ t.err.overflow = l.overflow) ∧
      (∀ i, kpr = none → i < 56 → l.entries[i]? = some none → (∀ j, j < i → l.entries[j]? ≠ some none) →
        t.err.entries = l.entries.set i (some (newEntry (l.seq + 1) cls blk code inst detail s.tb.count)) ∧ t.err.seq = l.seq + 1 ∧ t.err.overflow = l.overflow) ∧
      (kpr = none → (∀ i, i < 56 → l.entries[i]? ≠ some none) →
        t.err.overflow = min 65535 (l.overflow + 1) ∧
        (cls ≠ 3 → t.err.entries = l.entries ∧ t.err.seq = l.seq) ∧
        (cls = 3 → (∀ i e, i < 56 → l.entries[i]? = some (some e) → e.cls = 3) → t.err.entries = l.entries ∧ t.err.seq = l.seq) ∧
        (∀ i e, cls = 3 → i < 56 → l.entries[i]? = some (some e) → e.cls ≤ 2 →
          (∀ j f, j < 56 → j ≠ i → l.entries[j]? = some (some f) → e.cls < f.cls ∨ e.cls = f.cls ∧ e.logSeq < f.logSeq) →
          t.err.entries = l.entries.set i (some { newEntry (l.seq + 1) cls blk code inst detail s.tb.count with preempted := true }) ∧ t.err.seq = l.seq + 1))) ∧
    (t.err.entries ≠ l.entries → bit t.pcie.irqStat 0 = true) ∧
    (cls = 3 → kpr = none → t.err.fatal = true ∧ bit t.pcie.cfg.aerStatus 22 = true) ∧
    t.cfg = s.cfg ∧ t.units = s.units ∧ t.cp = s.cp ∧ t.kpr = s.kpr ∧ t.rsv = s.rsv ∧ t.spr = s.spr ∧ t.hostWrites = s.hostWrites

/-- A raise never lowers the alarm state (R464): a source at NOTICE leaves it, one at LOCKDOWN or ZEROISE makes it at least LOCKDOWN, and ZEROISED stays; the
source's COUNT rises and its record holds the level and both times; LOCKDOWN and ZEROISE close debug; GLB_IRQ_STAT.KEEPER sets. -/
def Obligations.AlarmNeverFalls : Prop :=
  ∀ (s : State) (src d : Nat) (r : SrcRec) (t : State), nth s.kpr.src src = r → src < s.kpr.src.length → t = s.raiseAlarm src d →
    s.kpr.alarm.code ≤ t.kpr.alarm.code ∧ (s.kpr.level src = 0 → t.kpr.alarm = s.kpr.alarm) ∧
    (s.kpr.level src ≠ 0 → t.kpr.alarm = (if s.kpr.alarm = .zeroised then .zeroised else .lockdown)) ∧
    nth t.kpr.src src = { count := min 0xFFFFFFFF (r.count + 1), level := s.kpr.level src, firstTb := if r.count = 0 then s.tb.count else r.firstTb, lastTb := s.tb.count } ∧
    (∀ k, k ≠ src → nth t.kpr.src k = nth s.kpr.src k) ∧ bit t.kpr.srcSeen src = true ∧
    (s.kpr.level src ≠ 0 → t.kpr.dbg = .closed) ∧ (s.kpr.level src = 0 → t.kpr.dbg = s.kpr.dbg) ∧ bit t.pcie.irqStat 1 = true ∧
    t.kpr.slots = s.kpr.slots ∧ t.cfg = s.cfg ∧ t.units = s.units ∧ t.rsv = s.rsv

/-- ERROR_READ answers the log's counts and, with a buffer, writes entries and reports them; ERROR_ACK frees the used entries of its mask, in ascending order,
and answers their number; a host read of an entry's word 2 reports it, wakes the link and carries an ECRC where their generation is on (R329, R364, R375, R474,
R477). -/
def Obligations.ErrorCommandsComplete : Prop :=
  ∀ (s : State),
    (∀ q e first count res, rd e.pkt 16 1 = first → rd e.pkt 17 1 = count → CmdReady s q 0x70 e →
      PktGood e [(16, 1), (17, 1), (48, 16)]
        (fun p => pktIndex p == 0 && 1 ≤ rd p 17 1 && rd p 16 1 + rd p 17 1 ≤ 64 && bulkOk p && (bulkLen p == 0 || 32 * rd p 17 1 ≤ bulkLen p)) →
      res = leBytes 1 s.err.used ++ leBytes 1 (b2n s.err.fatal) ++ leBytes 2 s.err.overflow →
      (bulkLen e.pkt = 0 → ∀ w, exec (.errorRead q w) s = .next (s.finish e.idx OK res)) ∧
      (∀ bs, bulkLen e.pkt ≠ 0 → s.busOk = true → bs = (List.range count).flatMap (fun i => s.err.entryBytes (first + i)) → bs ≠ [] →
        exec (.errorRead q true) s = .next
          (((s.hostWrite (bulkAddr e.pkt) bs).reportEntries (fun i => first ≤ i && i < first + count)).finish e.idx OK res) ∧
        exec (.errorRead q false) s = .next ((s.logCp7 e).finish e.idx PARAM_RANGE []))) ∧
    (∀ q e is, CmdReady s q 0x71 e → PktGood e [(16, 8)] (fun p => pktIndex p == 0) →
      is = allBelow 64 (fun i => bit (rd e.pkt 16 8) i && (s.err.entries.getD i none).isSome) →
      exec (.errorAck q) s = .next ((is.foldl State.ackEntry s).finish e.idx OK (leBytes 1 is.length))) ∧
    (∀ i, exec (.errEntryRepeatRead i) s = .next
      { s.reportEntries (fun k => k == i) with
        lastRead := { data := leBytes 4 (s.errReg (0x800 + 32 * i + 8)), ecrc := s.pcie.cfg.ecrcGen }, pcie := s.pcie.wake })

/-- Host accesses: a BAR0 write with a byte enable clear is counted and discarded (R367), one to an unassigned or a read-only address changes nothing (R6,
R366), a whole one sets the base registers of a closed queue (R297) and the fields of configuration space; masks of interrupts and their pending vectors (R348,
R373), IMG_BELL (R452), and BAR2 (R368 to R371, R374): writes are dropped and counted, reads past Pond answer 0, reads of Reservoir and Pond answer their bytes,
one that meets IDLE or self-refresh is aborted, and in a relock 64 reads are held and those that follow wait at the port (R369); PME_Turn_Off takes a function
in D3hot to L2/L3 Ready (R365); a masked vector pends (R373). -/
def Obligations.HostAccessesComplete : Prop :=
  ∀ (s : State),
    (∀ a v be, be ≠ (15 : BitVec 4) → exec (.registerWrite (.bar0 a) v be) s = .next (s.tlp.updPcie (fun p => { p with bar0BadWr := min 65535 (p.bar0BadWr + 1) }))) ∧
    (∀ a v, a % 4 = 0 → 0x1000 ≤ a → a < 0x8000 ∨ 0x18000 ≤ a → exec (.registerWrite (.bar0 a) v 15) s = .next s.tlp) ∧
    (∀ q v, q < 8 → s.domOn 45 = true → (nth s.cp.queues q).st = .disabled ∨ (nth s.cp.queues q).st = .suspended →
      exec (.registerWrite (.bar0 (0x8000 + 0x80 * q)) v 15) s = .next (s.tlp.updQ q (fun x => { x with sqBase := putWord x.sqBase 0 (BitVec.ofNat 32 v.toNat).toNat 12 }))) ∧
    (∀ v, exec (.registerWrite (.bar0 0xC) v 15) s = .next (s.tlp.updPcie (fun p => { p with irqStat := p.irqStat - (p.irqStat &&& (BitVec.ofNat 32 v.toNat).toNat) }))) ∧
    (∀ v be, exec (.registerWrite (.cfg .busMaster) v be) s = .next (s.tlp.updPcie (fun p => { p with cfg := { p.cfg with busMaster := bit v.toNat 0 } }))) ∧
    (∀ v be, exec (.registerWrite .turnOff v be) s = .next
      (if s.pcie.up = true ∧ s.pcie.cfg.d3hot = true then s.tlp.updPcie (fun p => { p with link := .l23 }) else s.tlp)) ∧
    (∀ c v, s.domOn 45 = true → c < 32 → (List.range 4).any (raised (nth s.dma.ch c).irqMask v.toNat (nth s.dma.ch c).irqStat) = false →
      exec (.irqMaskWrite c v) s = .next (s.tlp.updDma c (fun x => { x with irqMask := fld v.toNat 3 0 }))) ∧
    (∀ c v, s.domOn 45 = true → c < 32 → (List.range 4).any (raised (nth s.dma.ch c).irqMask v.toNat (nth s.dma.ch c).irqStat) = true →
      exec (.irqMaskWrite c v) s = .next ((s.tlp.updDma c (fun x => { x with irqMask := fld v.toNat 3 0 })).signal (12 + c))) ∧
    (∀ v, exec (.glbIrqMaskWrite v) s = .next ((allBelow 4 (fun b => !bit s.pcie.irqMask b && bit v.toNat b && bit s.pcie.irqStat b)).foldl
      (fun x b => x.signal (44 + b)) (s.tlp.updPcie (fun p => { p with irqMask := fld v.toNat 3 0 })))) ∧
    (∀ v, exec (.msixUnmask v) s = .next (s.tlp.updPcie (fun p => { p with msix := upd p.msix v (fun e => { e with masked := false }) })).flushMsix) ∧
    (∀ v, s.pcie.pba = 2 ^ v → v < 64 → s.pcie.msix.length = 64 → s.pcie.cfg.msixEnable = true → s.pcie.cfg.funcMask = false → s.busOk = true →
      exec (.msixUnmask v) s = .next
        { s with pcie := { s.pcie.wake with msix := upd s.pcie.msix v (fun e => { e with masked := false }), pba := 0 },
                 msixSent := s.msixSent ++ [{ vector := v, ecrc := s.pcie.cfg.ecrcGen }] }) ∧
    (∀ v, s.pcie.cfg.funcMask = true ∨ (nth s.pcie.msix v).masked = true → (s.signal v).pcie.pba = s.pcie.pba ||| 2 ^ v) ∧
    (∀ v, exec (.imgBell v) s = .next (s.tlp.imgBell v.toNat)) ∧
    (∀ off, exec (.bar2Write off) s = .next
      ((s.tlp.updPcie (fun p => { p with bar2WrDrop := min 65535 (p.bar2WrDrop + 1) })).aerUnc 20 true)) ∧
    (∀ off len ecc, 0 < len → off < 2 ^ 37 → off % 4096 + len ≤ 4096 →
      (s.spr.fallback = false → 103146323968 ≤ off →
        exec (.bar2Read off len ecc) s = .next { s.tlp with lastRead := { data := zeros len, ecrc := s.pcie.cfg.ecrcGen } }) ∧
      (s.spr.fallback = false → 103079215104 ≤ off → off < 103146323968 → s.pwr.st ≠ .standby → s.domOn 36 = true →
        exec (.bar2Read off len ecc) s = .next
          { s.tlp with freeCtr := s.freeCtr + len,
                       lastRead := { data := (List.range len).map (fun i => s.pondByte (s.freeCtr + i) (off - 103079215104 + i)),
                                     ecrc := s.pcie.cfg.ecrcGen } }) ∧
      (s.spr.fallback = true → s.pcie.held.length < 64 → exec (.bar2Read off len ecc) s = .next
        ({ s.tlp with lastRead := { held := true } }.updPcie (fun p => { p with held := p.held ++ [({ off := off, len := len, ecc := ecc } : Bar2Req)] }))) ∧
      (s.spr.fallback = true → 64 ≤ s.pcie.held.length → exec (.bar2Read off len ecc) s = .next
        ({ s.tlp with lastRead := { held := true } }.updPcie (fun p => { p with flow := p.flow ++ [({ off := off, len := len, ecc := ecc } : Bar2Req)] }))) ∧
      (s.spr.fallback = false → off < 103079215104 → s.pwr.st ≠ .idle → s.pwr.st ≠ .standby → s.selfRefresh = false →
        ecc.lost.filter (fun b => decide (off < 64 * b + 64 ∧ 64 * b < off + len)) = [] → ∀ s1, s1 = s.tlp.eccApply ecc →
        exec (.bar2Read off len ecc) s = .next
          { s1 with freeCtr := s1.freeCtr + len + len,
                    lastRead := { data := (List.range len).map (fun i => s1.rsvByte (s1.freeCtr + i) (off + i)),
                                  poisoned := (blocksOf off len).map (fun _ => false), ecrc := s1.pcie.cfg.ecrcGen } }) ∧
      (s.spr.fallback = false → off < 103079215104 → s.pwr.st = .idle ∨ s.pwr.st = .standby ∨ s.selfRefresh = true →
        exec (.bar2Read off len ecc) s = .next (s.tlp.bar2Abort off)) ∧
      (s.spr.fallback = false → 103079215104 ≤ off → off < 103146323968 → s.pwr.st = .standby → exec (.bar2Read off len ecc) s = .next (s.tlp.bar2Abort off)))

/-- The link and the function: errors of received TLPs set their AER bits, a replay rollover retrains the link, and a non-posted request the function does not
support is answered with UR (R374, R382); an FLR and a hot reset suspend the queues and post RECOVERY (R294, R376, R377); D3hot holds requests, with a PM_PME
message or WAKE# for the events held, and D0 lets them go on (R365); a lane fault sends the link into Recovery, logged DEGRADED PCIE 1, later ones FATAL PCIE 2,
and loses it where no width is left (R379, R381, R382); training ends in L0 or L1, counted as retraining where it changes the rate, and passes Recovery a free
number of times besides, the model's free value (R359, R376, R382, notes/assumptions/115.md); a completion timeout ends what waited for it (R272, R286, R349,
R363). -/
def Obligations.LinkEventsComplete : Prop :=
  ∀ (s : State),
    (s.pcie.up = true →
      (∀ i lane, lane < 4 → i ≠ 4 → exec (.receivedTlpError (.correctable i lane)) s = .next ((s.tlp.laneSecond lane).aerCor (corBit i) lane)) ∧
      (∀ lane s1, lane < 4 → s1 = (s.tlp.laneSecond lane).aerCor 8 lane → exec (.receivedTlpError (.correctable 4 lane)) s = .next
        (s1.updPcie (fun p => if p.link = LinkSt.recovery then p else { p with link := .recovery, retrainCnt := min 65535 (p.retrainCnt + 1) }))) ∧
      exec (.receivedTlpError .poisonedWrite) s = .next (s.tlp.aerUnc 12) ∧ exec (.receivedTlpError .poisonedCpl) s = .next (s.tlp.aerUnc 12) ∧
      exec (.receivedTlpError (.unsupported true)) s = .next (s.tlp.aerUnc 20) ∧
      exec (.receivedTlpError (.unsupported false)) s = .next
        { s.tlp.aerUnc 20 with lastRead := { unsupported := true, ecrc := (s.tlp.aerUnc 20).pcie.cfg.ecrcGen } } ∧ exec (.receivedTlpError .unexpectedCpl) s = .next (s.tlp.aerUnc 16) ∧
      (s.pcie.cfg.ecrcChk = true → exec (.receivedTlpError .ecrc) s = .next (s.tlp.aerUnc 19)) ∧
      (∀ k, exec (.receivedTlpError (.protocol k)) s = .next (s.tlp.aerUnc (protoBit k)))) ∧
    exec .flr s = .next s.tlp.flr ∧ exec .hotReset s = .next (s.flr.updPcie (fun p => { p with link := .down })) ∧
    (∀ q, (nth s.flr.cp.queues q).st = (if (nth s.cp.queues q).st = .disabled then .disabled else .suspended)) ∧
    (∀ held, held = (!(nth s.cp.eqs 0).held.isEmpty || s.stby.any (fun x => x.1 == 0)) →
      ∀ s1, s1 = s.tlp.updPcie (fun p => { p with cfg := { p.cfg with d3hot := true } }) →
      (s.pcie.cfg.pmeEn = false ∨ held = false → exec .d3hotEnter s = .next s1) ∧
      (s.pcie.cfg.pmeEn = true → held = true → s.pcie.up = true → exec .d3hotEnter s = .next
        { s1 with pcie := { s1.pcie with cfg := { s1.pcie.cfg with pmeStatus := true } },
                  msgSent := s.msgSent ++ [{ kind := .pmPme, ecrc := s.pcie.cfg.ecrcGen }] }) ∧
      (s.pcie.cfg.pmeEn = true → held = true → s.pcie.link = .l23 → exec .d3hotEnter s = .next
        (s1.updPcie (fun p => { p with cfg := { p.cfg with pmeStatus := true }, wakeN := true })))) ∧
    (exec .d0Return s = .next ((s.tlp.updPcie (fun p => { p with cfg := { p.cfg with d3hot := false } })).flushMsix.dmaPump)) ∧
    (∀ lane cause faults s1 s2, lane < 4 → bit s.pcie.laneFault lane = false → s.pcie.up = true ∨ s.pcie.link = .recovery →
      cause ≠ 0 ∨ s.laneWorn lane = true → faults = s.pcie.laneFault + 2 ^ lane →
      s1 = s.updPcie (fun p => { p with laneFault := faults, link := .recovery,
                                        retrainCnt := if p.link = LinkSt.recovery then p.retrainCnt else min 65535 (p.retrainCnt + 1) }) →
      s2 = (if s.pcie.laneFault = 0 then s1.log DEGRADED bPCIE 1 lane cause else s1.log FATAL bPCIE 2 lane cause) →
      ((laneWidth faults).isSome = true → exec (.laneFault lane cause) s = .next s2) ∧
      (laneWidth faults = none → exec (.laneFault lane cause) s = .next (s2.flr.updPcie (fun p => { p with link := .down })))) ∧
    (∀ gen width flit w r, laneWidth s.pcie.laneFault = some (w, r) → width ≤ w → s.pcie.up = false → 1 ≤ gen → gen ≤ 6 → s.domOn 44 = true →
      s.pwr.resetN = true → s.pwr.perstN = true →
      exec (.pcieLinkUp gen width flit) s = .next
        (({ s with freeCtr := s.freeCtr + 1 }.updPcie (fun p => { p with
          link := s.linkUp,
          retrainCnt := min 65535 (p.retrainCnt + (if p.link = LinkSt.recovery then 0 else b2n (1 < gen) + Config.freeNat s.freeCtr)),
          gen := gen, width := width, flit := flit || gen == 6, reversed := r,
          speedChgCnt := if p.gen = 0 ∨ p.gen = gen ∧ p.width = width then p.speedChgCnt else min 65535 (p.speedChgCnt + 1) })).flushMsix.dmaPump)) ∧
    (∀ c d, s.pcie.cfg.cplTimeout ≠ 0 → s.outstanding (.dma c d) = true → exec (.completionTimeout (.dma c d)) s = .next ((s.aerUnc 14).dmaResponse c d .hostError)) ∧
    (∀ q, s.pcie.cfg.cplTimeout ≠ 0 → s.outstanding (.fetch q) = true → exec (.completionTimeout (.fetch q)) s = .next ((s.aerUnc 14).fetchError q)) ∧
    (∀ q, s.pcie.cfg.cplTimeout ≠ 0 → s.outstanding (.table q) = true → exec (.completionTimeout (.table q)) s = .next ((s.aerUnc 14).endCommand q PARAM_RANGE true))

/-! ### The DMA engine -/

/-- DMA_CTL and the credit register: ENABLE starts an IDLE channel from PROG_BASE with everything at 0 (R331), ENABLE 0 stops a running one, which is IDLE once
no response is due (R351); PAUSE holds it and its end lets it go on (R352); a STOPPING channel ends IDLE, or starts again (R331); CREDIT_ADD adds to CREDIT,
saturating (R340); a response reaches the channel, or, of a request made before the channel stopped, is dropped (R336, R347, R349, R350). With PD45 off writes
are discarded (R431). -/
def Obligations.DmaControlCompletes : Prop :=
  (∀ (s : State) (c : Nat) (v : Word), s.domOn 45 = false →
    exec (.dmaEnable c v) s = .next s.tlp ∧ exec (.dmaDisable c v) s = .next s.tlp ∧ exec (.dmaPause c v) s = .next s.tlp ∧
    exec (.dmaUnpause c v) s = .next s.tlp ∧ exec (.creditAdd c v) s = .next s.tlp) ∧
  ∀ (s : State) (c : Nat) (v : Word) (x : DmaCh), nth s.dma.ch c = x → c < 32 → c < s.dma.ch.length → s.domOn 45 = true →
    (x.st = .idle → bit v.toNat 1 = false → exec (.dmaEnable c v) s = .next (s.tlp.updDma c (fun x =>
      { x with prio := fld v.toNat 3 2, pause := false, progSpace := fld v.toNat 4 4 }.start)).dmaPump) ∧
    (x.st = .running ∨ x.st = .waiting → ∀ y, y = { x with prio := fld v.toNat 3 2, pause := bit v.toNat 1 } →
      exec (.dmaDisable c v) s = .next (s.tlp.updDma c (fun _ => y.stop)).dmaPump ∧
      (bit v.toNat 0 = true → exec (.dmaPause c v) s = .next (s.tlp.updDma c (fun x => { x with prio := fld v.toNat 3 2, pause := true })).dmaPump)) ∧
    (x.st = .paused → bit v.toNat 0 = true →
      exec (.dmaUnpause c v) s = .next (s.tlp.updDma c (fun x =>
        { x with prio := fld v.toNat 3 2, pause := false, st := if x.wasWaiting then .waiting else .running })).dmaPump) ∧
    (x.st = .stopping → x.rst = true →
      (x.held = false → exec (.dmaStoppingEnd c) s = .next (s.updDma c (fun _ => {})).dmaPump) ∧
      (x.held = true → exec (.dmaStoppingEnd c) s = .next (s.updDma c (fun _ => DmaCh.start {})).dmaPump)) ∧
    (x.st = .stopping → x.rst = false →
      (x.held = false → exec (.dmaStoppingEnd c) s = .next (s.updDma c (fun x => { x with st := .idle, drain := [] })).dmaPump) ∧
      (x.held = true → exec (.dmaStoppingEnd c) s = .next (s.updDma c (fun x => { x with st := .idle, drain := [] }.start)).dmaPump)) ∧
    exec (.creditAdd c v) s = .next (s.tlp.updDma c (fun x => { x with credit := min 65535 (x.credit + fld v.toNat 15 0) })) ∧
    (∀ r st, (∀ d ∈ x.drain, d.1 ≠ r) → exec (.dmaBurstResponse c r st) s = .next ((match r with
      | .fetch i => s.fetchResponse c i st
      | .load => s.loadResponse c st
      | .flush => s.flushResponse c st
      | .move k => s.moveResponse c k st
      | .write k => s.writeResponse c k st).dmaPump)) ∧
    (∀ r st host front rest, x.drain = front ++ (r, host) :: rest → (∀ d ∈ front, d.1 ≠ r) →
      exec (.dmaBurstResponse c r st) s = .next (s.updDma c (fun x => { x with drain := front ++ rest })).dmaPump)

/-- The instructions of a channel program complete: MOVE queues its transfer, with its registers advanced, or halts with RANGE (R333, R335 to R338); WAITs go on
where their condition holds and otherwise wait (R340); SIGNALs count and interrupt, RELEASE releases segments (R184, R341, R342); LOADs set G[RD] (R343); FENCE
waits for the MOVEs, FLUSH for a read as well (R344); END finishes the program (R331, R345); an invalid instruction halts the channel with BAD_INSTR (R334). -/
def Obligations.DmaInstructionsComplete : Prop :=
  ∀ (s : State) (c : Nat) (x : DmaCh) (i : DmaIns),
    (DmaReady s c x i → i.op = 1 → ∀ sr dr len g1 g2 s1, sr = fld i.b 2 0 → dr = fld i.b 5 3 →
      len = (if bit i.c 0 then x.g64 (fld i.c 3 1) % 2 ^ 32 else i.d) →
      g1 = (if bit i.a 4 then x.g.set sr (x.g.getD sr 0 + BitVec.ofNat 64 len) else x.g) →
      g2 = (if bit i.a 5 then g1.set dr (g1.getD dr 0 + BitVec.ofNat 64 len) else g1) →
      s1 = s.updDma c (fun y => { y with g := g2 }) →
      (len = 0 → exec (.dmaMove c) s = .next (s1.dmaGo c (x.pc + 1)).dmaPump) ∧
      (len ≠ 0 → (spaceOf (fld i.a 1 0)).badAt false (x.g64 sr) len = none → (spaceOf (fld i.a 3 2)).badAt true (x.g64 dr) len = none →
        exec (.dmaMove c) s = .next ((s1.updDma c (fun y => { y with moves := y.moves ++
          [{ index := x.pc, srcSp := spaceOf (fld i.a 1 0), dstSp := spaceOf (fld i.a 3 2), src := x.g64 sr, dst := x.g64 dr, len := len,
             desc := spaceOf (fld i.a 1 0) == .rsv && spaceOf (fld i.a 3 2) == .rsv && x.g64 sr < x.g64 dr && x.g64 dr < x.g64 sr + len }] })).dmaGo c (x.pc + 1)).dmaPump) ∧
      (∀ a, len ≠ 0 → (spaceOf (fld i.a 1 0)).badAt false (x.g64 sr) len = some a →
        exec (.dmaMove c) s = .next (s1.dmaHalt c 3 0 x.pc a).dmaPump) ∧
      (∀ a, len ≠ 0 → (spaceOf (fld i.a 1 0)).badAt false (x.g64 sr) len = none → (spaceOf (fld i.a 3 2)).badAt true (x.g64 dr) len = some a →
        exec (.dmaMove c) s = .next (s1.dmaHalt c 3 1 x.pc a).dmaPump)) ∧
    (DmaReady s c x i → i.op = 3 → i.a = 0 → x.moves ≠ [] → exec (.dmaWaitSeg c) s = .next (s.dmaHold c 0).dmaPump) ∧
    (DmaReady s c x i → i.op = 4 → x.moves ≠ [] →
      (i.a = 0 → exec (.dmaSignalHalf c) s = .next (s.dmaHold c 3).dmaPump) ∧ (i.a = 1 → exec (.dmaSignalFull c) s = .next (s.dmaHold c 3).dmaPump) ∧
      (i.a = 2 → exec (.dmaSignalRelease c) s = .next (s.dmaHold c 3).dmaPump)) ∧
    (DmaReady s c x i → i.op = 3 → i.a = 0 → x.moves = [] → ∀ met, met = s.segMet i.c (x.g64 (fld i.b 2 0) % 2 ^ 32) (x.g64 (fld i.b 5 3) % 2 ^ 32) →
      (met = some true → exec (.dmaWaitSeg c) s = .next (s.dmaGo c (x.pc + 1)).dmaPump ∧
        (x.st = .waiting → exec (.dmaWaitResume c) s = .next (s.dmaGo c (x.pc + 1)).dmaPump)) ∧
      (met = some false → i.d = 0xFFFFFFFF → exec (.dmaWaitSeg c) s = .next (s.dmaHalt c 9 0 x.pc 0).dmaPump) ∧
      (met = some false → i.d ≠ 0xFFFFFFFF → exec (.dmaWaitSeg c) s = .next (s.dmaGo c i.d).dmaPump) ∧
      (met = none → exec (.dmaWaitSeg c) s = .next (s.dmaHold c 0).dmaPump)) ∧
    (DmaReady s c x i → i.op = 3 → i.a = 1 →
      (1 ≤ x.credit → exec (.dmaWaitCredit c) s = .next ((s.updDma c (fun x => { x with credit := x.credit - 1 })).dmaGo c (x.pc + 1)).dmaPump ∧
        (x.st = .waiting → exec (.dmaWaitResume c) s = .next ((s.updDma c (fun x => { x with credit := x.credit - 1 })).dmaGo c (x.pc + 1)).dmaPump)) ∧
      (x.credit = 0 → exec (.dmaWaitCredit c) s = .next (s.dmaHold c 1).dmaPump)) ∧
    (DmaReady s c x i → i.op = 3 → i.a = 2 →
      (x.g64 (fld i.b 2 0) ≤ s.tb.count.toNat → exec (.dmaWaitTb c) s = .next (s.dmaGo c (x.pc + 1)).dmaPump ∧
        (x.st = .waiting → exec (.dmaWaitResume c) s = .next (s.dmaGo c (x.pc + 1)).dmaPump)) ∧
      (s.tb.count.toNat < x.g64 (fld i.b 2 0) → exec (.dmaWaitTb c) s = .next (s.dmaHold c 2).dmaPump)) ∧
    (DmaReady s c x i → i.op = 4 → x.moves = [] →
      (i.a = 0 → exec (.dmaSignalHalf c) s = .next
        ((((s.updDma c (fun x => { x with halfCnt := min 65535 (x.halfCnt + 1) })).dmaIrq c 0).dmaGo c (x.pc + 1)).dmaPump)) ∧
      (i.a = 1 → exec (.dmaSignalFull c) s = .next
        ((((s.updDma c (fun x => { x with fullCnt := min 65535 (x.fullCnt + 1) })).dmaIrq c 1).dmaGo c (x.pc + 1)).dmaPump)) ∧
      (∀ r, i.a = 2 → x.movedOk = true → r = s.tryRelease i.c (x.g64 (fld i.b 2 0) % 2 ^ 32) (x.g64 (fld i.b 5 3) % 2 ^ 32) i.d →
        (∀ t n, r = some (t, n) → exec (.dmaSignalRelease c) s = .next
          (((t.updDma c (fun x => { x with relCnt := min 0xFFFFFFFF (x.relCnt + n), movedOk := false })).dmaGo c (x.pc + 1)).dmaPump)) ∧
        (r = none → exec (.dmaSignalRelease c) s = .next (s.dmaHalt c 10 0 x.pc 0).dmaPump)) ∧
      (i.a = 2 → x.movedOk = false → exec (.dmaSignalRelease c) s = .next (s.dmaHalt c 11 0 x.pc 0).dmaPump)) ∧
    (DmaReady s c x i → i.op = 5 →
      (i.a = 0 → exec (.dmaLoadImm c) s = .next
        (((s.updDma c (fun y => { y with g := x.g.set (fld i.b 2 0) (BitVec.ofNat 64 i.e) })).dmaGo c (x.pc + 1)).dmaPump)) ∧
      (i.a = 1 → exec (.dmaLoadAdd c) s = .next
        (((s.updDma c (fun y => { y with g := x.g.set (fld i.b 2 0) (x.g.getD (fld i.b 2 0) 0 + BitVec.ofNat 64 i.e) })).dmaGo c (x.pc + 1)).dmaPump)) ∧
      (i.a = 3 → i.e ≤ 63 → exec (.dmaLoadShl c) s = .next
        (((s.updDma c (fun y => { y with g := x.g.set (fld i.b 2 0) (x.g.getD (fld i.b 2 0) 0 <<< i.e) })).dmaGo c (x.pc + 1)).dmaPump)) ∧
      (i.a = 3 → 63 < i.e → exec (.dmaBadInstr c) s = .next (s.dmaHalt c 1 0 x.pc (x.insAddr x.pc)).dmaPump) ∧
      (∀ a, i.a = 2 → a = (x.g64 (fld i.b 5 3) + i.e) % 2 ^ 64 →
        (a % 8 = 0 → (spaceOf i.c).badAt false a 8 = none →
          exec (.dmaLoadMem c) s = .next (s.updDma c (fun x => { x with load := some (fld i.b 2 0, spaceOf i.c, a), loadSent := false, st := .running })).dmaPump) ∧
        (∀ b, a % 8 = 0 → (spaceOf i.c).badAt false a 8 = some b → exec (.dmaLoadMem c) s = .next (s.dmaHalt c 3 0 x.pc b).dmaPump) ∧
        (a % 8 ≠ 0 → exec (.dmaLoadMem c) s = .next (s.dmaHalt c 3 0 x.pc a).dmaPump))) ∧
    (DmaReady s c x i → i.op = 6 →
      (x.moves ≠ [] → exec (.dmaFence c) s = .next (s.dmaHold c 3).dmaPump) ∧
      (x.moves = [] → i.a = 0 ∨ x.lastHostWr = none →
        exec (.dmaFence c) s = .next ((s.updDma c (fun x => { x with pre := [], fetches := x.fetches.map (fun f => (f.1, false)) })).dmaGo c (x.pc + 1)).dmaPump) ∧
      (x.moves = [] → i.a = 1 → x.lastHostWr.isSome = true →
        exec (.dmaFence c) s = .next ((s.updDma c (fun x => { x with pre := [], fetches := x.fetches.map (fun f => (f.1, false)), flush := true })).dmaHold c 3).dmaPump)) ∧
    (DmaReady s c x i → i.op = 7 →
      (x.moves ≠ [] → exec (.dmaEnd c) s = .next (s.dmaHold c 3).dmaPump) ∧
      (x.moves = [] → exec (.dmaEnd c) s = .next
        ((s.dmaIrq c 2).updDma c (fun x => { x with st := .done, enable := false, drain := x.outstanding, fetches := [], pre := [] })).dmaPump)) ∧
    (nth s.dma.ch c = x → s.dmaIns c = some i → i.ok = false →
      exec (.dmaBadInstr c) s = .next (s.dmaHalt c 1 0 x.pc (x.insAddr x.pc)).dmaPump)

/-! ### Rules stated word for word -/

/-- COMMIT with DISCARD empties the unit's staging set, leaves its pending generations, the active set and every other unit unchanged, and completes with OK at once (R29). -/
def Obligations.CommitDiscardEmptiesTheStagingSet : Prop :=
  ∀ (s : State) (q : Nat) (e : JEntry) (u : Nat) (t : State), pktIndex e.pkt = u → PktGood e [(16, 1)] (fun p => pktIndex p ≤ 35 && rd p 16 1 ≤ 1) →
    CmdReady s q 0x09 e → rd e.pkt 16 1 = 1 → u < s.units.length → t = s.updUnit u (fun x => { x with staged := [], discarded := false }) →
    exec (.commitDiscard q) s = .next (t.finish e.idx OK (zeros 3 ++ leBytes 1 u)) ∧
      (nth t.units u).staged = [] ∧ (nth t.units u).pend = (nth s.units u).pend ∧ t.cfg = s.cfg ∧ (∀ v, v ≠ u → nth t.units v = nth s.units v)

/-- COMMIT with APPLY on a unit that holds two pending generations completes with NO_RESOURCE and changes nothing else: the staging set is kept (R31). -/
def Obligations.ThirdGenerationIsRefused : Prop :=
  ∀ (s : State) (q : Nat) (e : JEntry) (u : Nat), pktIndex e.pkt = u → PktGood e [(16, 1)] (fun p => pktIndex p ≤ 35 && rd p 16 1 == 0) →
    CmdReady s q 0x09 e → s.gangSplit (fun k => k = u) = false → s.stagedMoveArmed u = false → 2 ≤ (nth s.units u).pend.length →
    exec (.commitApply q) s = .next (s.finish e.idx NO_RESOURCE []) ∧ (s.finish e.idx NO_RESOURCE []).units = s.units

/-- LOOP (R339): COUNT 0 branches for ever; a counter that another LOOP owns is BAD_INSTR; otherwise the counter, loaded with COUNT where it was free, counts
down, and the branch is taken while it is above 0; at 0 it is free again and the program falls through. -/
def Obligations.LoopRunsItsBody : Prop :=
  ∀ (s : State) (c : Nat) (x : DmaCh) (i : DmaIns) (l : LoopCtr) (left : Nat), DmaReady s c x i → i.op = 2 → nth x.lc i.a = l →
    left = (if l.active then l.left else i.e) - 1 →
    (i.e = 0 → exec (.dmaLoop c) s = .next (s.dmaGo c i.d).dmaPump) ∧
    (i.e ≠ 0 → l.active = true → l.owner ≠ x.pc → exec (.dmaLoop c) s = .next (s.dmaHalt c 1 0 x.pc (x.insAddr x.pc)).dmaPump) ∧
    (i.e ≠ 0 → (l.active = true → l.owner = x.pc) → 0 < left →
      exec (.dmaLoop c) s = .next ((s.updDma c (fun y => { y with lc := x.lc.set i.a { active := true, left := left, owner := x.pc } })).dmaGo c i.d).dmaPump) ∧
    (i.e ≠ 0 → (l.active = true → l.owner = x.pc) → left = 0 →
      exec (.dmaLoop c) s = .next ((s.updDma c (fun y => { y with lc := x.lc.set i.a {} })).dmaGo c (x.pc + 1)).dmaPump)
end

