-- ==== Sys2Proof/Laws/Memory.lean ====
section
/-! SUPPORT. Sparse maps in canonical form: every write keeps the form, and a read after a write sees it. The memories of Reservoir
and Pond and the active set are such maps. -/

namespace Sys2Proof.Machine

section Sparse

variable {α : Type} [DecidableEq α] (d : Nat → α)

/-- A map whose keys all lie above `b`, in canonical form. -/
def swfFrom (b : Nat) : List (Nat × α) → Prop
  | [] => True
  | (k, v) :: r => b ≤ k ∧ v ≠ d k ∧ swfFrom (k + 1) r

theorem swf_iff_swfFrom (m : List (Nat × α)) : swf d m = true ↔ swfFrom d 0 m := by
  suffices h : ∀ (m : List (Nat × α)) b, (swf d m = true ∧ ∀ p ∈ m.head?, b ≤ p.1) ↔ swfFrom d b m by
    have := h m 0
    simp at this
    exact this
  intro m
  induction m with
  | nil => intro b; simp [swf, swfFrom]
  | cons p r ih =>
    intro b
    obtain ⟨k, v⟩ := p
    cases r with
    | nil => simp [swf, swfFrom, and_comm]
    | cons p' r' =>
      obtain ⟨j, w⟩ := p'
      have := ih (k + 1)
      simp only [List.head?_cons, Option.mem_def, Option.some.injEq, forall_eq'] at this
      simp only [swf, swfFrom, Bool.and_eq_true, decide_eq_true_eq, List.head?_cons, Option.mem_def, Option.some.injEq,
        forall_eq'] at this ⊢
      constructor
      · rintro ⟨⟨⟨hv, hk⟩, hr⟩, hb⟩
        exact ⟨hb, hv, this.1 ⟨hr, hk⟩⟩
      · rintro ⟨hb, hv, hr⟩
        have ⟨h1, h2⟩ := this.2 hr
        exact ⟨⟨⟨hv, h2⟩, h1⟩, hb⟩

theorem swfFrom_mono {b c : Nat} (h : c ≤ b) {m : List (Nat × α)} (hm : swfFrom d b m) : swfFrom d c m := by
  cases m with
  | nil => trivial
  | cons p r => exact ⟨Nat.le_trans h hm.1, hm.2⟩

theorem swfFrom_sput {b : Nat} {m : List (Nat × α)} (hm : swfFrom d b m) {k : Nat} (hk : b ≤ k) (v : α) :
    swfFrom d b (sput d m k v) := by
  induction m generalizing b with
  | nil =>
    unfold sput
    split
    · trivial
    · rename_i h; exact ⟨hk, h, trivial⟩
  | cons p r ih =>
    obtain ⟨j, w⟩ := p
    obtain ⟨hj, hw, hr⟩ := hm
    unfold sput
    split
    · rename_i h; exact ⟨hj, hw, ih hr h⟩
    · split
      · rename_i h; subst h
        split
        · exact swfFrom_mono d (by omega) hr
        · rename_i hv; exact ⟨hj, hv, hr⟩
      · split
        · exact ⟨hj, hw, hr⟩
        · rename_i h1 h2 hv; exact ⟨hk, hv, by omega, hw, hr⟩

/-- A write keeps the canonical form. -/
theorem swf_sput {m : List (Nat × α)} (hm : swf d m = true) (k : Nat) (v : α) : swf d (sput d m k v) = true := by
  rw [swf_iff_swfFrom] at hm ⊢
  exact swfFrom_sput d hm (Nat.zero_le k) v

theorem swfFrom_filter {b : Nat} {m : List (Nat × α)} (hm : swfFrom d b m) (p : Nat × α → Bool) : swfFrom d b (m.filter p) := by
  induction m generalizing b with
  | nil => trivial
  | cons q r ih =>
    obtain ⟨hj, hw, hr⟩ := hm
    rw [List.filter_cons]
    split
    · exact ⟨hj, hw, ih hr⟩
    · exact swfFrom_mono d (by omega) (ih hr)

theorem swf_filter {m : List (Nat × α)} (hm : swf d m = true) (p : Nat × α → Bool) : swf d (m.filter p) = true := by
  rw [swf_iff_swfFrom] at hm ⊢
  exact swfFrom_filter d hm p

/-- A key below the whole map reads as its default. -/
theorem sget_below {b : Nat} {m : List (Nat × α)} (hm : swfFrom d b m) {k : Nat} (hk : k < b) : sget d m k = d k := by
  induction m generalizing b with
  | nil => rfl
  | cons p r ih =>
    obtain ⟨hj, _, hr⟩ := hm
    unfold sget
    rw [if_neg (by omega)]
    exact ih hr (by omega)

/-- A read of the key just written gives the value written. -/
theorem sget_sput_same {b : Nat} {m : List (Nat × α)} (hm : swfFrom d b m) (k : Nat) (v : α) : sget d (sput d m k v) k = v := by
  induction m generalizing b with
  | nil => unfold sput; split <;> simp_all [sget]
  | cons p r ih =>
    obtain ⟨j, w⟩ := p
    obtain ⟨hj, hw, hr⟩ := hm
    unfold sput
    split
    · rename_i h
      unfold sget
      rw [if_neg (by omega)]
      exact ih hr
    · split
      · rename_i h; subst h
        split
        · rename_i hv
          rw [sget_below d hr (by omega), hv]
        · simp [sget]
      · split
        · rename_i h1 h2 hv
          unfold sget
          rw [if_neg (by omega), sget_below d hr (by omega), hv]
        · simp [sget]

/-- A read of any other key is unchanged by a write. -/
theorem sget_sput_other (m : List (Nat × α)) {k a : Nat} (v : α) (h : a ≠ k) : sget d (sput d m k v) a = sget d m a := by
  induction m with
  | nil => unfold sput; split <;> simp [sget, h.symm]
  | cons p r ih =>
    obtain ⟨j, w⟩ := p
    unfold sput
    split
    · simp only [sget, ih]
    · split
      · rename_i h1; subst h1
        split <;> simp [sget, h.symm]
      · split <;> simp [sget, h.symm]

end Sparse

theorem Mem.set_wf {m : Mem} (h : Memory.wf m = true) (a : Nat) (b : Byte) : Memory.wf (Mem.set m a b) = true := swf_sput _ h a b

theorem Mem.write_wf {m : Mem} (h : Memory.wf m = true) (a : Nat) (bs : List Byte) : Memory.wf (Mem.write m a bs) = true := by
  induction bs generalizing m a with
  | nil => exact h
  | cons b r ih => exact ih (Mem.set_wf h a b) (a + 1)

theorem Mem.zero_wf {m : Mem} (h : Memory.wf m = true) (a n : Nat) : Memory.wf (Mem.zero m a n) = true := swf_filter _ h _

/-- A byte just written reads back. -/
theorem Mem.get_set_same {m : Mem} (h : Memory.wf m = true) (a : Nat) (b : Byte) : Mem.get (Mem.set m a b) a = b :=
  sget_sput_same _ ((swf_iff_swfFrom _ _).1 h) a b

/-- A write of one byte leaves every other byte alone. -/
theorem Mem.get_set_other (m : Mem) {a x : Nat} (b : Byte) (h : x ≠ a) : Mem.get (Mem.set m a b) x = Mem.get m x :=
  sget_sput_other _ m b h

/-- A write of n bytes from a leaves every byte outside a to a + n − 1 alone. -/
theorem Mem.get_write_other (m : Mem) {a x : Nat} (bs : List Byte) (h : x < a ∨ a + bs.length ≤ x) :
    Mem.get (Mem.write m a bs) x = Mem.get m x := by
  induction bs generalizing m a with
  | nil => rfl
  | cons b r ih =>
    simp only [List.length_cons] at h
    show Mem.get (Mem.write (Mem.set m a b) (a + 1) r) x = _
    rw [ih _ (by omega), Mem.get_set_other m b (by omega)]

/-- The bytes written read back, each at its place. -/
theorem Mem.get_write_same {m : Mem} (h : Memory.wf m = true) (a : Nat) (bs : List Byte) {i : Nat} (hi : i < bs.length) :
    Mem.get (Mem.write m a bs) (a + i) = bs[i] := by
  induction bs generalizing m a i with
  | nil => cases hi
  | cons b r ih =>
    show Mem.get (Mem.write (Mem.set m a b) (a + 1) r) (a + i) = _
    cases i with
    | zero => rw [Mem.get_write_other _ _ (by omega)]; exact Mem.get_set_same h a b
    | succ i =>
      have := ih (Mem.set_wf h a b) (a + 1) (i := i) (by simpa using hi)
      rw [show a + (i + 1) = a + 1 + i by omega, this]
      rfl

end Sys2Proof.Machine
end

