-- ==== Sys2Proof/Laws/Keeps.lean ====
section
/-! SUPPORT. One relation says what no operation of the model breaks: the queue of commands stays as it is, the memories and the
active set keep their canonical form, units hold at most two pending generations, and event queues stay within their bounds. Each
operation has its lemma, in the form "if s' is reached from s so, then so is the operation's result". -/

namespace Sys2Proof.Machine

/-- What every operation of the model leaves true of a state `t` it makes from `s`. -/
structure Keeps (s t : State) : Prop where
  pending : t.pending = s.pending
  rsvMem : Memory.wf s.rsv.mem = true → Memory.wf t.rsv.mem = true
  pondMem : Memory.wf s.pond.mem = true → Memory.wf t.pond.mem = true
  cfg : s.cfgOk → t.cfgOk
  pend : s.pendOk → t.pendOk
  held : (∀ e ∈ s.cp.eqs, e.held.length ≤ 256) → ∀ e ∈ t.cp.eqs, e.held.length ≤ 256
  stby : s.stby.length ≤ 16 → t.stby.length ≤ 16

/-- The state an answer of a command holds is kept. -/
inductive CmdOut.Keeps (s0 : State) : CmdOut → Prop where
  | done {s : State} {st : Nat} {r : List Byte} (h : Machine.Keeps s0 s) : CmdOut.Keeps s0 (.done s st r)
  | wait {s : State} {w : Wait} {r : Option (List Byte)} (h : Machine.Keeps s0 s) : CmdOut.Keeps s0 (.wait s w r)
  | hold : CmdOut.Keeps s0 .hold

/-- A meaning answers a next state, and that state is kept. -/
inductive ResKeeps (s0 : State) : Res → Prop where
  | next {t : State} (h : Machine.Keeps s0 t) : ResKeeps s0 (.next t)

namespace Keeps

variable {s0 s t : State}

theorem refl (s : State) : Keeps s s := ⟨rfl, id, id, id, id, id, id⟩

theorem trans (h : Keeps s0 s) (h' : Keeps s t) : Keeps s0 t :=
  ⟨h'.pending.trans h.pending, h'.rsvMem ∘ h.rsvMem, h'.pondMem ∘ h.pondMem, h'.cfg ∘ h.cfg, h'.pend ∘ h.pend, h'.held ∘ h.held,
    h'.stby ∘ h.stby⟩

theorem ite {c : Prop} [Decidable c] {a b : State} (ha : c → Keeps s0 a) (hb : ¬c → Keeps s0 b) : Keeps s0 (if c then a else b) := by
  split
  · exact ha ‹_›
  · exact hb ‹_›

/-- Fields that no part of `Keeps` names may change freely. -/
theorem upd (h : Keeps s0 s) {now : Nat} {past : List Past} {cp : Cp} {err : ErrLog} {pwr : Pwr} {pcie : Pcie} {spr : Spring} {tb : Tb} {bcn : Bcn}
    {acq : Acq} {weir : List WeirCh} {trg : Trg} {rsv : Rsv} {pond : Pond} {dma : Dma} {ltn : Ltn} {lamp : Lamp} {buoy : Buoy}
    {kpr : Kpr} {hw : List HostWrite} {ms : List MsixMsg} {mg : List PcieMsg} {lr : ReadCpl} {rl : List ReadCpl} {fc : Nat}
    (hc : cp.eqs = s.cp.eqs) (hr : rsv.mem = s.rsv.mem) (hp : pond.mem = s.pond.mem) :
    Keeps s0 { s with now := now, past := past, cp := cp, err := err, pwr := pwr, pcie := pcie, spr := spr, tb := tb, bcn := bcn, acq := acq,
                      weir := weir, trg := trg, rsv := rsv, pond := pond, dma := dma, ltn := ltn, lamp := lamp, buoy := buoy,
                      kpr := kpr, hostWrites := hw, msixSent := ms, msgSent := mg, lastRead := lr, released := rl, freeCtr := fc } :=
  h.trans ⟨rfl, by simp only [hr]; exact id, by simp only [hp]; exact id, id, id, by simp only [hc]; exact id, id⟩

theorem forEach {α : Type} (h : Keeps s0 s) (xs : List α) (f : State → α → State) (hf : ∀ s a, Keeps s0 s → Keeps s0 (f s a)) :
    Keeps s0 (forEach xs s f) := by
  unfold Machine.forEach
  induction xs generalizing s with
  | nil => exact h
  | cons a r ih => exact ih (hf s a h)

theorem foldl {α : Type} (h : Keeps s0 s) (xs : List α) (f : State → α → State) (hf : ∀ s a, Keeps s0 s → Keeps s0 (f s a)) :
    Keeps s0 (xs.foldl f s) := forEach h xs f hf

theorem updCp (h : Keeps s0 s) (f : Cp → Cp) (hf : (f s.cp).eqs = s.cp.eqs) : Keeps s0 (s.updCp f) := h.upd hf rfl rfl
theorem updQ (h : Keeps s0 s) (q : Nat) (f : Queue → Queue) : Keeps s0 (s.updQ q f) := h.upd rfl rfl rfl
theorem updPwr (h : Keeps s0 s) (f : Pwr → Pwr) : Keeps s0 (s.updPwr f) := h.upd rfl rfl rfl
theorem updDom (h : Keeps s0 s) (d : Nat) (f : Dom → Dom) : Keeps s0 (s.updDom d f) := h.upd rfl rfl rfl
theorem updPcie (h : Keeps s0 s) (f : Pcie → Pcie) : Keeps s0 (s.updPcie f) := h.upd rfl rfl rfl
theorem updSpr (h : Keeps s0 s) (f : Spring → Spring) : Keeps s0 (s.updSpr f) := h.upd rfl rfl rfl
theorem updTb (h : Keeps s0 s) (f : Tb → Tb) : Keeps s0 (s.updTb f) := h.upd rfl rfl rfl
theorem updBcn (h : Keeps s0 s) (f : Bcn → Bcn) : Keeps s0 (s.updBcn f) := h.upd rfl rfl rfl
theorem updPort (h : Keeps s0 s) (p : Nat) (f : BcnPort → BcnPort) : Keeps s0 (s.updPort p f) := h.upd rfl rfl rfl
theorem updQuad (h : Keeps s0 s) (q : Nat) (f : Quad → Quad) : Keeps s0 (s.updQuad q f) := h.upd rfl rfl rfl
theorem updAcqCh (h : Keeps s0 s) (n : Nat) (f : AcqCh → AcqCh) : Keeps s0 (s.updAcqCh n f) := h.upd rfl rfl rfl
theorem updCal (h : Keeps s0 s) (n : Nat) (f : CalCh → CalCh) : Keeps s0 (s.updCal n f) := h.upd rfl rfl rfl
theorem updWeir (h : Keeps s0 s) (n : Nat) (f : WeirCh → WeirCh) : Keeps s0 (s.updWeir n f) := h.upd rfl rfl rfl
theorem updTrg (h : Keeps s0 s) (g : Nat) (f : TrgGrp → TrgGrp) : Keeps s0 (s.updTrg g f) := h.upd rfl rfl rfl
theorem updOut (h : Keeps s0 s) (i : Nat) (f : TrigOut → TrigOut) : Keeps s0 (s.updOut i f) := h.upd rfl rfl rfl
theorem updRsv (h : Keeps s0 s) (f : Rsv → Rsv) (hf : (f s.rsv).mem = s.rsv.mem) : Keeps s0 (s.updRsv f) := h.upd rfl hf rfl
theorem updRec (h : Keeps s0 s) (g : Nat) (f : RsvGrp → RsvGrp) : Keeps s0 (s.updRec g f) := h.upd rfl rfl rfl
theorem updRun (h : Keeps s0 s) (g : Nat) (f : Run → Run) : Keeps s0 (s.updRun g f) := h.upd rfl rfl rfl
theorem updPondCh (h : Keeps s0 s) (n : Nat) (f : PondCh → PondCh) : Keeps s0 (s.updPondCh n f) := h.upd rfl rfl rfl
theorem updSnd (h : Keeps s0 s) (g : Nat) (f : SndGrp → SndGrp) : Keeps s0 (s.updSnd g f) := h.upd rfl rfl rfl
theorem updDma (h : Keeps s0 s) (c : Nat) (f : DmaCh → DmaCh) : Keeps s0 (s.updDma c f) := h.upd rfl rfl rfl
theorem updLtn (h : Keeps s0 s) (f : Ltn → Ltn) : Keeps s0 (s.updLtn f) := h.upd rfl rfl rfl
theorem updDp (h : Keeps s0 s) (k : Nat) (f : Dp → Dp) : Keeps s0 (s.updDp k f) := h.upd rfl rfl rfl
theorem updLamp (h : Keeps s0 s) (f : Lamp → Lamp) : Keeps s0 (s.updLamp f) := h.upd rfl rfl rfl
theorem updBuoy (h : Keeps s0 s) (f : Buoy → Buoy) : Keeps s0 (s.updBuoy f) := h.upd rfl rfl rfl
theorem updKpr (h : Keeps s0 s) (f : Kpr → Kpr) : Keeps s0 (s.updKpr f) := h.upd rfl rfl rfl

/-- A unit changes and its pending generations stay within R22. -/
theorem updUnit (h : Keeps s0 s) (u : Nat) (f : CUnit → CUnit)
    (hf : ∀ x, s.units[u]? = some x → x.pend.length ≤ 2 → (f x).pend.length ≤ 2) : Keeps s0 (s.updUnit u f) := by
  refine h.trans ⟨rfl, id, id, id, ?_, id, id⟩
  intro hp x hx
  simp only [State.updUnit, Machine.upd] at hx
  obtain ⟨i, hi, rfl⟩ := List.getElem_of_mem hx
  rw [List.getElem_modify]
  split
  · rename_i he; subst he
    exact hf _ (List.getElem?_eq_getElem _) (hp _ (List.getElem_mem _))
  · exact hp _ (List.getElem_mem _)

/-- An event queue changes and holds no more than R280 allows. -/
theorem updEq (h : Keeps s0 s) (e : Nat) (f : EventQueue → EventQueue)
    (hf : ∀ x, s.cp.eqs[e]? = some x → x.held.length ≤ 256 → (f x).held.length ≤ 256) : Keeps s0 (s.updEq e f) := by
  refine h.trans ⟨rfl, id, id, id, id, ?_, id⟩
  intro hp x hx
  simp only [State.updEq, Machine.upd] at hx
  obtain ⟨i, hi, rfl⟩ := List.getElem_of_mem hx
  rw [List.getElem_modify]
  split
  · rename_i he; subst he
    exact hf _ (List.getElem?_eq_getElem _) (hp _ (List.getElem_mem _))
  · exact hp _ (List.getElem_mem _)

theorem setReg (h : Keeps s0 s) (a : Nat) (v : Word) : Keeps s0 (s.setReg a v) :=
  h.trans ⟨rfl, id, id, fun hc => swf_sput _ hc a v, id, id, id⟩

theorem rsvWrite (h : Keeps s0 s) (a : Nat) (bs : List Byte) : Keeps s0 (s.rsvWrite a bs) :=
  h.trans ⟨rfl, fun hm => Mem.write_wf hm a bs, id, id, id, id, id⟩

theorem pondWrite (h : Keeps s0 s) (a : Nat) (bs : List Byte) : Keeps s0 (s.pondWrite a bs) :=
  h.trans ⟨rfl, id, fun hm => Mem.write_wf hm a bs, id, id, id, id⟩

theorem putZeros (h : Keeps s0 s) (a n : Nat) : Keeps s0 (s.putZeros a n) :=
  h.trans ⟨rfl, fun hm => Mem.zero_wf hm a n, id, id, id, id, id⟩

theorem mapJrn (c : Cp) (f : List JEntry → List JEntry) : (c.mapJrn f).eqs = c.eqs := rfl

theorem updJ (h : Keeps s0 s) (i : Nat) (f : JEntry → JEntry) : Keeps s0 (s.updJ i f) := h.upd rfl rfl rfl

/-- Fields change, and the event queues hold no more than R280 allows. -/
theorem updHeld (h : Keeps s0 s) (f : Cp → Cp)
    (hf : (∀ e ∈ s.cp.eqs, e.held.length ≤ 256) → ∀ e ∈ (f s.cp).eqs, e.held.length ≤ 256) : Keeps s0 (s.updCp f) :=
  h.trans ⟨rfl, id, id, id, id, hf, id⟩

/-- What is run as at an earlier instant keeps what it keeps now: only the configuration of that instant is seen. -/
theorem under (h : Keeps s0 s) (t : Nat) (f : State → State) (hf : ∀ z s, Keeps z s → Keeps z (f s)) : Keeps s0 (s.under t f) := by
  have hk := hf _ _ (refl (s.asOf t))
  refine h.trans ?_
  unfold State.under State.asOf at *
  split at hk
  · exact ⟨hk.pending, hk.rsvMem, hk.pondMem, id, hk.pend, hk.held, hk.stby⟩
  · exact ⟨hk.pending, hk.rsvMem, hk.pondMem, id, hk.pend, hk.held, hk.stby⟩

/-- The state of a pair that a `let` has taken apart. -/
theorem of_fst {β : Type} {p : State × β} {b : β} (hp : p = (s, b)) (h : Keeps s0 p.1) : Keeps s0 s := by
  subst hp
  exact h

theorem of_snd {β : Type} {p : β × State} {b : β} (hp : p = (b, s)) (h : Keeps s0 p.2) : Keeps s0 s := by
  subst hp
  exact h

/-- A fold that carries a value beside the state. -/
theorem foldlFst {α β : Type} {p : State × β} (h : Keeps s0 p.1) (xs : List α) (f : State × β → α → State × β)
    (hf : ∀ p a, Keeps s0 p.1 → Keeps s0 (f p a).1) : Keeps s0 (xs.foldl f p).1 := by
  induction xs generalizing p with
  | nil => exact h
  | cons a r ih => exact ih (hf p a h)

end Keeps

/-! ### Answers -/

theorem CmdOut.Keeps.ite {s0 : State} {c : Prop} [Decidable c] {a b : CmdOut} (ha : c → CmdOut.Keeps s0 a)
    (hb : ¬c → CmdOut.Keeps s0 b) : CmdOut.Keeps s0 (if c then a else b) := by
  split
  · exact ha ‹_›
  · exact hb ‹_›

theorem ResKeeps.ite {s0 : State} {c : Prop} [Decidable c] {a b : Res} (ha : c → ResKeeps s0 a) (hb : ¬c → ResKeeps s0 b) :
    ResKeeps s0 (if c then a else b) := by
  split
  · exact ha ‹_›
  · exact hb ‹_›

theorem CmdOut.keeps_refuse {z s : State} {st : Nat} (h : Machine.Keeps z s) : CmdOut.Keeps z (refuse s st) := .done h

end Sys2Proof.Machine
end

