-- ==== Sys2Proof/Laws/KeepsOps.lean ====
section
/-! SUPPORT. `Keeps` for the operations and meanings of Machine/Ops.lean. -/

namespace Sys2Proof.Machine

theorem State.draw_keeps {z s : State} (h : Keeps z s) (k : Nat) :
    Keeps z (State.draw s k).2 := by
  unfold State.draw
  repeat' first
    | assumption
    | (fail_if_no_progress (with_reducible apply Keeps.upd <;> try (show _ = _; rfl)))

theorem State.linkIdle_keeps {z s : State} (h : Keeps z s) :
    Keeps z (State.linkIdle s) := by
  unfold State.linkIdle
  repeat' first
    | assumption
    | with_reducible apply State.draw_keeps
    | (fail_if_no_progress (with_reducible apply Keeps.upd <;> try (show _ = _; rfl)))
    | dsimp only
    | split

theorem State.tick_keeps {z s0 : State} (h : Keeps z s0) : Keeps z (State.tick s0) :=
  Keeps.upd (State.linkIdle_keeps h) rfl rfl rfl

theorem State.undefine_keeps {z s : State} (h : Keeps z s) (a : Nat) (n : Nat) :
    Keeps z (State.undefine s a n) := by
  unfold State.undefine
  repeat' first
    | assumption
    | with_reducible exact rfl
    | with_reducible apply Keeps.updRsv

theorem State.putBytes_keeps {z s : State} (h : Keeps z s) (a : Nat) (bs : List Byte) :
    Keeps z (State.putBytes s a bs) := by
  unfold State.putBytes
  repeat' first
    | assumption
    | with_reducible exact rfl
    | with_reducible apply Keeps.rsvWrite
    | with_reducible apply Keeps.updRsv

theorem State.rsvRead_keeps {z s : State} (h : Keeps z s) (a : Nat) (n : Nat) :
    Keeps z (State.rsvRead s a n).2 := by
  unfold State.rsvRead
  repeat' first
    | assumption
    | with_reducible apply State.draw_keeps

theorem State.tlp_keeps {z s : State} (h : Keeps z s) :
    Keeps z (State.tlp s) := by
  unfold State.tlp
  repeat' first
    | assumption
    | (fail_if_no_progress (with_reducible apply Keeps.upd <;> try (show _ = _; rfl)))

theorem State.hostWrite_keeps {z s : State} (h : Keeps z s) (a : Nat) (bs : List Byte) : Keeps z (State.hostWrite s a bs) := by
  unfold State.hostWrite
  split
  · exact h
  · exact Keeps.upd (State.tlp_keeps h) rfl rfl rfl

theorem State.message_keeps {z s : State} (h : Keeps z s) (k : MsgKind) :
    Keeps z (State.message s k) := by
  unfold State.message
  repeat' first
    | assumption
    | with_reducible apply State.tlp_keeps
    | (fail_if_no_progress (with_reducible apply Keeps.upd <;> try (show _ = _; rfl)))
    | dsimp only
    | split

theorem State.pme_keeps {z s : State} (h : Keeps z s) :
    Keeps z (State.pme s) := by
  unfold State.pme
  repeat' first
    | assumption
    | with_reducible apply State.message_keeps
    | (fail_if_no_progress (with_reducible apply Keeps.upd <;> try (show _ = _; rfl)))
    | dsimp only
    | split

theorem State.completes_keeps {z s : State} (h : Keeps z s) (bs : List Byte) :
    Keeps z (State.completes s bs) := by
  unfold State.completes
  repeat' first
    | assumption
    | (fail_if_no_progress (with_reducible apply Keeps.upd <;> try (show _ = _; rfl)))

theorem State.sendMsix_keeps {z s : State} (h : Keeps z s) (v : Nat) :
    Keeps z (State.sendMsix s v) := by
  unfold State.sendMsix
  repeat' first
    | assumption
    | with_reducible apply State.tlp_keeps
    | (fail_if_no_progress (with_reducible apply Keeps.upd <;> try (show _ = _; rfl)))

theorem State.signal_keeps {z s : State} (h : Keeps z s) (v : Nat) : Keeps z (State.signal s v) := by
  unfold State.signal
  split
  · exact h.upd rfl rfl rfl
  · split
    · exact State.sendMsix_keeps h v
    · exact h

theorem State.raiseGlb_keeps {z s : State} (h : Keeps z s) (b : Nat) :
    Keeps z (State.raiseGlb s b) := by
  unfold State.raiseGlb
  repeat' first
    | assumption
    | with_reducible apply State.signal_keeps
    | (fail_if_no_progress (with_reducible apply Keeps.upd <;> try (show _ = _; rfl)))
    | dsimp only
    | split

theorem State.aerAdvisory_keeps {z s : State} (h : Keeps z s) :
    Keeps z (State.aerAdvisory s) := by
  unfold State.aerAdvisory
  repeat' first
    | assumption
    | with_reducible apply Keeps.updPcie

theorem State.corReport_keeps {z s : State} (h : Keeps z s) (b : Nat) :
    Keeps z (State.corReport s b) := by
  unfold State.corReport
  repeat' first
    | assumption
    | with_reducible apply Keeps.updPcie
    | with_reducible apply State.message_keeps
    | dsimp only
    | split

theorem State.uncReport_keeps {z s : State} (h : Keeps z s) (b : Nat) (advisory : Bool) :
    Keeps z (State.uncReport s b advisory) := by
  unfold State.uncReport
  repeat' first
    | assumption
    | with_reducible apply Keeps.updPcie
    | with_reducible apply State.message_keeps
    | with_reducible apply State.aerAdvisory_keeps
    | dsimp only
    | split

theorem State.logK_keeps {z s : State} (h : Keeps z s) (cls : Nat) (blk : Nat) (code : Nat) (inst : Nat) (detail : Nat) (kpr : Option Nat) :
    Keeps z (State.logK s cls blk code inst detail kpr) := by
  unfold State.logK
  have h1 : Keeps z { s with err := s.err.detect cls blk code inst detail s.tb.count kpr } := h.upd rfl rfl rfl
  have h2 : Keeps z (if s.err.takes cls blk code inst kpr then
      State.raiseGlb { s with err := s.err.detect cls blk code inst detail s.tb.count kpr } 0
      else { s with err := s.err.detect cls blk code inst detail s.tb.count kpr }) := by
    split
    · exact State.raiseGlb_keeps h1 0
    · exact h1
  dsimp only
  generalize (if s.err.takes cls blk code inst kpr then
      State.raiseGlb { s with err := s.err.detect cls blk code inst detail s.tb.count kpr } 0
      else { s with err := s.err.detect cls blk code inst detail s.tb.count kpr }) = t at h2 ⊢
  split
  · exact State.uncReport_keeps h2 22 false
  · exact h2

theorem State.log_keeps {z s : State} (h : Keeps z s) (cls : Nat) (blk : Nat) (code : Nat) (inst : Nat) (detail : Nat) :
    Keeps z (State.log s cls blk code inst detail) := by
  unfold State.log
  repeat' first
    | assumption
    | with_reducible apply State.logK_keeps

theorem State.wake_keeps {z s : State} (h : Keeps z s) :
    Keeps z (State.wake s) := by
  unfold State.wake
  repeat' first
    | assumption
    | with_reducible apply Keeps.updPwr
    | dsimp only
    | split

theorem State.askWake_keeps {z s : State} (h : Keeps z s) (door : Bool) : Keeps z (State.askWake s door) := by
  unfold State.askWake
  have h1 : Keeps z (if door then s.updPwr (fun p => { p with wakePend := true }) else s) := by
    split
    · exact h.updPwr _
    · exact h
  dsimp only
  generalize (if door then s.updPwr (fun p => { p with wakePend := true }) else s) = t at h1 ⊢
  split
  · exact State.wake_keeps (h1.updPwr _)
  · repeat' split
    all_goals first | exact h1.updPwr _ | exact h1

theorem State.eventW_keeps {z s : State} (h : Keeps z s) (wakes : Bool) (type source : Nat) (tag : Option Nat) (tb : BitVec 64)
    (payload : List Byte) : Keeps z (State.eventW s wakes type source tag tb payload) := by
  unfold State.eventW
  have hq : ∀ (e : Nat) (x : EventQueue), s.cp.eqs[e]? = some x → nth s.cp.eqs e = x := by
    intro e x hx
    simp [nth, List.getD, hx]
  have hp : ∀ (t : State) (b : Bool), Keeps z t → Keeps z (if b then t.pme else t) := by
    intro t b ht
    split
    · exact State.pme_keeps ht
    · exact ht
  dsimp only
  split
  · split
    · rename_i hl
      refine hp _ _ (Keeps.updEq h _ _ ?_)
      intro x hx _
      rw [hq _ _ hx] at hl
      simpa using hl
    · exact Keeps.updEq h _ _ (fun x _ hx => hx)
  · have h1 : Keeps z (if s.stby.length < 16 then
        (if eqOf type == 0 then
          ({ s.updEq (eqOf type) (fun x => { x with evtSeq := (x.evtSeq + 1) % 65536, lostFlag := false }) with
              stby := s.stby ++ [(eqOf type, { type := type, source := source, tag := tag, lostBefore := (nth s.cp.eqs (eqOf type)).lostFlag,
                                               seq := (nth s.cp.eqs (eqOf type)).evtSeq, tb := tb, payload := padTo 16 payload })] } : State).pme
        else
          { s.updEq (eqOf type) (fun x => { x with evtSeq := (x.evtSeq + 1) % 65536, lostFlag := false }) with
              stby := s.stby ++ [(eqOf type, { type := type, source := source, tag := tag, lostBefore := (nth s.cp.eqs (eqOf type)).lostFlag,
                                               seq := (nth s.cp.eqs (eqOf type)).evtSeq, tb := tb, payload := padTo 16 payload })] })
        else s.updEq (eqOf type) EventQueue.lose) := by
      split
      · rename_i hl
        have h2 := Keeps.updEq h (eqOf type) (fun x => { x with evtSeq := (x.evtSeq + 1) % 65536, lostFlag := false }) (fun x _ hx => hx)
        exact hp _ _ ⟨h2.pending, h2.rsvMem, h2.pondMem, h2.cfg, h2.pend, h2.held, fun _ => by simp; omega⟩
      · exact Keeps.updEq h _ _ (fun x _ hx => hx)
    split
    · exact State.askWake_keeps h1 _
    · exact h1

theorem State.event_keeps {z s : State} (h : Keeps z s) (type : Nat) (source : Nat) (tag : Option Nat) (tb : BitVec 64) (payload : List Byte) :
    Keeps z (State.event s type source tag tb payload) := by
  unfold State.event
  repeat' first
    | assumption
    | with_reducible apply State.eventW_keeps

theorem State.flushStby_keeps {z s : State} (h : Keeps z s) : Keeps z (State.flushStby s) := by
  unfold State.flushStby
  have h1 : Keeps z (forEach s.stby s fun s (e, ev) => s.updEq e (fun x =>
      if x.held.length < 256 then { x with held := x.held ++ [ev] } else { x with lost := satAdd 0xFFFFFFFF x.lost 1, lostFlag := true })) := by
    apply Keeps.forEach h
    intro s a hs
    apply Keeps.updEq hs
    intro x _ hx
    split
    · simp; omega
    · exact hx
  exact ⟨h1.pending, h1.rsvMem, h1.pondMem, h1.cfg, h1.pend, h1.held, fun _ => by simp⟩

theorem State.lockEvent_keeps {z s : State} (h : Keeps z s) (beacon : Bool) (st : Nat) (tag : Option Nat) :
    Keeps z (State.lockEvent s beacon st tag) := by
  unfold State.lockEvent
  repeat' first
    | assumption
    | with_reducible apply State.event_keeps

theorem State.domainEvent_keeps {z s : State} (h : Keeps z s) (d : Nat) :
    Keeps z (State.domainEvent s d) := by
  unfold State.domainEvent
  repeat' first
    | assumption
    | with_reducible apply State.eventW_keeps

theorem State.alarmEvent_keeps {z s : State} (h : Keeps z s) (src : Nat) (level : Nat) (detail : Nat) :
    Keeps z (State.alarmEvent s src level detail) := by
  unfold State.alarmEvent
  repeat' first
    | assumption
    | with_reducible apply State.event_keeps

theorem State.raiseAlarm_keeps {z s : State} (h : Keeps z s) (src : Nat) (detail : Nat) :
    Keeps z (State.raiseAlarm s src detail) := by
  unfold State.raiseAlarm
  repeat' first
    | assumption
    | with_reducible apply State.raiseGlb_keeps
    | with_reducible apply State.logK_keeps
    | with_reducible apply State.alarmEvent_keeps
    | (fail_if_no_progress (with_reducible apply Keeps.upd <;> try (show _ = _; rfl)))

theorem State.finish_keeps {z s : State} (h : Keeps z s) (idx : Nat) (status : Nat) (result : List Byte) :
    Keeps z (State.finish s idx status result) := by
  unfold State.finish
  repeat' first
    | assumption
    | with_reducible apply Keeps.updJ
    | (fail_if_no_progress (with_reducible apply Keeps.upd <;> try (show _ = _; rfl)))
    | dsimp only
    | split

theorem State.finishWaits_keeps {z s : State} (h : Keeps z s) (p : JEntry → Bool) (status : Nat) (result : JEntry → List Byte) :
    Keeps z (State.finishWaits s p status result) := by
  unfold State.finishWaits
  repeat' first
    | assumption
    | with_reducible apply Keeps.forEach
    | with_reducible apply State.finish_keeps
    | intro _

theorem refuse_keeps {z s : State} (h : Keeps z s) (status : Nat) :
    CmdOut.Keeps z (refuse s status) := by
  unfold refuse
  repeat' first
    | assumption
    | with_reducible apply CmdOut.Keeps.done

theorem State.threadWaits_keeps {z s : State} (h : Keeps z s) (q : Nat) :
    Keeps z (State.threadWaits s q) := by
  unfold State.threadWaits
  repeat' first
    | assumption
    | (fail_if_no_progress (with_reducible apply Keeps.upd <;> try (show _ = _; rfl)))

theorem State.conclude_keeps {z s0 : State} (h0 : Keeps z s0) (e : JEntry) (c : CmdOut) (hc : CmdOut.Keeps z c) :
    Keeps z (State.conclude s0 e c) := by
  unfold State.conclude
  cases hc with
  | done h =>
    dsimp only
    split
    · exact State.threadWaits_keeps h0 _
    · exact State.finish_keeps h _ _ _
  | wait h => exact State.threadWaits_keeps (Keeps.updJ h _ _) _
  | hold => exact State.threadWaits_keeps h0 _

theorem State.allStarted_keeps {z s : State} (h : Keeps z s) :
    Keeps z (State.allStarted s) := by
  unfold State.allStarted
  repeat' first
    | assumption
    | (fail_if_no_progress (with_reducible apply Keeps.upd <;> try (show _ = _; rfl)))

theorem awaitStart_keeps {z s : State} (e : JEntry) (body : State → JEntry → CmdOut) (hb : ∀ e, CmdOut.Keeps z (body s e)) :
    CmdOut.Keeps z (awaitStart s e body) := by
  unfold awaitStart
  apply CmdOut.Keeps.ite <;> intro _
  · exact .hold
  · exact hb e

theorem runCmdSel_keeps {z s : State} (h : Keeps z s) (q op : Nat) (mine : Packet → Bool) (spans : List (Nat × Nat))
    (pre : Packet → Bool) (body : State → JEntry → CmdOut) (hb : ∀ e, CmdOut.Keeps z (body s e)) :
    ResKeeps z (runCmdSel s q op mine spans pre body) := by
  unfold runCmdSel
  split
  · exact ResKeeps.next h
  · apply ResKeeps.ite <;> intro _
    · exact ResKeeps.next h
    · apply ResKeeps.next
      apply State.conclude_keeps h
      apply CmdOut.Keeps.ite <;> intro _
      · exact CmdOut.keeps_refuse h
      · apply CmdOut.Keeps.ite <;> intro _
        · exact CmdOut.keeps_refuse h
        · exact awaitStart_keeps _ _ hb

theorem runCmd_keeps {z s : State} (h : Keeps z s) (q op : Nat) (spans : List (Nat × Nat))
    (pre : Packet → Bool) (body : State → JEntry → CmdOut) (hb : ∀ e, CmdOut.Keeps z (body s e)) :
    ResKeeps z (runCmd s q op spans pre body) := runCmdSel_keeps h q op _ spans pre body hb

theorem State.logCp7_keeps {z s : State} (h : Keeps z s) (e : JEntry) :
    Keeps z (State.logCp7 s e) := by
  unfold State.logCp7
  repeat' first
    | assumption
    | with_reducible apply State.log_keeps

theorem withTable_keeps {z s : State} (h : Keeps z s) (e : JEntry) (tbl : Table) (k : List Byte → CmdOut)
    (hk : ∀ bs, CmdOut.Keeps z (k bs)) : CmdOut.Keeps z (withTable s e tbl k) := by
  unfold withTable
  apply CmdOut.Keeps.ite <;> intro _
  · exact .hold
  · split
    · exact .done (State.logCp7_keeps h _)
    · exact hk _

theorem withReport_keeps {z s : State} (h : Keeps z s) (e : JEntry) (writeOk : Bool) (bs : List Byte) (k : State → CmdOut)
    (hk : ∀ t, Keeps z t → CmdOut.Keeps z (k t)) : CmdOut.Keeps z (withReport s e writeOk bs k) := by
  unfold withReport
  apply CmdOut.Keeps.ite <;> intro _
  · exact hk _ h
  · apply CmdOut.Keeps.ite <;> intro _
    · exact .hold
    · apply CmdOut.Keeps.ite <;> intro _
      · exact .done (State.logCp7_keeps h _)
      · exact hk _ (State.hostWrite_keeps h _ _)

theorem State.slewSettle_keeps {z s : State} (h : Keeps z s) :
    Keeps z (State.slewSettle s) := by
  unfold State.slewSettle
  repeat' first
    | assumption
    | with_reducible apply Keeps.updSpr

end Sys2Proof.Machine
end

