-- ==== Sys2Proof/Laws/KeepsQueues.lean ====
section
/-! SUPPORT. `Keeps` for the operations and meanings of Machine/Queues.lean. -/

namespace Sys2Proof.Machine

theorem State.latch_keeps {z s : State} (h : Keeps z s) (addr : Nat) (v : Word) :
    Keeps z (State.latch s addr v) := by
  unfold State.latch
  repeat' first
    | assumption
    | with_reducible apply Keeps.updPwr

theorem State.refuseTail_keeps {z s : State} (h : Keeps z s) (q : Nat) (v : Word) :
    Keeps z (State.refuseTail s q v) := by
  unfold State.refuseTail
  repeat' first
    | assumption
    | with_reducible apply Keeps.updQ
    | with_reducible apply State.log_keeps

theorem State.doorbell_keeps {z s : State} (h : Keeps z s) (q : Nat) (v : Word) :
    Keeps z (State.doorbell s q v) := by
  unfold State.doorbell
  repeat' first
    | assumption
    | with_reducible apply Keeps.updQ
    | with_reducible apply State.refuseTail_keeps
    | dsimp only
    | split

theorem execSqTailWrite_keeps {z s : State} (h : Keeps z s) (q : Nat) (v : Word) :
    ResKeeps z (execSqTailWrite q v s) := by
  unfold execSqTailWrite
  repeat' first
    | assumption
    | with_reducible apply ResKeeps.next
    | with_reducible apply ResKeeps.ite
    | with_reducible apply State.tlp_keeps
    | with_reducible apply State.askWake_keeps
    | with_reducible apply State.latch_keeps
    | with_reducible apply State.doorbell_keeps
    | intro _

theorem State.accept_keeps {z s : State} (h : Keeps z s) (q : Nat) (p : Packet) :
    Keeps z (State.accept s q p) := by
  unfold State.accept
  repeat' first
    | assumption
    | with_reducible apply Keeps.updCp
    | with_reducible apply Keeps.updQ
    | (show _ = _; rfl)

theorem acceptTurn_keeps {z s : State} (h : Keeps z s) (reads : List (Nat × List Packet)) : Keeps z (acceptTurn s reads).1 := by
  unfold acceptTurn
  suffices H : ∀ (qs : List Nat) (p : State × List (Nat × List Packet)), Keeps z p.1 → Keeps z (qs.foldl (fun (s, rs) q =>
      match rs.find? (fun r => r.1 == q) with
      | some (_, p :: _) =>
        if s.mayAccept q then (s.accept q p, rs.map (fun r => if r.1 == q then (r.1, r.2.drop 1) else r)) else (s, rs)
      | _ => (s, rs)) p).1 from H _ (s, reads) h
  intro qs
  induction qs with
  | nil => exact fun _ hp => hp
  | cons q r ih =>
    intro p hp
    apply ih
    dsimp only
    split
    · split
      · exact State.accept_keeps hp _ _
      · exact hp
    · exact hp

theorem acceptTurns_keeps {z s : State} (h : Keeps z s) (n : Nat) (reads : List (Nat × List Packet)) : Keeps z (acceptTurns n s reads) := by
  induction n generalizing s reads with
  | zero => exact h
  | succ n ih => exact ih (acceptTurn_keeps h reads) _

theorem State.fetchError_keeps {z s : State} (h : Keeps z s) (q : Nat) :
    Keeps z (State.fetchError s q) := by
  unfold State.fetchError
  repeat' first
    | assumption
    | with_reducible apply Keeps.updQ
    | with_reducible apply State.log_keeps
    | dsimp only
    | split

theorem execSqFetch_keeps {z s : State} (h : Keeps z s) (reads : List (Nat × Option (List Packet))) : ResKeeps z (execSqFetch reads s) := by
  unfold execSqFetch
  apply ResKeeps.ite <;> intro _
  · exact ResKeeps.next h
  · have h1 : Keeps z (if reads.isEmpty then s else s.tlp) := by
      split
      · exact h
      · exact State.tlp_keeps h
    exact ResKeeps.next (acceptTurns_keeps (Keeps.forEach h1 _ _ (fun s a hs => State.fetchError_keeps hs _)) _ _)

theorem State.drained_keeps {z s : State} (h : Keeps z s) (q : Nat) :
    Keeps z (State.drained s q) := by
  unfold State.drained
  repeat' first
    | assumption
    | with_reducible apply Keeps.updQ
    | dsimp only
    | split

theorem State.consume_keeps {z s : State} (h : Keeps z s) (q : Nat) (v : Word) :
    Keeps z (State.consume s q v) := by
  unfold State.consume
  repeat' first
    | assumption
    | with_reducible apply Keeps.updCp
    | with_reducible apply Keeps.updQ
    | with_reducible apply State.drained_keeps
    | (show _ = _; rfl)

theorem execCqHeadWrite_keeps {z s : State} (h : Keeps z s) (q : Nat) (v : Word) :
    ResKeeps z (execCqHeadWrite q v s) := by
  unfold execCqHeadWrite
  repeat' first
    | assumption
    | with_reducible apply ResKeeps.next
    | with_reducible apply State.tlp_keeps
    | with_reducible apply State.latch_keeps
    | with_reducible apply State.consume_keeps
    | split

theorem State.qEnable_keeps {z s : State} (h : Keeps z s) (q : Nat) (on : Bool) :
    Keeps z (State.qEnable s q on) := by
  unfold State.qEnable
  repeat' first
    | assumption
    | with_reducible apply Keeps.updQ
    | with_reducible apply State.drained_keeps
    | dsimp only
    | split

theorem State.qResume_keeps {z s : State} (h : Keeps z s) (q : Nat) :
    Keeps z (State.qResume s q) := by
  unfold State.qResume
  repeat' first
    | assumption
    | with_reducible apply Keeps.updQ
    | with_reducible apply State.doorbell_keeps
    | dsimp only
    | split

theorem State.qClearErr_keeps {z s : State} (h : Keeps z s) (q : Nat) :
    Keeps z (State.qClearErr s q) := by
  unfold State.qClearErr
  repeat' first
    | assumption
    | with_reducible apply Keeps.updQ
    | dsimp only
    | split

theorem State.qCtl_keeps {z s : State} (h : Keeps z s) (q : Nat) (v : Nat) :
    Keeps z (State.qCtl s q v) := by
  unfold State.qCtl
  repeat' first
    | assumption
    | with_reducible apply Keeps.updQ
    | with_reducible apply State.qEnable_keeps
    | with_reducible apply State.qResume_keeps
    | with_reducible apply State.qClearErr_keeps
    | dsimp only
    | split

theorem State.qCtlWrite_keeps {z s : State} (h : Keeps z s) (q : Nat) (v : Word) :
    Keeps z (State.qCtlWrite s q v) := by
  unfold State.qCtlWrite
  repeat' first
    | assumption
    | with_reducible apply State.qCtl_keeps
    | split

theorem execQEnable_keeps {z s : State} (h : Keeps z s) (q : Nat) (v : Word) :
    ResKeeps z (execQEnable q v s) := by
  unfold execQEnable
  repeat' first
    | assumption
    | with_reducible apply ResKeeps.next
    | with_reducible apply State.tlp_keeps
    | with_reducible apply State.qCtlWrite_keeps

theorem execQDisable_keeps {z s : State} (h : Keeps z s) (q : Nat) (v : Word) :
    ResKeeps z (execQDisable q v s) := by
  unfold execQDisable
  repeat' first
    | assumption
    | with_reducible apply ResKeeps.next
    | with_reducible apply State.tlp_keeps
    | with_reducible apply State.qCtlWrite_keeps

theorem execQResume_keeps {z s : State} (h : Keeps z s) (q : Nat) (v : Word) :
    ResKeeps z (execQResume q v s) := by
  unfold execQResume
  repeat' first
    | assumption
    | with_reducible apply ResKeeps.next
    | with_reducible apply State.tlp_keeps
    | with_reducible apply State.qCtlWrite_keeps

theorem execClearErr_keeps {z s : State} (h : Keeps z s) (q : Nat) (v : Word) :
    ResKeeps z (execClearErr q v s) := by
  unfold execClearErr
  repeat' first
    | assumption
    | with_reducible apply ResKeeps.next
    | with_reducible apply State.tlp_keeps
    | with_reducible apply State.qCtlWrite_keeps

theorem State.eqDrained_keeps {z s : State} (h : Keeps z s) (e : Nat) :
    Keeps z (State.eqDrained s e) := by
  unfold State.eqDrained
  repeat' first
    | assumption
    | with_reducible apply Keeps.updEq
    | intro _
    | split

theorem State.eqCtl_keeps {z s : State} (h : Keeps z s) (e : Nat) (v : Nat) :
    Keeps z (State.eqCtl s e v) := by
  unfold State.eqCtl
  repeat' first
    | assumption
    | with_reducible apply Keeps.updEq
    | intro _
    | dsimp only
    | split

theorem State.eqCtlWrite_keeps {z s : State} (h : Keeps z s) (e : Nat) (v : Word) :
    Keeps z (State.eqCtlWrite s e v) := by
  unfold State.eqCtlWrite
  repeat' first
    | assumption
    | with_reducible apply State.eqCtl_keeps
    | split

theorem execEqEnable_keeps {z s : State} (h : Keeps z s) (e : Nat) (v : Word) :
    ResKeeps z (execEqEnable e v s) := by
  unfold execEqEnable
  repeat' first
    | assumption
    | with_reducible apply ResKeeps.next
    | with_reducible apply State.tlp_keeps
    | with_reducible apply State.eqCtlWrite_keeps

theorem execEqDisable_keeps {z s : State} (h : Keeps z s) (e : Nat) (v : Word) :
    ResKeeps z (execEqDisable e v s) := by
  unfold execEqDisable
  repeat' first
    | assumption
    | with_reducible apply ResKeeps.next
    | with_reducible apply State.tlp_keeps
    | with_reducible apply State.eqCtlWrite_keeps

theorem execEqResume_keeps {z s : State} (h : Keeps z s) (e : Nat) (v : Word) :
    ResKeeps z (execEqResume e v s) := by
  unfold execEqResume
  repeat' first
    | assumption
    | with_reducible apply ResKeeps.next
    | with_reducible apply State.tlp_keeps
    | with_reducible apply State.eqCtlWrite_keeps

theorem State.eqHead_keeps {z s : State} (h : Keeps z s) (e : Nat) (v : Word) :
    Keeps z (State.eqHead s e v) := by
  unfold State.eqHead
  repeat' first
    | assumption
    | with_reducible apply Keeps.updEq
    | intro _

theorem execEqHeadWrite_keeps {z s : State} (h : Keeps z s) (e : Nat) (v : Word) :
    ResKeeps z (execEqHeadWrite e v s) := by
  unfold execEqHeadWrite
  repeat' first
    | assumption
    | with_reducible apply ResKeeps.next
    | with_reducible apply State.tlp_keeps
    | with_reducible apply State.latch_keeps
    | with_reducible apply State.eqHead_keeps
    | split

theorem State.postCpl_keeps {z s : State} (h : Keeps z s) (q : Nat) (seq : Nat) (status : Nat) (recovered : Bool) (dup : Bool) (result : List Byte) :
    Keeps z (State.postCpl s q seq status recovered dup result) := by
  unfold State.postCpl
  repeat' first
    | assumption
    | with_reducible apply Keeps.updQ
    | with_reducible apply State.hostWrite_keeps
    | with_reducible apply State.signal_keeps
    | dsimp only
    | split

theorem State.cqPost_keeps {z s : State} (h : Keeps z s) (q : Nat) :
    Keeps z (State.cqPost s q) := by
  unfold State.cqPost
  repeat' first
    | assumption
    | with_reducible apply Keeps.updJ
    | with_reducible apply Keeps.updQ
    | with_reducible apply State.drained_keeps
    | with_reducible apply State.postCpl_keeps
    | dsimp only
    | split

theorem execEventPost_keeps {z s : State} (h : Keeps z s) (e : Nat) : ResKeeps z (execEventPost e s) := by
  unfold execEventPost
  dsimp only
  apply ResKeeps.ite <;> intro _
  · exact ResKeeps.next h
  · split
    · exact ResKeeps.next h
    · rename_i ev rest hh
      apply ResKeeps.next
      apply State.eqDrained_keeps
      have h1 : ∀ a, Keeps z ((s.hostWrite a (eventRecord (nth s.cp.eqs e) e ev)).updEq e
          (fun x => { x with held := rest, tail := x.tail + 1 })) := by
        intro a
        apply Keeps.updEq (State.hostWrite_keeps h _ _)
        intro x hx hl
        have he : (s.hostWrite a (eventRecord (nth s.cp.eqs e) e ev)).cp.eqs = s.cp.eqs := by
          unfold State.hostWrite State.tlp; split <;> rfl
        rw [he] at hx
        have hx' : nth s.cp.eqs e = x := by simp [nth, List.getD, hx]
        rw [hx'] at hh
        rw [hh] at hl
        simp at hl
        show rest.length ≤ 256
        omega
      apply Keeps.ite <;> intro _
      · exact State.signal_keeps (h1 _) _
      · exact h1 _

theorem State.applyLatched_keeps {z s : State} (h : Keeps z s) (l : Latched) :
    Keeps z (State.applyLatched s l) := by
  unfold State.applyLatched
  repeat' first
    | assumption
    | with_reducible apply State.doorbell_keeps
    | with_reducible apply State.consume_keeps
    | with_reducible apply State.eqHead_keeps
    | dsimp only
    | split

theorem execLatchedWritesApply_keeps {z s : State} (h : Keeps z s) :
    ResKeeps z (execLatchedWritesApply s) := by
  unfold execLatchedWritesApply
  repeat' first
    | assumption
    | with_reducible apply ResKeeps.next
    | with_reducible apply ResKeeps.ite
    | with_reducible apply Keeps.forEach
    | with_reducible apply Keeps.updPwr
    | with_reducible apply State.applyLatched_keeps
    | intro _

end Sys2Proof.Machine
end

