-- ==== Sys2Proof/Laws/KeepsCommit.lean ====
section
/-! SUPPORT. `Keeps` for the operations and meanings of Machine/Commit.lean. -/

namespace Sys2Proof.Machine

theorem State.stage1_keeps {z s : State} (h : Keeps z s) (a : Nat) (v : Nat) :
    Keeps z (State.stage1 s a v) := by
  unfold State.stage1
  repeat' first
    | assumption
    | with_reducible exact rfl
    | with_reducible apply Keeps.updCp
    | with_reducible apply Keeps.updUnit
    | intro _

theorem stagePairs_keeps {z s : State} (h : Keeps z s) (ps : List (Nat × Nat)) : Keeps z (stagePairs s ps).1 := by
  induction ps generalizing s with
  | nil => exact h
  | cons p r ih => exact ih (State.stage1_keeps h _ _)

theorem stageAll_keeps {z s : State} (h : Keeps z s) (ps : List (Nat × Nat)) (extra : Nat) : CmdOut.Keeps z (stageAll s ps extra) := by
  unfold stageAll
  apply CmdOut.Keeps.ite <;> intro _
  · exact CmdOut.keeps_refuse h
  · have := stagePairs_keeps h ps
    apply CmdOut.Keeps.ite <;> intro _
    · exact CmdOut.keeps_refuse h
    · apply CmdOut.Keeps.ite <;> intro _
      · exact CmdOut.keeps_refuse h
      · exact .done this

theorem execCommitApply_keeps {z s : State} (h : Keeps z s) (q : Nat) : ResKeeps z (execCommitApply q s) := by
  unfold execCommitApply
  apply runCmdSel_keeps h
  intro e
  apply CmdOut.Keeps.ite <;> intro _
  · exact CmdOut.keeps_refuse h
  · apply CmdOut.Keeps.ite <;> intro _
    · exact CmdOut.keeps_refuse h
    · apply CmdOut.Keeps.ite <;> intro hl
      · exact CmdOut.keeps_refuse h
      · apply CmdOut.Keeps.wait
        apply Keeps.updUnit (Keeps.updCp h _ rfl)
        intro x hx _
        have hx' : nth s.units (pktIndex e.pkt) = x := by
          have : s.units[pktIndex e.pkt]? = some x := hx
          simp [nth, List.getD, this]
        rw [hx'] at hl
        simp
        omega

theorem execCommitDiscard_keeps {z s : State} (h : Keeps z s) (q : Nat) :
    ResKeeps z (execCommitDiscard q s) := by
  unfold execCommitDiscard
  repeat' first
    | assumption
    | with_reducible apply CmdOut.Keeps.done
    | with_reducible apply Keeps.updUnit
    | with_reducible apply runCmdSel_keeps
    | intro _

theorem State.genDone_keeps {z s : State} (h : Keeps z s) (u : Nat) (bnd : BitVec 64) (flags : Nat) :
    Keeps z (State.genDone s u bnd flags) := by
  unfold State.genDone
  split
  · exact h
  · rename_i g rest hp
    apply State.finishWaits_keeps
    apply Keeps.updUnit (Keeps.updCp h _ rfl)
    intro x hx hl
    have hx' : nth s.units u = x := by
      have : s.units[u]? = some x := hx
      simp [nth, List.getD, this]
    rw [hx'] at hp
    rw [hp] at hl
    simp at hl
    show rest.length ≤ 2
    omega

theorem State.putRegs_keeps {z s : State} (h : Keeps z s) (regs : List (Nat × Word)) :
    Keeps z (State.putRegs s regs) := by
  unfold State.putRegs
  repeat' first
    | assumption
    | with_reducible apply Keeps.forEach
    | with_reducible apply Keeps.setReg
    | intro _

theorem State.applyGen_keeps {z s : State} (h : Keeps z s) (u : Nat) (bnd : BitVec 64) :
    Keeps z (State.applyGen s u bnd) := by
  unfold State.applyGen
  repeat' first
    | assumption
    | with_reducible apply State.genDone_keeps
    | with_reducible apply State.putRegs_keeps

end Sys2Proof.Machine
end

