-- ==== Sys2Proof/Laws/KeepsWeir.lean ====
section
/-! SUPPORT. `Keeps` for the operations and meanings of Machine/Weir.lean. -/

namespace Sys2Proof.Machine

theorem State.openWindow_keeps {z s : State} (h : Keeps z s) (n : Nat) (w : Nat) :
    Keeps z (State.openWindow s n w) := by
  unfold State.openWindow
  repeat' first
    | assumption
    | with_reducible apply Keeps.updAcqCh
    | with_reducible apply Keeps.updWeir

theorem State.setLive_keeps {z s : State} (h : Keeps z s) (n : Nat) (fresh : Bool) :
    Keeps z (State.setLive s n fresh) := by
  unfold State.setLive
  repeat' first
    | assumption
    | with_reducible apply Keeps.updAcqCh
    | with_reducible apply Keeps.updWeir
    | split

theorem State.remember_keeps {z s : State} (h : Keeps z s) :
    Keeps z (State.remember s) := by
  unfold State.remember
  repeat' first
    | assumption
    | (fail_if_no_progress (with_reducible apply Keeps.upd <;> try (show _ = _; rfl)))
    | split

theorem State.restart_keeps {z s : State} (h : Keeps z s) (n : Nat) (sync : Bool) (stage3 : Bool) :
    Keeps z (State.restart s n sync stage3) := by
  unfold State.restart
  repeat' first
    | assumption
    | with_reducible apply Keeps.updWeir

theorem State.syncReset_keeps {z s : State} (h : Keeps z s) (n : Nat) :
    Keeps z (State.syncReset s n) := by
  unfold State.syncReset
  repeat' first
    | assumption
    | with_reducible apply State.restart_keeps

theorem State.setBank_keeps {z s : State} (h : Keeps z s) (n : Nat) (b : Nat) :
    Keeps z (State.setBank s n b) := by
  unfold State.setBank
  repeat' first
    | assumption
    | with_reducible apply Keeps.setReg

theorem State.standby_keeps {z s : State} (h : Keeps z s) (n : Nat) (cold : Nat → Bool) :
    Keeps z (State.standby s n cold) := by
  unfold State.standby
  repeat' first
    | assumption
    | with_reducible apply Keeps.updWeir

theorem deferBank_keeps {z s : State} (h : Keeps z s) (s0 : State) (regs : List (Nat × Word)) (n : Nat) :
    Keeps z (deferBank s0 s regs n).1 := by
  unfold deferBank
  repeat' first
    | assumption
    | with_reducible apply Keeps.updWeir
    | with_reducible apply State.setBank_keeps
    | dsimp only
    | split

theorem swapBank_keeps {z s : State} (h : Keeps z s) (s0 : State) (regs : List (Nat × Word)) (n : Nat) (sync : Bool) :
    Keeps z (swapBank s0 s regs n sync) := by
  unfold swapBank
  repeat' first
    | assumption
    | with_reducible apply Keeps.updWeir
    | with_reducible apply State.syncReset_keeps
    | with_reducible apply State.setBank_keeps
    | with_reducible apply State.standby_keeps
    | dsimp only
    | split

theorem decChange_keeps {z s : State} (h : Keeps z s) (s0 : State) (n : Nat) :
    Keeps z (decChange s0 s n) := by
  unfold decChange
  repeat' first
    | assumption
    | with_reducible apply Keeps.updWeir
    | with_reducible apply State.restart_keeps
    | dsimp only
    | split

theorem weirBoundary_keeps {z s : State} (h : Keeps z s) (s0 : State) (regs : List (Nat × Word)) (n : Nat) :
    Keeps z (weirBoundary s0 s regs n).1 := by
  unfold weirBoundary
  repeat' first
    | assumption
    | with_reducible apply Keeps.updWeir
    | with_reducible apply State.setBank_keeps
    | with_reducible apply State.standby_keeps
    | with_reducible apply swapBank_keeps
    | with_reducible apply decChange_keeps
    | with_reducible apply deferBank_keeps
    | dsimp only
    | split

theorem execFadeEnd_keeps {z s : State} (h : Keeps z s) (n : Nat) :
    ResKeeps z (execFadeEnd n s) := by
  unfold execFadeEnd
  repeat' first
    | assumption
    | with_reducible apply ResKeeps.next
    | with_reducible apply ResKeeps.ite
    | with_reducible apply Keeps.updWeir
    | with_reducible apply State.standby_keeps
    | intro _
    | split

end Sys2Proof.Machine
end

