-- ==== Sys2Proof/Laws/KeepsScan.lean ====
section
/-! SUPPORT. `Keeps` for the operations and meanings of Machine/Scan.lean. -/

namespace Sys2Proof.Machine

theorem State.startPass_keeps {z s : State} (h : Keeps z s) (buf : Nat) :
    Keeps z (State.startPass s buf) := by
  unfold State.startPass
  repeat' first
    | assumption
    | with_reducible apply Keeps.updLtn
    | with_reducible apply State.undefine_keeps

theorem State.line0_keeps {z s : State} (h : Keeps z s) :
    Keeps z (State.line0 s) := by
  unfold State.line0
  repeat' first
    | assumption
    | with_reducible apply Keeps.updLtn
    | with_reducible apply State.startPass_keeps
    | dsimp only
    | split

theorem State.dpTo_keeps {z s : State} (h : Keeps z s) (k : Nat) (st : DpSt) :
    Keeps z (State.dpTo s k st) := by
  unfold State.dpTo
  repeat' first
    | assumption
    | with_reducible apply Keeps.updDp
    | with_reducible apply State.event_keeps
    | dsimp only
    | split

theorem State.dpRefit_keeps {z s : State} (h : Keeps z s) (k : Nat) :
    Keeps z (State.dpRefit s k) := by
  unfold State.dpRefit
  repeat' first
    | assumption
    | with_reducible apply State.dpTo_keeps
    | dsimp only
    | split

theorem State.newFrame_keeps {z s : State} (h : Keeps z s) :
    Keeps z (State.newFrame s) := by
  unfold State.newFrame
  repeat' first
    | assumption
    | with_reducible apply Keeps.forEach
    | with_reducible apply State.line0_keeps
    | with_reducible apply State.dpRefit_keeps
    | intro _

end Sys2Proof.Machine
end

