-- ==== Sys2Proof/Laws/KeepsPath.lean ====
section
/-! SUPPORT. `Keeps` for the operations and meanings of Machine/Path.lean. -/

namespace Sys2Proof.Machine

theorem State.convertFeed_keeps {z s : State} (h : Keeps z s) (f : Feed) :
    Keeps z (State.convertFeed s f) := by
  unfold State.convertFeed
  repeat' first
    | assumption
    | with_reducible apply Keeps.updAcqCh
    | dsimp only
    | split

theorem State.countSat_keeps {z s : State} (h : Keeps z s) (n : Nat) :
    Keeps z (State.countSat s n) := by
  unfold State.countSat
  repeat' first
    | assumption
    | with_reducible apply Keeps.updWeir
    | dsimp only
    | split

theorem State.supply_keeps {z s : State} (h : Keeps z s) (f : Feed) :
    Keeps z (State.supply s f) := by
  unfold State.supply
  repeat' first
    | assumption
    | with_reducible apply State.convertFeed_keeps
    | with_reducible apply State.countSat_keeps
    | split

theorem State.supplyAll_keeps {z s : State} (h : Keeps z s) (fs : List Feed) :
    Keeps z (State.supplyAll s fs) := by
  unfold State.supplyAll
  repeat' first
    | assumption
    | with_reducible apply Keeps.forEach
    | with_reducible apply State.supply_keeps
    | intro _

end Sys2Proof.Machine
end

