-- ==== Sys2Proof/Laws/KeepsDensity.lean ====
section
/-! SUPPORT. `Keeps` for the operations and meanings of Machine/Density.lean. -/

namespace Sys2Proof.Machine

theorem foldl_zero_wf {m : Mem} (hw : Memory.wf m = true) (ks : List Nat) (n : Nat) :
    Memory.wf (ks.foldl (fun m k => Mem.zero m (n * k) n) m) = true := by
  induction ks generalizing m with
  | nil => exact hw
  | cons k r ih => exact ih (Mem.zero_wf hw _ _)

theorem State.clearMap_keeps {z s : State} (h : Keeps z s) (n : Nat) : Keeps z (State.clearMap s n) := by
  unfold State.clearMap
  apply Keeps.updPondCh
  refine Keeps.forEach ?_ _ _ (fun s k hs => hs.updPondCh _ _)
  exact ⟨h.pending, h.rsvMem, fun hm => foldl_zero_wf (h.pondMem hm) _ _, h.cfg, h.pend, h.held, h.stby⟩

theorem pondBoundary_keeps {z s : State} (h : Keeps z s) (s0 : State) (n : Nat) :
    Keeps z (pondBoundary s0 s n) := by
  unfold pondBoundary
  repeat' first
    | assumption
    | with_reducible apply Keeps.updPondCh
    | with_reducible apply State.clearMap_keeps
    | dsimp only
    | split

theorem State.pushSweeps_keeps {z s : State} (h : Keeps z s) (g : Nat) (t : Nat) :
    Keeps z (State.pushSweeps s g t) := by
  unfold State.pushSweeps
  repeat' first
    | assumption
    | with_reducible apply Keeps.forEach
    | with_reducible apply Keeps.updPondCh
    | intro _

theorem State.bump_keeps {z s : State} (h : Keeps z s) (n : Nat) (c : Nat) (r : Nat) :
    Keeps z (State.bump s n c r) := by
  unfold State.bump
  repeat' first
    | assumption
    | with_reducible apply Keeps.pondWrite
    | with_reducible apply Keeps.updPondCh
    | dsimp only
    | split

theorem State.drawColumn_keeps {z s : State} (h : Keeps z s) (v : State) (n : Nat) (c : Nat) (xs : List OutSample) (prev : Option Int) :
    Keeps z (State.drawColumn s v n c xs prev) := by
  unfold State.drawColumn
  repeat' first
    | assumption
    | with_reducible apply Keeps.forEach
    | with_reducible apply Keeps.updPondCh
    | with_reducible apply State.bump_keeps
    | intro _
    | dsimp only
    | split

theorem State.dropSweep_keeps {z s : State} (h : Keeps z s) (n : Nat) :
    Keeps z (State.dropSweep s n) := by
  unfold State.dropSweep
  repeat' first
    | assumption
    | with_reducible apply Keeps.updPondCh

theorem State.updSweep_keeps {z s : State} (h : Keeps z s) (n : Nat) (f : Sweep → Sweep) :
    Keeps z (State.updSweep s n f) := by
  unfold State.updSweep
  repeat' first
    | assumption
    | with_reducible apply Keeps.updPondCh

theorem State.nextColumn_keeps {z s : State} (h : Keeps z s) (n : Nat) (w : Sweep) (last : Option Int) :
    Keeps z (State.nextColumn s n w last) := by
  unfold State.nextColumn
  repeat' first
    | assumption
    | with_reducible apply Keeps.updPondCh
    | with_reducible apply State.updSweep_keeps
    | split

theorem State.beginSweep_keeps {z s t : State} (h : Keeps z s) (v : State) (n : Nat) (w : Sweep) (gone : Nat → Bool)
    (e : State.beginSweep s v n w gone = some t) : Keeps z t := by
  unfold State.beginSweep at e
  dsimp only at e
  split at e
  · cases e; exact State.dropSweep_keeps h n
  split at e
  · cases e
  split at e
  · cases e; exact h.updPondCh _ _
  · cases e; exact (State.updSweep_keeps h n _).updPondCh _ _

theorem State.drawStep_keeps {z s t : State} (h : Keeps z s) (n : Nat) (e : State.drawStep s n = some t) : Keeps z t := by
  unfold State.drawStep at e
  split at e
  · cases e
  split at e
  · cases e; exact State.dropSweep_keeps h n
  extract_lets gone at e
  split at e
  · exact State.beginSweep_keeps h _ n _ _ e
  split at e
  · cases e; exact State.dropSweep_keeps h n
  split at e
  · cases e
  split at e
  · cases e; exact State.nextColumn_keeps (h.updPondCh _ _) n _ _
  split at e
  · split at e
    · cases e; exact State.dropSweep_keeps h n
    · cases e
  · cases e; exact State.nextColumn_keeps (State.drawColumn_keeps h _ n _ _ _) n _ _

theorem State.drawDue_keeps {z s : State} (h : Keeps z s) (k n : Nat) : Keeps z (State.drawDue k s n) := by
  induction k generalizing s with
  | zero => exact h
  | succ k ih =>
    unfold State.drawDue
    split
    · exact ih (State.drawStep_keeps h n ‹_›)
    · exact h

theorem State.drawMaps_keeps {z s : State} (h : Keeps z s) : Keeps z (State.drawMaps s) :=
  Keeps.forEach h _ _ (fun _ _ hs => State.drawDue_keeps hs _ _)

theorem State.take_keeps {z s : State} (h : Keeps z s) (fs : List Feed) : Keeps z (State.take s fs) :=
  State.drawMaps_keeps (State.supplyAll_keeps h fs)

theorem State.stopMaps_keeps {z s : State} (h : Keeps z s) (g : Nat) :
    Keeps z (State.stopMaps s g) := by
  unfold State.stopMaps
  repeat' first
    | assumption
    | with_reducible apply Keeps.forEach
    | with_reducible apply Keeps.updPondCh
    | intro _

theorem execMapClearDone_keeps {z s : State} (h : Keeps z s) (n : Nat) :
    ResKeeps z (execMapClearDone n s) := by
  unfold execMapClearDone
  repeat' first
    | assumption
    | with_reducible apply ResKeeps.next
    | with_reducible apply ResKeeps.ite
    | with_reducible apply Keeps.updPondCh
    | intro _

theorem decayMem_wf {m : Mem} (h : Memory.wf m = true) (n sh : Nat) (r : Bool) : Memory.wf (decayMem n sh r m) = true := by
  unfold decayMem
  dsimp only
  generalize (List.map (fun c : Nat × Byte => c.1 / 2) _).eraseDups = bins
  induction bins generalizing m with
  | nil => exact h
  | cons i r ih => exact ih (Mem.write_wf h _ _)

theorem execDecayPassStart_keeps {z s : State} (h : Keeps z s) (n : Nat) : ResKeeps z (execDecayPassStart n s) := by
  unfold execDecayPassStart
  apply ResKeeps.ite <;> intro _
  · exact ResKeeps.next h
  · have h1 := fun f => Keeps.updPondCh (State.draw_keeps h 1) n f
    apply ResKeeps.next
    apply State.drawDue_keeps
    apply Keeps.ite <;> intro _
    · exact Keeps.updPondCh (h1 _) _ _
    · apply Keeps.updPondCh
      have h2 := h1 (fun x => { x with sweepsSince := x.sweepsSince - fld (s.reg (pondA n 0)) 31 16 })
      exact ⟨h2.pending, h2.rsvMem, fun hm => decayMem_wf (h2.pondMem hm) _ _ _, h2.cfg, h2.pend, h2.held, h2.stby⟩

end Sys2Proof.Machine
end

