-- ==== Sys2Proof/Laws/KeepsCal.lean ====
section
/-! SUPPORT. `Keeps` for the operations and meanings of Machine/Cal.lean. -/

namespace Sys2Proof.Machine

theorem State.updTrims_keeps {z s : State} (h : Keeps z s) (n : Nat) (sub : Nat) (f : Trims → Trims) :
    Keeps z (State.updTrims s n sub f) := by
  unfold State.updTrims
  repeat' first
    | assumption
    | with_reducible apply Keeps.updCal

theorem State.updSpare_keeps {z s : State} (h : Keeps z s) (n : Nat) (i : Nat) (f : Spare → Spare) :
    Keeps z (State.updSpare s n i f) := by
  unfold State.updSpare
  repeat' first
    | assumption
    | with_reducible apply Keeps.updCal

theorem State.setCal_keeps {z s : State} (h : Keeps z s) (n : Nat) (new : CalSt) :
    Keeps z (State.setCal s n new) := by
  unfold State.setCal
  repeat' first
    | assumption
    | with_reducible apply Keeps.updCal
    | with_reducible apply State.event_keeps
    | dsimp only
    | split

theorem State.spareEvent_keeps {z s : State} (h : Keeps z s) (m : Nat) (j : Nat) (ty : Nat) (spare : Nat) (crit : Nat) (epoch : Nat) :
    Keeps z (State.spareEvent s m j ty spare crit epoch) := by
  unfold State.spareEvent
  repeat' first
    | assumption
    | with_reducible apply State.event_keeps

theorem State.prepare_keeps {z s : State} (h : Keeps z s) (n : Nat) :
    Keeps z (State.prepare s n) := by
  unfold State.prepare
  repeat' first
    | assumption
    | with_reducible apply Keeps.updCal
    | with_reducible apply State.draw_keeps

theorem State.takeSet_keeps {z s : State} (h : Keeps z s) (n : Nat) (u : Nat) (e : Nat) :
    Keeps z (State.takeSet s n u e) := by
  unfold State.takeSet
  repeat' first
    | assumption
    | with_reducible apply Keeps.updCal
    | dsimp only
    | split

theorem State.markFail_keeps {z s : State} (h : Keeps z s) (m : Nat) :
    Keeps z (State.markFail s m) := by
  unfold State.markFail
  repeat' first
    | assumption
    | with_reducible apply Keeps.updCal

theorem State.reportNoneLeft_keeps {z s : State} (h : Keeps z s) (m : Nat) (j : Nat) :
    Keeps z (State.reportNoneLeft s m j) := by
  unfold State.reportNoneLeft
  repeat' first
    | assumption
    | with_reducible apply Keeps.updCal
    | with_reducible apply State.log_keeps
    | with_reducible apply State.spareEvent_keeps
    | with_reducible apply State.markFail_keeps

theorem State.assignSpare_keeps {z s : State} (h : Keeps z s) (m : Nat) (j : Nat) :
    Keeps z (State.assignSpare s m j) := by
  unfold State.assignSpare
  repeat' first
    | assumption
    | with_reducible apply State.updSpare_keeps
    | with_reducible apply State.reportNoneLeft_keeps
    | dsimp only
    | split

theorem State.judgeFailing_keeps {z s : State} (h : Keeps z s) (m : Nat) (j : Nat) (crit : Nat) :
    Keeps z (State.judgeFailing s m j crit) := by
  unfold State.judgeFailing
  repeat' first
    | assumption
    | with_reducible apply Keeps.updCal
    | with_reducible apply State.log_keeps
    | with_reducible apply State.spareEvent_keeps
    | with_reducible apply State.markFail_keeps
    | with_reducible apply State.assignSpare_keeps
    | dsimp only
    | split

theorem State.retireSpare_keeps {z s : State} (h : Keeps z s) (m : Nat) (i : Nat) :
    Keeps z (State.retireSpare s m i) := by
  unfold State.retireSpare
  repeat' first
    | assumption
    | with_reducible apply State.log_keeps
    | with_reducible apply State.updSpare_keeps
    | with_reducible apply State.spareEvent_keeps
    | with_reducible apply State.assignSpare_keeps
    | dsimp only
    | split

theorem State.restartRuns_keeps {z s : State} (h : Keeps z s) (m : Nat) (taken : Nat → Bool) :
    Keeps z (State.restartRuns s m taken) := by
  unfold State.restartRuns
  repeat' first
    | assumption
    | with_reducible apply Keeps.updCal

theorem State.gangRuns_keeps {z s : State} (h : Keeps z s) (s0 : State) (m : Nat) : Keeps z (State.gangRuns s0 s m) := by
  unfold State.gangRuns
  split
  · exact h
  · exact h.updCal _ _

theorem State.substitute_keeps {z s : State} (h : Keeps z s) (m : Nat) (j : Nat) (e : Nat) :
    Keeps z (State.substitute s m j e).1 := by
  unfold State.substitute
  repeat' first
    | assumption
    | with_reducible apply Keeps.updCal
    | with_reducible apply State.log_keeps
    | with_reducible apply State.updSpare_keeps
    | with_reducible apply State.spareEvent_keeps
    | with_reducible apply State.markFail_keeps
    | with_reducible apply State.retireSpare_keeps
    | with_reducible apply State.restartRuns_keeps
    | dsimp only
    | split

theorem calBoundary_keeps {z s1 : State} (h : Keeps z s1) (s0 : State) (regs : List (Nat × Word)) (n : Nat) :
    Keeps z (calBoundary s0 s1 regs n) := by
  unfold calBoundary
  have h1 := State.gangRuns_keeps h s0 n
  generalize State.gangRuns s0 s1 n = s at h1
  dsimp only
  repeat' split
  all_goals first
    | exact h1
    | exact (State.setCal_keeps h1 _ _).updCal _ _
    | exact State.setCal_keeps h1 _ _

theorem ditherBoundary_keeps {z s : State} (h : Keeps z s) (n : Nat) :
    Keeps z (ditherBoundary s n) := by
  unfold ditherBoundary
  repeat' first
    | assumption
    | with_reducible apply Keeps.updCal
    | with_reducible apply State.prepare_keeps
    | split

theorem substAll_keeps {z s : State} (h : Keeps z s) (n e : Nat) : Keeps z (substAll s n e).1 :=
  Keeps.foldlFst h _ _ (fun _ _ hp => State.substitute_keeps hp _ _ _)

theorem State.calUnit_keeps {z s : State} (h : Keeps z s) (u : Nat) (moved : Bool) :
    Keeps z (State.calUnit s u moved) := by
  unfold State.calUnit
  repeat' first
    | assumption
    | with_reducible apply Keeps.foldl
    | with_reducible apply Keeps.forEach
    | with_reducible apply State.event_keeps
    | with_reducible apply State.prepare_keeps
    | with_reducible apply State.takeSet_keeps
    | with_reducible apply ditherBoundary_keeps
    | with_reducible apply substAll_keeps
    | (fail_if_no_progress (with_reducible apply Keeps.upd <;> try (show _ = _; rfl)))
    | intro _
    | dsimp only
    | split

theorem State.smoothAll_keeps {z s : State} (h : Keeps z s) (n : Nat) (off : List Rat) (gain : List Rat) (skew : List Rat) (bw : List Rat) :
    Keeps z (State.smoothAll s n off gain skew bw) := by
  unfold State.smoothAll
  repeat' first
    | assumption
    | with_reducible apply Keeps.updCal

theorem State.estimate_keeps {z s : State} (h : Keeps z s) (n : Nat) (w : WinStats) :
    Keeps z (State.estimate s n w) := by
  unfold State.estimate
  repeat' first
    | assumption
    | with_reducible apply State.smoothAll_keeps
    | with_reducible apply State.draw_keeps

theorem State.ditherEstimate_keeps {z s : State} (h : Keeps z s) (n : Nat) :
    Keeps z (State.ditherEstimate s n) := by
  unfold State.ditherEstimate
  repeat' first
    | assumption
    | with_reducible apply State.smoothAll_keeps
    | with_reducible apply State.draw_keeps

theorem State.spareTick_keeps {z s : State} (h : Keeps z s) (n : Nat) (m : Nat) :
    Keeps z (State.spareTick s n m) := by
  unfold State.spareTick
  repeat' first
    | assumption
    | with_reducible apply Keeps.forEach
    | with_reducible apply State.updSpare_keeps
    | intro _

theorem State.spareMove_keeps {z s : State} (h : Keeps z s) (m : Nat) :
    Keeps z (State.spareMove s m) := by
  unfold State.spareMove
  repeat' first
    | assumption
    | with_reducible apply Keeps.updCal
    | with_reducible apply State.draw_keeps

theorem State.judgeSpare_keeps {z s : State} (h : Keeps z s) (n : Nat) (ws : List WinSample) (w : SpareIn) :
    Keeps z (State.judgeSpare s n ws w) := by
  unfold State.judgeSpare
  repeat' first
    | assumption
    | with_reducible apply State.updSpare_keeps
    | with_reducible apply State.judgeFailing_keeps
    | with_reducible apply State.retireSpare_keeps
    | dsimp only
    | split

theorem State.runsWindow_keeps {z s : State} (h : Keeps z s) (n : Nat) (stuck : List Nat) (spares : List SpareIn) (m : Nat) :
    Keeps z (State.runsWindow s n stuck spares m) := by
  unfold State.runsWindow
  repeat' first
    | assumption
    | with_reducible apply Keeps.updCal

theorem State.judgeRuns_keeps {z s : State} (h : Keeps z s) (m : Nat) :
    Keeps z (State.judgeRuns s m) := by
  unfold State.judgeRuns
  repeat' first
    | assumption
    | with_reducible apply Keeps.forEach
    | with_reducible apply State.judgeFailing_keeps
    | with_reducible apply State.retireSpare_keeps
    | intro _
    | dsimp only
    | split

theorem State.judgeWindow_keeps {z s : State} (h : Keeps z s) (n : Nat) (stuck : List Nat) (spares : List SpareIn) (ws : List WinSample) :
    Keeps z (State.judgeWindow s n stuck spares ws) := by
  unfold State.judgeWindow
  repeat' first
    | assumption
    | with_reducible apply Keeps.forEach
    | with_reducible apply State.judgeFailing_keeps
    | with_reducible apply State.judgeSpare_keeps
    | with_reducible apply State.runsWindow_keeps
    | with_reducible apply State.judgeRuns_keeps
    | intro _

theorem State.calWindow_keeps {z s : State} (h : Keeps z s) (n : Nat) :
    Keeps z (State.calWindow s n) := by
  unfold State.calWindow
  repeat' first
    | assumption
    | with_reducible apply State.setCal_keeps
    | dsimp only
    | split

theorem State.figures_keeps {z s : State} (h : Keeps z s) (n : Nat) (k : Nat) :
    Keeps z (State.figures s n k) := by
  unfold State.figures
  repeat' first
    | assumption
    | with_reducible apply Keeps.updCal

theorem State.countWindow_keeps {z s : State} (h : Keeps z s) (n : Nat) (w : WinStats) :
    Keeps z (State.countWindow s n w) := by
  unfold State.countWindow
  repeat' first
    | assumption
    | with_reducible apply Keeps.updCal
    | with_reducible apply State.figures_keeps
    | with_reducible apply State.draw_keeps
    | split

theorem State.estimateDue_keeps {z s : State} (h : Keeps z s) (n : Nat) (w : WinStats) :
    Keeps z (State.estimateDue s n w) := by
  unfold State.estimateDue
  repeat' first
    | assumption
    | with_reducible apply Keeps.updCal
    | with_reducible apply State.estimate_keeps
    | with_reducible apply State.ditherEstimate_keeps
    | dsimp only
    | split

theorem State.evalWindow_keeps {z s : State} (h : Keeps z s) (n : Nat) (e : Nat) (spares : List SpareIn) (ws : List WinSample) :
    Keeps z (State.evalWindow s n e spares ws) := by
  unfold State.evalWindow
  repeat' first
    | assumption
    | with_reducible apply Keeps.forEach
    | with_reducible apply Keeps.updCal
    | with_reducible apply State.prepare_keeps
    | with_reducible apply State.spareTick_keeps
    | with_reducible apply State.spareMove_keeps
    | with_reducible apply State.judgeWindow_keeps
    | with_reducible apply State.calWindow_keeps
    | with_reducible apply State.countWindow_keeps
    | with_reducible apply State.estimateDue_keeps
    | with_reducible apply State.draw_keeps
    | intro _
    | dsimp only
    | split

theorem execEstimatorWindowEnd_keeps {z s : State} (h : Keeps z s) (n : Nat) (w : WindowIn) :
    ResKeeps z (execEstimatorWindowEnd n w s) := by
  unfold execEstimatorWindowEnd
  have h1 := State.take_keeps h w.feeds
  extract_lets s1 e
  apply ResKeeps.ite <;> intro _
  · exact ResKeeps.next h1
  · split
    · exact ResKeeps.next h1
    · exact ResKeeps.next (State.evalWindow_keeps h1 _ _ _ _)

theorem State.trimSub_keeps {z s : State} (h : Keeps z s) (n : Nat) (m : Nat) (sub : Nat) (k : Nat) (base : Int × Int × Int) :
    Keeps z (State.trimSub s n m sub k base).1 := by
  unfold State.trimSub
  repeat' first
    | assumption
    | with_reducible apply State.updTrims_keeps

theorem State.trimChannel_keeps {z s : State} (h : Keeps z s) (n : Nat) : Keeps z (State.trimChannel s n) := by
  unfold State.trimChannel
  apply Keeps.ite <;> intro _
  · exact h
  · apply Keeps.updCal
    apply Keeps.forEach
    · exact Keeps.foldlFst h _ _ (fun p a hp => State.trimSub_keeps hp _ _ _ _ _)
    · intro s m hs
      apply Keeps.forEach hs
      intro s i hs
      apply Keeps.ite <;> intro _
      · exact hs
      · exact State.trimSub_keeps hs _ _ _ _ _

theorem execTrimTick_keeps {z s : State} (h : Keeps z s) : ResKeeps z (execTrimTick s) :=
  ResKeeps.next (Keeps.forEach h _ _ (fun _ _ hs => State.trimChannel_keeps hs _))

theorem State.fgFail_keeps {z s : State} (h : Keeps z s) (m : Nat) (sub : Nat) :
    Keeps z (State.fgFail s m sub) := by
  unfold State.fgFail
  repeat' first
    | assumption
    | with_reducible apply Keeps.updCal
    | with_reducible apply State.log_keeps
    | with_reducible apply State.updSpare_keeps
    | with_reducible apply State.spareEvent_keeps
    | with_reducible apply State.reportNoneLeft_keeps
    | with_reducible apply State.retireSpare_keeps
    | dsimp only
    | split

theorem State.fgSet_keeps {z s : State} (h : Keeps z s) (q : Nat) (f : FgResult) :
    Keeps z (State.fgSet s q f) := by
  unfold State.fgSet
  repeat' first
    | assumption
    | with_reducible apply Keeps.forEach
    | with_reducible apply Keeps.updCal
    | with_reducible apply State.updTrims_keeps
    | intro _

theorem execForegroundCalDone_keeps {z s : State} (h : Keeps z s) (q : Nat) (found : FgIn) :
    ResKeeps z (execForegroundCalDone q found s) := by
  unfold execForegroundCalDone
  repeat' first
    | assumption
    | with_reducible apply ResKeeps.next
    | with_reducible apply ResKeeps.ite
    | with_reducible apply Keeps.forEach
    | with_reducible apply Keeps.updQuad
    | with_reducible apply State.setCal_keeps
    | with_reducible apply State.prepare_keeps
    | with_reducible apply State.fgFail_keeps
    | with_reducible apply State.fgSet_keeps
    | intro _

theorem execQuadStart_keeps {z s : State} (h : Keeps z s) (q : Nat) :
    ResKeeps z (execQuadStart q s) := by
  unfold execQuadStart
  repeat' first
    | assumption
    | with_reducible apply ResKeeps.next
    | with_reducible apply ResKeeps.ite
    | with_reducible apply Keeps.forEach
    | with_reducible apply Keeps.updQuad
    | with_reducible apply State.openWindow_keeps
    | with_reducible apply State.setLive_keeps
    | with_reducible apply State.remember_keeps
    | with_reducible apply State.syncReset_keeps
    | intro _
    | split

theorem State.newFs_keeps {z s : State} (h : Keeps z s) :
    Keeps z (State.newFs s) := by
  unfold State.newFs
  repeat' first
    | assumption
    | with_reducible apply Keeps.forEach
    | with_reducible apply State.openWindow_keeps
    | with_reducible apply State.setLive_keeps
    | with_reducible apply State.remember_keeps
    | with_reducible apply State.syncReset_keeps
    | with_reducible apply State.setCal_keeps
    | with_reducible apply State.prepare_keeps
    | intro _
    | dsimp only
    | split

end Sys2Proof.Machine
end

