-- ==== Sys2Proof/Laws/KeepsTrigger.lean ====
section
/-! SUPPORT. `Keeps` for the operations and meanings of Machine/Trigger.lean. -/

namespace Sys2Proof.Machine

theorem State.bevQueue_keeps {z s : State} (h : Keeps z s) (p : Nat) (e : BevEvent) :
    Keeps z (State.bevQueue s p e) := by
  unfold State.bevQueue
  repeat' first
    | assumption
    | with_reducible apply Keeps.updBcn
    | with_reducible apply Keeps.updPort
    | with_reducible apply State.log_keeps
    | dsimp only
    | split

theorem State.bevDeliver_keeps {z s : State} (h : Keeps z s) (line : Nat) (t : Int) (arrival : Nat) :
    Keeps z (State.bevDeliver s line t arrival) := by
  unfold State.bevDeliver
  apply Keeps.forEach h
  intro s g hs
  apply Keeps.ite <;> intro _
  · exact hs
  apply Keeps.ite <;> intro _
  · exact Keeps.ite (fun _ => Keeps.updTrg hs _ _) (fun _ => hs)
  · exact Keeps.updTrg hs _ _

theorem State.bevOriginate_keeps {z s : State} (h : Keeps z s) (line t dec back : Nat) : Keeps z (State.bevOriginate s line t dec back) := by
  unfold State.bevOriginate
  apply State.bevDeliver_keeps
  apply Keeps.forEach (Keeps.updBcn h _)
  intro s p hs
  apply Keeps.ite <;> intro _
  · exact State.bevQueue_keeps hs _ _
  · exact hs

theorem State.outPulse_keeps {z s : State} (h : Keeps z s) (g : Nat) (what : Nat) (t : Nat) (step3 : Nat) :
    Keeps z (State.outPulse s g what t step3) := by
  unfold State.outPulse
  repeat' first
    | assumption
    | with_reducible apply Keeps.forEach
    | with_reducible apply Keeps.updOut
    | intro _
    | dsimp only
    | split

theorem execTrigOutTimedEdge_keeps {z s : State} (h : Keeps z s) (i : Nat) :
    ResKeeps z (execTrigOutTimedEdge i s) := by
  unfold execTrigOutTimedEdge
  repeat' first
    | assumption
    | with_reducible apply ResKeeps.next
    | with_reducible apply Keeps.updOut
    | dsimp only
    | split

theorem State.logTrig_keeps {z s : State} (h : Keeps z s) (g : Nat) (t : Nat) (accepted : Bool) :
    Keeps z (State.logTrig s g t accepted) := by
  unfold State.logTrig
  repeat' first
    | assumption
    | with_reducible apply Keeps.updRun

theorem State.reject_keeps {z s : State} (h : Keeps z s) (g : Nat) (t : Nat) :
    Keeps z (State.reject s g t) := by
  unfold State.reject
  repeat' first
    | assumption
    | with_reducible apply Keeps.updTrg
    | with_reducible apply State.logTrig_keeps
    | dsimp only
    | split

theorem State.holdTrig_keeps {z s : State} (h : Keeps z s) (g : Nat) :
    Keeps z (State.holdTrig s g) := by
  unfold State.holdTrig
  repeat' first
    | assumption
    | with_reducible apply Keeps.updTrg

theorem State.acceptTrig_keeps {z s : State} (h : Keeps z s) (g t src dec back : Nat) : Keeps z (State.acceptTrig s g t src dec back) := by
  unfold State.acceptTrig
  have h1 := fun f f' => State.outPulse_keeps (Keeps.updTrg (State.pushSweeps_keeps
    (State.logTrig_keeps (Keeps.updRun h g f) g t true) g t) g f') g 0 t (dec + back)
  apply Keeps.ite <;> intro _
  · exact State.bevOriginate_keeps (h1 _ _) _ _ _ _
  · exact h1 _ _

theorem State.satisfyForces_keeps {z s : State} (h : Keeps z s) (g : Nat) (t : Nat) :
    Keeps z (State.satisfyForces s g t) := by
  unfold State.satisfyForces
  repeat' first
    | assumption
    | with_reducible apply Keeps.forEach
    | with_reducible apply Keeps.updTrg
    | with_reducible apply State.finish_keeps
    | intro _

theorem State.judge_keeps {z s : State} (h : Keeps z s) (g : Nat) (t : Nat) (src : Nat) (dec : Nat) (back : Nat) :
    Keeps z (State.judge s g t src dec back) := by
  unfold State.judge
  repeat' first
    | assumption
    | with_reducible apply Keeps.updTrg
    | with_reducible apply State.outPulse_keeps
    | with_reducible apply State.reject_keeps
    | with_reducible apply State.holdTrig_keeps
    | with_reducible apply State.acceptTrig_keeps
    | with_reducible apply State.satisfyForces_keeps
    | dsimp only
    | split

theorem State.sequence_keeps {z s : State} (h : Keeps z s) (g : Nat) (i : InboxItem) (metA : Bool) (metB : Bool) (kA : Nat) (kB : Nat) :
    Keeps z (State.sequence s g i metA metB kA kB) := by
  unfold State.sequence
  repeat' first
    | assumption
    | with_reducible apply Keeps.updTrg
    | with_reducible apply State.judge_keeps
    | dsimp only
    | split

theorem State.moveHigh_keeps {z s : State} (h : Keeps z s) (g : Nat) (i : InboxItem) :
    Keeps z (State.moveHigh s g i) := by
  unfold State.moveHigh
  repeat' first
    | assumption
    | with_reducible apply Keeps.forEach
    | with_reducible apply Keeps.updTrg
    | intro _
    | split

theorem State.batchItems_keeps {z s : State} (h : Keeps z s) (g : Nat) (ca cb : EvCfg) (pa pb : PatBatch) (k : Nat) (is : List InboxItem) :
    Keeps z (State.batchItems s g ca cb pa pb k is) := by
  induction is generalizing s k with
  | nil => exact h
  | cons i r ih =>
    unfold State.batchItems
    apply ih
    apply Keeps.ite <;> intro _
    · exact State.sequence_keeps (Keeps.updTrg h _ _) _ _ _ _ _ _
    · exact Keeps.updTrg h _ _

theorem State.newProgram_keeps {z s : State} (h : Keeps z s) (g : Nat) (p : ProgChange) :
    Keeps z (State.newProgram s g p) := by
  unfold State.newProgram
  repeat' first
    | assumption
    | with_reducible apply Keeps.forEach
    | with_reducible apply Keeps.updTrg
    | intro _

theorem State.batch_keeps {z s : State} (h : Keeps z s) (g : Nat) (is : List InboxItem) : Keeps z (State.batch s g is) := by
  unfold State.batch
  apply State.batchItems_keeps
  refine Keeps.foldl (Keeps.foldl h _ _ (fun s i hs => ?_)) _ _ (fun s i hs => State.moveHigh_keeps hs _ _)
  split
  · exact State.newProgram_keeps hs _ _
  · exact hs

theorem State.acceptForce_keeps {z s : State} (h : Keeps z s) (g : Nat) (t : Nat) :
    Keeps z (State.acceptForce s g t) := by
  unfold State.acceptForce
  repeat' first
    | assumption
    | with_reducible apply Keeps.under
    | with_reducible apply State.acceptTrig_keeps
    | intro _

theorem State.judgeForce_keeps {z s : State} (h : Keeps z s) (g : Nat) (t : Nat) :
    Keeps z (State.judgeForce s g t) := by
  unfold State.judgeForce
  repeat' first
    | assumption
    | with_reducible apply Keeps.updTrg
    | with_reducible apply State.finish_keeps
    | with_reducible apply State.acceptForce_keeps
    | dsimp only
    | split

theorem State.forceBelow_keeps {z s : State} (h : Keeps z s) (g : Nat) (below : Nat) :
    Keeps z (State.forceBelow s g below) := by
  unfold State.forceBelow
  repeat' first
    | assumption
    | with_reducible apply State.judgeForce_keeps
    | split

theorem State.batches_keeps {z s : State} (h : Keeps z s) (n g limit : Nat) : Keeps z (State.batches n s g limit) := by
  induction n generalizing s with
  | zero => exact h
  | succ n ih =>
    unfold State.batches
    split
    · exact h
    · apply Keeps.ite <;> intro _
      · exact h
      · exact ih (Keeps.under (Keeps.updTrg (State.forceBelow_keeps h _ _) _ _) _ _ (fun _ _ hs => State.batch_keeps hs _ _))

theorem State.feedGroupSlot_keeps {z s : State} (h : Keeps z s) (g : Nat) (k : Nat) :
    Keeps z (State.feedGroupSlot s g k) := by
  unfold State.feedGroupSlot
  repeat' first
    | assumption
    | with_reducible apply Keeps.updTrg
    | dsimp only
    | split

theorem execSequenceTimeout_keeps {z s : State} (h : Keeps z s) (g : Nat) :
    ResKeeps z (execSequenceTimeout g s) := by
  unfold execSequenceTimeout
  repeat' first
    | assumption
    | with_reducible apply ResKeeps.next
    | with_reducible apply ResKeeps.ite
    | with_reducible apply Keeps.updTrg
    | intro _

theorem execTrigInTransition_keeps {z s : State} (h : Keeps z s) (i t : Nat) (rise : Bool) : ResKeeps z (execTrigInTransition i t rise s) := by
  unfold execTrigInTransition
  apply ResKeeps.ite <;> intro _
  · exact ResKeeps.next h
  · apply ResKeeps.next
    apply Keeps.forEach (Keeps.upd h rfl rfl rfl)
    intro s g hs
    apply Keeps.ite <;> intro _
    · exact Keeps.updTrg hs _ _
    · exact hs

end Sys2Proof.Machine
end

