-- ==== Sys2Proof/Laws/KeepsRecord.lean ====
section
/-! SUPPORT. `Keeps` for the operations and meanings of Machine/Record.lean. -/

namespace Sys2Proof.Machine

theorem State.putDesc_keeps {z s : State} (h : Keeps z s) (i : Nat) (d : Desc) : Keeps z (State.putDesc s i d) := by
  unfold State.putDesc
  exact State.putBytes_keeps h _ _

theorem State.countSnd_keeps {z s : State} (h : Keeps z s) (g : Nat) (rs : List (Option Int)) :
    Keeps z (State.countSnd s g rs) := by
  unfold State.countSnd
  repeat' first
    | assumption
    | with_reducible apply Keeps.updSnd

theorem State.addSweep_keeps {z s : State} (h : Keeps z s) (p : Part) (bank : Nat) (fresh : Bool) :
    Keeps z (State.addSweep s p bank fresh) := by
  unfold State.addSweep
  repeat' first
    | assumption
    | with_reducible apply Keeps.forEach
    | with_reducible apply Keeps.updPondCh
    | intro _

end Sys2Proof.Machine
end

