-- ==== Sys2Proof/Laws/KeepsAcquire.lean ====
section
/-! SUPPORT. `Keeps` for the operations and meanings of Machine/Acquire.lean. -/

namespace Sys2Proof.Machine

theorem State.clearNumbering_keeps {z s : State} (h : Keeps z s) (u : Nat) :
    Keeps z (State.clearNumbering s u) := by
  unfold State.clearNumbering
  repeat' first
    | assumption
    | with_reducible apply Keeps.updTb

theorem State.newPeriod_keeps {z s : State} (h : Keeps z s) (n : Nat) :
    Keeps z (State.newPeriod s n) := by
  unfold State.newPeriod
  repeat' first
    | assumption
    | with_reducible apply Keeps.updAcqCh
    | with_reducible apply Keeps.updWeir

theorem chanBoundary_keeps {z s0 : State} {acc : State × Flags} (h : Keeps z acc.1) (u : Nat) (regs : List (Nat × Word)) (n : Nat) :
    Keeps z (chanBoundary s0 u regs acc n).1 := by
  unfold chanBoundary
  have h0 : Keeps z (if s0.activeUnit n = u then acc.1.newPeriod n else acc.1) :=
    Keeps.ite (fun _ => State.newPeriod_keeps h n) (fun _ => h)
  have h1 := weirBoundary_keeps h0 s0 regs n
  generalize weirBoundary s0 (if s0.activeUnit n = u then acc.1.newPeriod n else acc.1) regs n = r at *
  obtain ⟨s, f⟩ := r
  apply pondBoundary_keeps
  apply calBoundary_keeps
  apply State.setLive_keeps
  exact Keeps.ite (fun _ => h1) (fun _ => State.openWindow_keeps h1 _ _)

theorem State.postProgram_keeps {z s : State} (h : Keeps z s) (s0 : State) (regs : List (Nat × Word)) (u : Nat) :
    Keeps z (State.postProgram s s0 regs u) := by
  unfold State.postProgram
  repeat' first
    | assumption
    | with_reducible apply Keeps.updTrg
    | dsimp only
    | split

theorem State.acqBoundaryAt_keeps {z s : State} (h : Keeps z s) (u : Nat) : Keeps z (State.acqBoundaryAt s u) := by
  unfold State.acqBoundaryAt
  have h0 : Keeps z ((if s.boundaryChanges u then s.remember else s).clearNumbering u) :=
    State.clearNumbering_keeps (Keeps.ite (fun _ => State.remember_keeps h) (fun _ => h)) u
  generalize (if s.boundaryChanges u then s.remember else s).clearNumbering u = s0 at *
  apply Keeps.ite <;> intro _
  · apply State.calUnit_keeps
    apply Keeps.foldl h0
    exact fun s n hs => Keeps.ite (fun _ => weirBoundary_keeps hs _ _ _) (fun _ => hs)
  · have h1 : ∀ (regs : List (Nat × Word)) (ns : List Nat), Keeps z (ns.foldl (chanBoundary s0 u regs) (s0.putRegs regs, {})).1 :=
      fun regs ns => Keeps.foldlFst (State.putRegs_keeps h0 regs) ns _ (fun p a hp => chanBoundary_keeps hp _ _ _)
    refine Keeps.forEach ?_ _ _ (fun s v hs => State.calUnit_keeps hs _ _)
    apply State.calUnit_keeps
    apply State.genDone_keeps
    exact Keeps.ite (fun _ => State.postProgram_keeps (h1 _ _) _ _ _) (fun _ => h1 _ _)

theorem State.updDir_keeps {z s : State} (h : Keeps z s) (g : Nat) (acq : Nat) (f : AcqRec → AcqRec) :
    Keeps z (State.updDir s g acq f) := by
  unfold State.updDir
  repeat' first
    | assumption
    | with_reducible exact rfl
    | with_reducible apply Keeps.updRsv

theorem State.openSlot_keeps {z s : State} (h : Keeps z s) (g : Nat) (acq : Nat) (j : Nat) :
    Keeps z (State.openSlot s g acq j) := by
  unfold State.openSlot
  repeat' first
    | assumption
    | with_reducible apply State.undefine_keeps
    | split

theorem State.openSeg_keeps {z s : State} (h : Keeps z s) (g : Nat) (t : Nat) :
    Keeps z (State.openSeg s g t) := by
  unfold State.openSeg
  repeat' first
    | assumption
    | with_reducible apply Keeps.updRec
    | with_reducible apply Keeps.updRun
    | with_reducible apply Keeps.updSnd
    | with_reducible apply Keeps.updTrg
    | with_reducible apply State.openSlot_keeps
    | dsimp only
    | split

theorem execWaitFullEnd_keeps {z s : State} (h : Keeps z s) (g : Nat) :
    ResKeeps z (execWaitFullEnd g s) := by
  unfold execWaitFullEnd
  repeat' first
    | assumption
    | with_reducible apply ResKeeps.next
    | with_reducible apply ResKeeps.ite
    | with_reducible apply Keeps.updRec
    | with_reducible apply Keeps.updRun
    | with_reducible apply State.openSeg_keeps
    | intro _
    | dsimp only
    | split

theorem State.startPond_keeps {z s : State} (h : Keeps z s) (l : Layout) :
    Keeps z (State.startPond s l) := by
  unfold State.startPond
  repeat' first
    | assumption
    | with_reducible apply Keeps.forEach
    | with_reducible apply Keeps.updPondCh
    | intro _
    | split

theorem State.captures_keeps {z s : State} (h : Keeps z s) :
    Keeps z (State.captures s) := by
  unfold State.captures
  repeat' first
    | assumption
    | with_reducible exact rfl
    | with_reducible apply Keeps.updRsv
    | with_reducible apply State.draw_keeps

theorem State.startRun_keeps {z s : State} (h : Keeps z s) (g : Nat) (l : Layout) (tag : Option Nat) :
    Keeps z (State.startRun s g l tag) := by
  unfold State.startRun
  repeat' first
    | assumption
    | with_reducible exact rfl
    | with_reducible apply Keeps.forEach
    | with_reducible apply Keeps.updRec
    | with_reducible apply Keeps.updRsv
    | with_reducible apply Keeps.updSnd
    | with_reducible apply Keeps.updTrg
    | with_reducible apply State.slewSettle_keeps
    | with_reducible apply State.newPeriod_keeps
    | with_reducible apply State.openSlot_keeps
    | with_reducible apply State.openSeg_keeps
    | with_reducible apply State.startPond_keeps
    | with_reducible apply State.captures_keeps
    | intro _
    | dsimp only
    | split

theorem armBody_keeps {z s : State} (h : Keeps z s) (stream : Bool) (e : JEntry) :
    CmdOut.Keeps z (armBody stream s e) := by
  unfold armBody
  repeat' first
    | assumption
    | with_reducible apply CmdOut.Keeps.ite
    | with_reducible apply CmdOut.Keeps.done
    | with_reducible apply CmdOut.Keeps.hold
    | with_reducible apply CmdOut.keeps_refuse
    | with_reducible apply State.acqBoundaryAt_keeps
    | with_reducible apply State.startRun_keeps
    | intro _

theorem execArm_keeps {z s : State} (h : Keeps z s) (q : Nat) :
    ResKeeps z (execArm q s) := by
  unfold execArm
  repeat' first
    | assumption
    | with_reducible apply runCmd_keeps
    | with_reducible apply armBody_keeps

theorem execStreamStart_keeps {z s : State} (h : Keeps z s) (q : Nat) :
    ResKeeps z (execStreamStart q s) := by
  unfold execStreamStart
  repeat' first
    | assumption
    | with_reducible apply runCmd_keeps
    | with_reducible apply armBody_keeps

theorem State.abortForces_keeps {z s : State} (h : Keeps z s) (g : Nat) :
    Keeps z (State.abortForces s g) := by
  unfold State.abortForces
  repeat' first
    | assumption
    | with_reducible apply Keeps.forEach
    | with_reducible apply Keeps.updTrg
    | with_reducible apply State.finish_keeps
    | intro _

theorem State.stopJudging_keeps {z s : State} (h : Keeps z s) (g : Nat) :
    Keeps z (State.stopJudging s g) := by
  unfold State.stopJudging
  repeat' first
    | assumption
    | with_reducible apply Keeps.updTrg

theorem State.endAcq_keeps {z s : State} (h : Keeps z s) (g : Nat) (reason : EndReason) : Keeps z (State.endAcq s g reason) := by
  unfold State.endAcq
  split
  · exact h
  · apply State.finishWaits_keeps
    apply Keeps.updSnd
    apply State.stopMaps_keeps
    refine Keeps.forEach ?_ _ _ (fun s n hs => Keeps.updPondCh hs _ _)
    refine Keeps.updRsv ?_ _ rfl
    apply State.updDir_keeps
    apply Keeps.updRec
    apply State.stopJudging_keeps
    apply State.abortForces_keeps
    refine Keeps.updRsv ?_ _ rfl
    exact State.event_keeps (State.slewSettle_keeps h) _ _ _ _ _

theorem State.queueSeg_keeps {z s : State} (h : Keeps z s) (g : Nat) (r : Run) (slot : Nat) (trig : Option TrigInfo) :
    Keeps z (State.queueSeg s g r slot trig) := by
  unfold State.queueSeg
  repeat' first
    | assumption
    | with_reducible apply State.updDir_keeps
    | with_reducible apply State.captures_keeps

theorem State.closeRecord_keeps {z s : State} (h : Keeps z s) (g : Nat) (final : Bool) :
    Keeps z (State.closeRecord s g final) := by
  unfold State.closeRecord
  repeat' first
    | assumption
    | with_reducible apply Keeps.forEach
    | with_reducible apply Keeps.updPondCh
    | with_reducible apply Keeps.updRun
    | with_reducible apply State.countSnd_keeps
    | with_reducible apply State.queueSeg_keeps
    | intro _
    | dsimp only
    | split

theorem State.freshCounts_keeps {z s : State} (h : Keeps z s) (g : Nat) :
    Keeps z (State.freshCounts s g) := by
  unfold State.freshCounts
  repeat' first
    | assumption
    | with_reducible apply Keeps.updRun
    | with_reducible apply Keeps.updTrg

theorem State.nextSeg_keeps {z s : State} (h : Keeps z s) (g : Nat) :
    Keeps z (State.nextSeg s g) := by
  unfold State.nextSeg
  repeat' first
    | assumption
    | with_reducible apply Keeps.updRec
    | with_reducible apply Keeps.updRun
    | dsimp only
    | split

theorem State.pickBank_keeps {z s : State} (h : Keeps z s) (g : Nat) :
    Keeps z (State.pickBank s g) := by
  unfold State.pickBank
  repeat' first
    | assumption
    | with_reducible apply Keeps.forEach
    | with_reducible apply Keeps.updPondCh
    | intro _
    | split

theorem State.closeBy_keeps {z s : State} (h : Keeps z s) (g : Nat) (at_ : Nat) :
    Keeps z (State.closeBy s g at_) := by
  unfold State.closeBy
  repeat' first
    | assumption
    | with_reducible apply Keeps.updRun
    | with_reducible apply State.openSeg_keeps
    | with_reducible apply State.closeRecord_keeps
    | with_reducible apply State.nextSeg_keeps
    | with_reducible apply State.pickBank_keeps
    | dsimp only
    | split

theorem State.closeDue_keeps {z s : State} (h : Keeps z s) (g : Nat) :
    Keeps z (State.closeDue s g) := by
  unfold State.closeDue
  repeat' first
    | assumption
    | with_reducible apply State.closeBy_keeps

theorem State.stopAt_keeps {z s0 : State} (h : Keeps z s0) (g : Nat) (abort : Bool) (at_ : Nat) :
    Keeps z (State.stopAt s0 g abort at_) := by
  unfold State.stopAt
  repeat' first
    | assumption
    | with_reducible apply Keeps.updRun
    | with_reducible apply Keeps.updTrg
    | with_reducible apply State.abortForces_keeps
    | with_reducible apply State.stopJudging_keeps
    | with_reducible apply State.closeRecord_keeps
    | with_reducible apply State.closeBy_keeps
    | dsimp only
    | split

theorem State.stopRun_keeps {z s : State} (h : Keeps z s) (g : Nat) (abort : Bool) :
    Keeps z (State.stopRun s g abort) := by
  unfold State.stopRun
  repeat' first
    | assumption
    | with_reducible apply State.stopAt_keeps

theorem execForceTrigger_keeps {z s : State} (h : Keeps z s) (q : Nat) :
    ResKeeps z (execForceTrigger q s) := by
  unfold execForceTrigger
  repeat' first
    | assumption
    | with_reducible apply CmdOut.Keeps.ite
    | with_reducible apply CmdOut.Keeps.done
    | with_reducible apply CmdOut.Keeps.wait
    | with_reducible apply CmdOut.keeps_refuse
    | with_reducible apply Keeps.updTrg
    | with_reducible apply runCmd_keeps
    | with_reducible apply State.outPulse_keeps
    | with_reducible apply State.reject_keeps
    | with_reducible apply State.acceptForce_keeps
    | with_reducible apply State.closeDue_keeps
    | intro _

theorem execTriggerDecision_keeps {z s : State} (h : Keeps z s) (g : Nat) (feeds : List Feed) (upTo : Nat) :
    ResKeeps z (execTriggerDecision g feeds upTo s) := by
  unfold execTriggerDecision
  have h1 := State.closeDue_keeps (State.take_keeps h feeds) g
  apply ResKeeps.ite <;> intro _
  · exact ResKeeps.next h1
  · apply ResKeeps.next
    have h2 := fun n limit => State.batches_keeps
      (Keeps.forEach h1 (List.range 4) (fun s k => s.feedGroupSlot g k) (fun s k hs => State.feedGroupSlot_keeps hs _ _)) n g limit
    apply State.drawMaps_keeps
    apply Keeps.updTrg
    exact Keeps.ite (fun _ => State.forceBelow_keeps (h2 _ _) _ _) (fun _ => h2 _ _)

theorem execAcceptanceOpens_keeps {z s0 : State} (h : Keeps z s0) (g : Nat) :
    ResKeeps z (execAcceptanceOpens g s0) := by
  unfold execAcceptanceOpens
  repeat' first
    | assumption
    | with_reducible apply ResKeeps.next
    | with_reducible apply ResKeeps.ite
    | with_reducible apply Keeps.updTrg
    | with_reducible apply State.judgeForce_keeps
    | with_reducible apply State.forceBelow_keeps
    | with_reducible apply State.closeDue_keeps
    | intro _
    | dsimp only
    | split

theorem State.frameFrom_keeps {z s : State} (h : Keeps z s) (g : Nat) (t : Nat) :
    Keeps z (State.frameFrom s g t) := by
  unfold State.frameFrom
  repeat' first
    | assumption
    | with_reducible apply Keeps.updRun

theorem execAcqBoundary_keeps {z s : State} (h : Keeps z s) (u : Nat) :
    ResKeeps z (execAcqBoundary u s) := by
  unfold execAcqBoundary
  repeat' first
    | assumption
    | with_reducible apply ResKeeps.next
    | with_reducible apply ResKeeps.ite
    | with_reducible apply Keeps.updRun
    | with_reducible apply State.acqBoundaryAt_keeps
    | with_reducible apply State.openSeg_keeps
    | with_reducible apply State.closeDue_keeps
    | with_reducible apply State.frameFrom_keeps
    | intro _
    | dsimp only
    | split

theorem stopBody_keeps {z s : State} (h : Keeps z s) (e : JEntry) (bad : Run → Bool) (act : State → State) (accepted : Bool)
    (ha : Keeps z (act s)) : CmdOut.Keeps z (stopBody s e bad act accepted) := by
  unfold stopBody
  dsimp only
  split
  · exact .done h
  · apply CmdOut.Keeps.ite <;> intro _
    · exact CmdOut.keeps_refuse h
    · exact .wait ha

theorem execStop_keeps {z s : State} (h : Keeps z s) (q : Nat) :
    ResKeeps z (execStop q s) := by
  unfold execStop
  repeat' first
    | assumption
    | with_reducible apply runCmd_keeps
    | with_reducible apply State.stopRun_keeps
    | with_reducible apply stopBody_keeps
    | intro _

theorem execAbort_keeps {z s : State} (h : Keeps z s) (q : Nat) :
    ResKeeps z (execAbort q s) := by
  unfold execAbort
  repeat' first
    | assumption
    | with_reducible apply runCmd_keeps
    | with_reducible apply State.stopRun_keeps
    | with_reducible apply stopBody_keeps
    | intro _

theorem State.stopStream_keeps {z s : State} (h : Keeps z s) (g : Nat) :
    Keeps z (State.stopStream s g) := by
  unfold State.stopStream
  repeat' first
    | assumption
    | with_reducible apply Keeps.updRun

theorem execStreamStop_keeps {z s : State} (h : Keeps z s) (q : Nat) :
    ResKeeps z (execStreamStop q s) := by
  unfold execStreamStop
  repeat' first
    | assumption
    | with_reducible apply runCmd_keeps
    | with_reducible apply stopBody_keeps
    | with_reducible apply State.stopStream_keeps
    | intro _

theorem State.abortAll_keeps {z s : State} (h : Keeps z s) (v : Nat) : Keeps z (State.abortAll s v) := by
  unfold State.abortAll
  apply Keeps.ite <;> intro _
  · exact h
  · exact Keeps.forEach (Keeps.updCp h _ rfl) _ _ (fun s g hs => State.stopRun_keeps hs _ _)

theorem execAbortAll_keeps {z s : State} (h : Keeps z s) (v : Word) :
    ResKeeps z (execAbortAll v s) := by
  unfold execAbortAll
  repeat' first
    | assumption
    | with_reducible apply ResKeeps.next
    | with_reducible apply State.tlp_keeps
    | with_reducible apply State.abortAll_keeps

theorem State.storeParts_keeps {z s : State} (h : Keeps z s) (g : Nat) (r : Run) (slotBlk : Nat) (nblk : Nat) (gap : Bool) (trigs : Part → List Nat) (ps : List Part) :
    Keeps z (State.storeParts s g r slotBlk nblk gap trigs ps) := by
  unfold State.storeParts
  repeat' first
    | assumption
    | with_reducible apply Keeps.forEach
    | with_reducible apply Keeps.putZeros
    | with_reducible apply State.putBytes_keeps
    | intro _

theorem State.fillSegment_keeps {z s : State} (h : Keeps z s) (g : Nat) (r : Run) (a : AcqRec) (t : TrigInfo) (ps : List Part) :
    Keeps z (State.fillSegment s g r a t ps) := by
  unfold State.fillSegment
  repeat' first
    | assumption
    | with_reducible apply Keeps.updRun
    | with_reducible apply Keeps.updTrg
    | with_reducible apply State.putDesc_keeps
    | with_reducible apply State.countSnd_keeps
    | with_reducible apply State.queueSeg_keeps
    | with_reducible apply State.freshCounts_keeps
    | with_reducible apply State.nextSeg_keeps
    | with_reducible apply State.storeParts_keeps
    | dsimp only
    | split

theorem State.fillSweep_keeps {z s : State} (h : Keeps z s) (g : Nat) (r : Run) (t : TrigInfo) (ps : List Part) :
    Keeps z (State.fillSweep s g r t ps) := by
  unfold State.fillSweep
  repeat' first
    | assumption
    | with_reducible apply Keeps.forEach
    | with_reducible apply Keeps.updRun
    | with_reducible apply Keeps.updTrg
    | with_reducible apply State.addSweep_keeps
    | with_reducible apply State.openSeg_keeps
    | with_reducible apply State.freshCounts_keeps
    | intro _
    | dsimp only
    | split

theorem State.fillDone_keeps {z s : State} (h : Keeps z s) (g : Nat) (r : Run) (a : AcqRec) (t : TrigInfo) (ps : List Part) :
    Keeps z (State.fillDone s g r a t ps) := by
  unfold State.fillDone
  repeat' first
    | assumption
    | with_reducible apply Keeps.under
    | with_reducible apply Keeps.updRun
    | with_reducible apply State.openSeg_keeps
    | with_reducible apply State.stopAt_keeps
    | with_reducible apply State.fillSegment_keeps
    | with_reducible apply State.fillSweep_keeps
    | intro _
    | dsimp only
    | split

theorem execPostFillEnd_keeps {z s : State} (h : Keeps z s) (g : Nat) (feeds : List Feed) : ResKeeps z (execPostFillEnd g feeds s) := by
  unfold execPostFillEnd
  have h1 := State.take_keeps h feeds
  extract_lets s1
  change Keeps z s1 at h1
  clear_value s1
  split
  · exact .next h1
  split
  · apply ResKeeps.ite <;> intro _
    · exact .next h1
    · extract_lets v
      split
      · exact .next h1
      · exact .next (State.fillDone_keeps h1 _ _ _ _ _)
  · exact .next h1

theorem State.segDone_keeps {z s : State} (h : Keeps z s) (g : Nat) (acq : Nat) (x : Seg) :
    Keeps z (State.segDone s g acq x) := by
  unfold State.segDone
  repeat' first
    | assumption
    | with_reducible apply State.event_keeps
    | dsimp only
    | split

theorem State.completeSeg_keeps {z s : State} (h : Keeps z s) (g : Nat) (r : Run) :
    Keeps z (State.completeSeg s g r) := by
  unfold State.completeSeg
  repeat' first
    | assumption
    | with_reducible apply Keeps.updRec
    | with_reducible apply State.updDir_keeps
    | with_reducible apply State.segDone_keeps
    | dsimp only
    | split

theorem State.endIfComplete_keeps {z s : State} (h : Keeps z s) (g : Nat) :
    Keeps z (State.endIfComplete s g) := by
  unfold State.endIfComplete
  repeat' first
    | assumption
    | with_reducible apply State.endAcq_keeps
    | split

theorem execSegmentComplete_keeps {z s : State} (h : Keeps z s) (g : Nat) :
    ResKeeps z (execSegmentComplete g s) := by
  unfold execSegmentComplete
  repeat' first
    | assumption
    | with_reducible apply ResKeeps.next
    | with_reducible apply ResKeeps.ite
    | with_reducible apply State.completeSeg_keeps
    | with_reducible apply State.endIfComplete_keeps
    | intro _
    | split

theorem State.storeRecord_keeps {z s : State} (h : Keeps z s) (r : Run) (w : WriteOut) :
    Keeps z (State.storeRecord s r w) := by
  unfold State.storeRecord
  repeat' first
    | assumption
    | with_reducible apply Keeps.forEach
    | with_reducible apply Keeps.putZeros
    | with_reducible apply State.putBytes_keeps
    | intro _

theorem State.writeoutDone_keeps {z s : State} (h : Keeps z s) (g : Nat) :
    Keeps z (State.writeoutDone s g) := by
  unfold State.writeoutDone
  repeat' first
    | assumption
    | with_reducible apply Keeps.forEach
    | with_reducible apply Keeps.updPondCh
    | with_reducible apply Keeps.updRun
    | with_reducible apply State.putDesc_keeps
    | with_reducible apply State.completeSeg_keeps
    | with_reducible apply State.storeRecord_keeps
    | intro _
    | dsimp only
    | split

theorem execAvgWriteoutDone_keeps {z s : State} (h : Keeps z s) (g : Nat) :
    ResKeeps z (execAvgWriteoutDone g s) := by
  unfold execAvgWriteoutDone
  repeat' first
    | assumption
    | with_reducible apply ResKeeps.next
    | with_reducible apply State.closeDue_keeps
    | with_reducible apply State.endIfComplete_keeps
    | with_reducible apply State.writeoutDone_keeps

theorem State.storeFrame_keeps {z s : State} (h : Keeps z s) (g : Nat) (r : Run) (a : AcqRec) (ps : List Part) :
    Keeps z (State.storeFrame s g r a ps) := by
  unfold State.storeFrame
  repeat' first
    | assumption
    | with_reducible apply Keeps.updRun
    | with_reducible apply Keeps.updTrg
    | with_reducible apply State.event_keeps
    | with_reducible apply State.putDesc_keeps
    | with_reducible apply State.countSnd_keeps
    | with_reducible apply State.updDir_keeps
    | with_reducible apply State.queueSeg_keeps
    | with_reducible apply State.storeParts_keeps
    | dsimp only
    | split

theorem State.openFrame_keeps {z s : State} (h : Keeps z s) (g : Nat) (t : Nat) :
    Keeps z (State.openFrame s g t) := by
  unfold State.openFrame
  repeat' first
    | assumption
    | with_reducible apply Keeps.updRec
    | with_reducible apply Keeps.updRun
    | with_reducible apply State.openSlot_keeps
    | dsimp only
    | split

theorem State.frameDone_keeps {z s : State} (h : Keeps z s) (g : Nat) (r : Run) :
    Keeps z (State.frameDone s g r) := by
  unfold State.frameDone
  repeat' first
    | assumption
    | with_reducible apply Keeps.updRun
    | with_reducible apply State.remember_keeps
    | with_reducible apply State.clearNumbering_keeps
    | with_reducible apply State.abortForces_keeps
    | with_reducible apply State.stopJudging_keeps
    | with_reducible apply State.stopAt_keeps
    | with_reducible apply State.openFrame_keeps
    | dsimp only
    | split

theorem execStreamFrameEnd_keeps {z s : State} (h : Keeps z s) (g : Nat) (feeds : List Feed) : ResKeeps z (execStreamFrameEnd g feeds s) := by
  unfold execStreamFrameEnd
  have h1 := State.take_keeps h feeds
  extract_lets s1
  change Keeps z s1 at h1
  clear_value s1
  split
  · exact .next h1
  split
  · apply ResKeeps.ite <;> intro _
    · exact .next h1
    apply ResKeeps.ite <;> intro _
    · exact .next (State.frameDone_keeps h1 _ _)
    · extract_lets v
      split
      · exact .next h1
      · exact .next (State.frameDone_keeps (Keeps.under h1 _ _ (fun _ _ hs => State.storeFrame_keeps hs _ _ _ _)) _ _)
  · exact .next h1

theorem State.storeRoll_keeps {z s : State} (h : Keeps z s) (g : Nat) (r : Run) (a : AcqRec) (ps : List Part) :
    Keeps z (State.storeRoll s g r a ps) := by
  unfold State.storeRoll
  repeat' first
    | assumption
    | with_reducible apply Keeps.forEach
    | with_reducible apply Keeps.putZeros
    | with_reducible apply State.putBytes_keeps
    | with_reducible apply State.putDesc_keeps
    | with_reducible apply State.queueSeg_keeps
    | intro _

theorem execAcquisitionEnded_keeps {z s : State} (h : Keeps z s) (g : Nat) (feeds : List Feed) : ResKeeps z (execAcquisitionEnded g feeds s) := by
  unfold execAcquisitionEnded
  have h1 := State.closeDue_keeps (State.take_keeps h feeds) g
  extract_lets s1
  change Keeps z s1 at h1
  clear_value s1
  split
  · exact .next h1
  split
  · apply ResKeeps.ite <;> intro _
    · split
      · exact .next h1
      · exact .next (State.endAcq_keeps (State.completeSeg_keeps (State.storeRoll_keeps h1 _ _ _ _) _ _) _ _)
    · exact ResKeeps.ite (fun _ => .next (State.endAcq_keeps h1 _ _)) (fun _ => .next h1)
  · exact .next h1

end Sys2Proof.Machine
end

