-- ==== Sys2Proof/Laws/KeepsSpring.lean ====
section
/-! SUPPORT. `Keeps` for the operations and meanings of Machine/Spring.lean. -/

namespace Sys2Proof.Machine

theorem State.reselect_keeps {z s : State} (h : Keeps z s) (wasHold : Bool) :
    Keeps z (State.reselect s wasHold) := by
  unfold State.reselect
  repeat' first
    | assumption
    | with_reducible apply Keeps.updBcn
    | with_reducible apply State.event_keeps
    | dsimp only
    | split

theorem State.rechoose_keeps {z s : State} (h : Keeps z s) :
    Keeps z (State.rechoose s) := by
  unfold State.rechoose
  repeat' first
    | assumption
    | with_reducible apply State.reselect_keeps

theorem State.restartArr_keeps {z s : State} (h : Keeps z s) :
    Keeps z (State.restartArr s) := by
  unfold State.restartArr
  repeat' first
    | assumption
    | with_reducible apply Keeps.updBcn

theorem State.markBase_keeps {z s : State} (h : Keeps z s) :
    Keeps z (State.markBase s) := by
  unfold State.markBase
  repeat' first
    | assumption
    | with_reducible apply Keeps.updTb

theorem State.shiftTb_keeps {z s : State} (h : Keeps z s) (d : Int) :
    Keeps z (State.shiftTb s d) := by
  unfold State.shiftTb
  repeat' first
    | assumption
    | with_reducible apply Keeps.updBcn
    | with_reducible apply Keeps.updTb
    | with_reducible apply State.restartArr_keeps
    | with_reducible apply State.markBase_keeps

theorem State.stepTb_keeps {z s : State} (h : Keeps z s) (d : Int) :
    Keeps z (State.stepTb s d) := by
  unfold State.stepTb
  repeat' first
    | assumption
    | with_reducible apply Keeps.updTb
    | with_reducible apply State.shiftTb_keeps

theorem State.toSpr_keeps {z s : State} (h : Keeps z s) (st : SprSt) :
    Keeps z (State.toSpr s st) := by
  unfold State.toSpr
  repeat' first
    | assumption
    | with_reducible apply Keeps.updSpr

theorem State.slewBy_keeps {z s : State} (h : Keeps z s) (fs : Int) (beacon : Bool) :
    Keeps z (State.slewBy s fs beacon) := by
  unfold State.slewBy
  repeat' first
    | assumption
    | with_reducible apply Keeps.updSpr
    | with_reducible apply State.toSpr_keeps

theorem State.actSlew_keeps {z s : State} (h : Keeps z s) (j : Int) :
    Keeps z (State.actSlew s j) := by
  unfold State.actSlew
  repeat' first
    | assumption
    | with_reducible apply Keeps.updSpr
    | with_reducible apply State.slewBy_keeps

theorem State.actStep_keeps {z s : State} (h : Keeps z s) (j : Int) : Keeps z (State.actStep s j) := by
  unfold State.actStep
  exact State.lockEvent_keeps (State.toSpr_keeps ((State.stepTb_keeps h _).updSpr _) _) _ _ _

theorem State.returnBy_keeps {z s : State} (h : Keeps z s) (a : ReturnAct) (j : Int) :
    Keeps z (State.returnBy s a j) := by
  unfold State.returnBy
  repeat' first
    | assumption
    | with_reducible apply Keeps.updSpr

theorem State.returned_keeps {z s : State} (h : Keeps z s) :
    Keeps z (State.returned s) := by
  unfold State.returned
  repeat' first
    | assumption
    | with_reducible apply Keeps.updSpr
    | with_reducible apply State.rechoose_keeps
    | with_reducible apply State.actSlew_keeps
    | with_reducible apply State.actStep_keeps
    | dsimp only
    | split

theorem State.measureRef_keeps {z s : State} (h : Keeps z s) :
    Keeps z (State.measureRef s) := by
  unfold State.measureRef
  repeat' first
    | assumption
    | with_reducible apply Keeps.updSpr
    | with_reducible apply State.draw_keeps

theorem State.startRelock_keeps {z s : State} (h : Keeps z s) (next : Nat × Nat × Nat × Nat × Nat) (hold : Bool) (tag : Option Nat) :
    Keeps z (State.startRelock s next hold tag) := by
  unfold State.startRelock
  repeat' first
    | assumption
    | with_reducible apply Keeps.updSpr
    | with_reducible apply State.rechoose_keeps
    | with_reducible apply State.toSpr_keeps

theorem execSetSampleRate_keeps {z s : State} (h : Keeps z s) (q : Nat) :
    ResKeeps z (execSetSampleRate q s) := by
  unfold execSetSampleRate
  repeat' first
    | assumption
    | with_reducible apply CmdOut.Keeps.ite
    | with_reducible apply CmdOut.Keeps.wait
    | with_reducible apply CmdOut.keeps_refuse
    | with_reducible apply Keeps.updJ
    | with_reducible apply runCmd_keeps
    | with_reducible apply State.startRelock_keeps
    | intro _

theorem State.refFields_keeps {z s : State} (h : Keeps z s) (p : Packet) :
    Keeps z (State.refFields s p) := by
  unfold State.refFields
  repeat' first
    | assumption
    | with_reducible apply Keeps.updSpr
    | dsimp only
    | split

theorem State.returnAction_keeps {z s : State} (h : Keeps z s) (action : Nat) (jumpNow : Int) :
    Keeps z (State.returnAction s action jumpNow).1 := by
  unfold State.returnAction
  repeat' first
    | assumption
    | with_reducible apply Keeps.updSpr
    | with_reducible apply State.slewBy_keeps
    | with_reducible apply State.returnBy_keeps
    | dsimp only
    | split

theorem execSetReference_keeps {z s : State} (h : Keeps z s) (q : Nat) (jumpNow : Int) :
    ResKeeps z (execSetReference q jumpNow s) := by
  unfold execSetReference
  repeat' first
    | assumption
    | with_reducible apply CmdOut.Keeps.ite
    | with_reducible apply CmdOut.Keeps.done
    | with_reducible apply CmdOut.Keeps.wait
    | with_reducible apply CmdOut.keeps_refuse
    | with_reducible apply Keeps.updJ
    | with_reducible apply runCmd_keeps
    | with_reducible apply State.rechoose_keeps
    | with_reducible apply State.startRelock_keeps
    | with_reducible apply State.refFields_keeps
    | with_reducible apply State.returnAction_keeps
    | intro _

theorem State.outStart_keeps {z s : State} (h : Keeps z s) (k : Nat) :
    Keeps z (State.outStart s k) := by
  unfold State.outStart
  repeat' first
    | assumption
    | with_reducible apply Keeps.updSpr

theorem State.outApplied_keeps {z s : State} (h : Keeps z s) (s0 : State) (k : Nat) :
    Keeps z (State.outApplied s s0 k) := by
  unfold State.outApplied
  repeat' first
    | assumption
    | with_reducible apply Keeps.updSpr
    | with_reducible apply State.outStart_keeps
    | split

theorem State.loadOuts_keeps {z s : State} (h : Keeps z s) :
    Keeps z (State.loadOuts s) := by
  unfold State.loadOuts
  repeat' first
    | assumption
    | with_reducible apply State.putRegs_keeps
    | split

theorem State.applyDivider_keeps {z s : State} (h : Keeps z s) :
    Keeps z (State.applyDivider s) := by
  unfold State.applyDivider
  repeat' first
    | assumption
    | with_reducible apply Keeps.updPwr
    | with_reducible apply State.applyGen_keeps
    | with_reducible apply State.loadOuts_keeps
    | dsimp only
    | split

theorem execDividerBoundary_keeps {z s : State} (h : Keeps z s) :
    ResKeeps z (execDividerBoundary s) := by
  unfold execDividerBoundary
  repeat' first
    | assumption
    | with_reducible apply ResKeeps.next
    | with_reducible apply ResKeeps.ite
    | with_reducible apply Keeps.forEach
    | with_reducible apply Keeps.updSpr
    | with_reducible apply State.outApplied_keeps
    | with_reducible apply State.applyDivider_keeps
    | intro _

theorem State.stacksSr_keeps {z s : State} (h : Keeps z s) (enter : Bool) :
    Keeps z (State.stacksSr s enter) := by
  unfold State.stacksSr
  repeat' first
    | assumption
    | with_reducible exact rfl
    | with_reducible apply Keeps.updRsv

theorem execSpringGate_keeps {z s : State} (h : Keeps z s) :
    ResKeeps z (execSpringGate s) := by
  unfold execSpringGate
  repeat' first
    | assumption
    | with_reducible apply ResKeeps.next
    | with_reducible apply ResKeeps.ite
    | with_reducible apply Keeps.updLtn
    | with_reducible apply Keeps.updSpr
    | with_reducible apply Keeps.updTb
    | with_reducible apply State.finishWaits_keeps
    | with_reducible apply State.markBase_keeps
    | with_reducible apply State.stacksSr_keeps
    | intro _

theorem State.outRelease_keeps {z s : State} (h : Keeps z s) :
    Keeps z (State.outRelease s) := by
  unfold State.outRelease
  repeat' first
    | assumption
    | with_reducible apply Keeps.forEach
    | with_reducible apply Keeps.updSpr
    | with_reducible apply State.outStart_keeps
    | with_reducible apply State.applyDivider_keeps
    | intro _
    | dsimp only
    | split

theorem State.resume_keeps {z s : State} (h : Keeps z s) (count : BitVec 64) :
    Keeps z (State.resume s count) := by
  unfold State.resume
  repeat' first
    | assumption
    | with_reducible apply Keeps.updBcn
    | with_reducible apply Keeps.updLtn
    | with_reducible apply Keeps.updSpr
    | with_reducible apply Keeps.updTb
    | with_reducible apply State.newFrame_keeps
    | with_reducible apply State.newFs_keeps
    | with_reducible apply State.measureRef_keeps
    | with_reducible apply State.stacksSr_keeps
    | with_reducible apply State.outRelease_keeps
    | dsimp only
    | split

theorem State.release_keeps {z s : State} (h : Keeps z s) (g : Nat) :
    Keeps z (State.release s g) := by
  unfold State.release
  repeat' first
    | assumption
    | with_reducible apply Keeps.updSpr
    | with_reducible apply State.lockEvent_keeps
    | with_reducible apply State.rechoose_keeps
    | with_reducible apply State.toSpr_keeps
    | with_reducible apply State.resume_keeps

theorem State.firstLock_keeps {z s : State} (h : Keeps z s) :
    Keeps z (State.firstLock s) := by
  unfold State.firstLock
  repeat' first
    | assumption
    | with_reducible apply Keeps.updSpr
    | with_reducible apply Keeps.updTb
    | with_reducible apply State.lockEvent_keeps
    | with_reducible apply State.rechoose_keeps
    | with_reducible apply State.toSpr_keeps
    | with_reducible apply State.measureRef_keeps

theorem State.compareAll_keeps {z s : State} (h : Keeps z s) (cs : List PdRun) :
    Keeps z (State.compareAll s cs) := by
  unfold State.compareAll
  repeat' first
    | assumption
    | with_reducible apply Keeps.updSpr

theorem State.holdover_keeps {z s : State} (h : Keeps z s) (cause : Nat) :
    Keeps z (State.holdover s cause) := by
  unfold State.holdover
  repeat' first
    | assumption
    | with_reducible apply Keeps.updSpr
    | with_reducible apply State.event_keeps
    | with_reducible apply State.rechoose_keeps
    | with_reducible apply State.toSpr_keeps

theorem execLossOfLock_keeps {z s : State} (h : Keeps z s) (cmps : List PdRun) :
    ResKeeps z (execLossOfLock cmps s) := by
  unfold execLossOfLock
  repeat' first
    | assumption
    | with_reducible apply ResKeeps.next
    | with_reducible apply ResKeeps.ite
    | with_reducible apply Keeps.updSpr
    | with_reducible apply State.log_keeps
    | with_reducible apply State.lockEvent_keeps
    | with_reducible apply State.compareAll_keeps
    | with_reducible apply State.holdover_keeps
    | intro _

theorem execRefLost_keeps {z s : State} (h : Keeps z s) (cause : Nat) :
    ResKeeps z (execRefLost cause s) := by
  unfold execRefLost
  repeat' first
    | assumption
    | with_reducible apply ResKeeps.next
    | with_reducible apply ResKeeps.ite
    | with_reducible apply Keeps.updSpr
    | with_reducible apply State.log_keeps
    | with_reducible apply State.event_keeps
    | with_reducible apply State.measureRef_keeps
    | with_reducible apply State.holdover_keeps
    | intro _

theorem execRefReturn_keeps {z s : State} (h : Keeps z s) (jump : Int) :
    ResKeeps z (execRefReturn jump s) := by
  unfold execRefReturn
  repeat' first
    | assumption
    | with_reducible apply ResKeeps.next
    | with_reducible apply ResKeeps.ite
    | with_reducible apply Keeps.updSpr
    | with_reducible apply State.event_keeps
    | with_reducible apply State.returnBy_keeps
    | with_reducible apply State.measureRef_keeps
    | intro _
    | split

theorem execSlewDone_keeps {z s : State} (h : Keeps z s) :
    ResKeeps z (execSlewDone s) := by
  unfold execSlewDone
  repeat' first
    | assumption
    | with_reducible apply ResKeeps.next
    | with_reducible apply ResKeeps.ite
    | with_reducible apply Keeps.updSpr
    | with_reducible apply State.lockEvent_keeps
    | with_reducible apply State.rechoose_keeps
    | with_reducible apply State.restartArr_keeps
    | with_reducible apply State.toSpr_keeps
    | intro _

theorem execFreeRunRelock_keeps {z s : State} (h : Keeps z s) :
    ResKeeps z (execFreeRunRelock s) := by
  unfold execFreeRunRelock
  repeat' first
    | assumption
    | with_reducible apply ResKeeps.next
    | with_reducible apply ResKeeps.ite
    | with_reducible apply Keeps.updSpr
    | with_reducible apply State.startRelock_keeps
    | intro _
    | split

theorem execClockMonitorAlarm_keeps {z s : State} (h : Keeps z s) (what : Nat) :
    ResKeeps z (execClockMonitorAlarm what s) := by
  unfold execClockMonitorAlarm
  repeat' first
    | assumption
    | with_reducible apply ResKeeps.next
    | with_reducible apply ResKeeps.ite
    | with_reducible apply State.raiseAlarm_keeps
    | intro _

theorem execTbWrap_keeps {z s : State} (h : Keeps z s) :
    ResKeeps z (execTbWrap s) := by
  unfold execTbWrap
  repeat' first
    | assumption
    | with_reducible apply ResKeeps.next
    | with_reducible apply ResKeeps.ite
    | with_reducible apply State.tick_keeps
    | intro _

end Sys2Proof.Machine
end

