-- ==== Sys2Proof/Laws/KeepsTimebase.lean ====
section
/-! SUPPORT. `Keeps` for the operations and meanings of Machine/Timebase.lean. -/

namespace Sys2Proof.Machine

theorem State.setAnchor_keeps {z s : State} (h : Keeps z s) (tb : BitVec 64) (frac : Nat) (sec : Nat) :
    Keeps z (State.setAnchor s tb frac sec) := by
  unfold State.setAnchor
  repeat' first
    | assumption
    | with_reducible apply Keeps.updTb

theorem execTimeSetMap_keeps {z s : State} (h : Keeps z s) (q : Nat) :
    ResKeeps z (execTimeSetMap q s) := by
  unfold execTimeSetMap
  repeat' first
    | assumption
    | with_reducible apply CmdOut.Keeps.ite
    | with_reducible apply CmdOut.Keeps.wait
    | with_reducible apply CmdOut.keeps_refuse
    | with_reducible apply runCmdSel_keeps
    | intro _

theorem execTimeSetLoad_keeps {z s : State} (h : Keeps z s) (q : Nat) :
    ResKeeps z (execTimeSetLoad q s) := by
  unfold execTimeSetLoad
  repeat' first
    | assumption
    | with_reducible apply CmdOut.Keeps.ite
    | with_reducible apply CmdOut.Keeps.wait
    | with_reducible apply CmdOut.keeps_refuse
    | with_reducible apply runCmdSel_keeps
    | intro _

theorem execTimeSetManual_keeps {z s : State} (h : Keeps z s) (q : Nat) :
    ResKeeps z (execTimeSetManual q s) := by
  unfold execTimeSetManual
  repeat' first
    | assumption
    | with_reducible apply CmdOut.Keeps.ite
    | with_reducible apply CmdOut.Keeps.done
    | with_reducible apply CmdOut.keeps_refuse
    | with_reducible apply runCmdSel_keeps
    | with_reducible apply State.setAnchor_keeps
    | intro _

theorem execTimeSetTimeout_keeps {z s : State} (h : Keeps z s) (q : Nat) :
    ResKeeps z (execTimeSetTimeout q s) := by
  unfold execTimeSetTimeout
  repeat' first
    | assumption
    | with_reducible apply ResKeeps.next
    | with_reducible apply ResKeeps.ite
    | with_reducible apply State.finish_keeps
    | intro _
    | split

theorem State.timeSetAct_keeps {z s : State} (h : Keeps z s) (t : Int) (e : JEntry) :
    Keeps z (State.timeSetAct s t e) := by
  unfold State.timeSetAct
  repeat' first
    | assumption
    | with_reducible apply State.finish_keeps
    | with_reducible apply State.shiftTb_keeps
    | with_reducible apply State.setAnchor_keeps
    | dsimp only
    | split

theorem execPpsInEdge_keeps {z s : State} (h : Keeps z s) (stamp : Nat) (rise : Bool) :
    ResKeeps z (execPpsInEdge stamp rise s) := by
  unfold execPpsInEdge
  repeat' first
    | assumption
    | with_reducible apply ResKeeps.next
    | with_reducible apply ResKeeps.ite
    | with_reducible apply Keeps.forEach
    | with_reducible apply Keeps.updTb
    | with_reducible apply State.timeSetAct_keeps
    | intro _

theorem execPpsMissing_keeps {z s : State} (h : Keeps z s) :
    ResKeeps z (execPpsMissing s) := by
  unfold execPpsMissing
  repeat' first
    | assumption
    | with_reducible apply ResKeeps.next
    | with_reducible apply ResKeeps.ite
    | with_reducible apply Keeps.updTb
    | intro _

theorem execPpsOutPulse_keeps {z s : State} (h : Keeps z s) :
    ResKeeps z (execPpsOutPulse s) := by
  unfold execPpsOutPulse
  repeat' first
    | assumption
    | with_reducible apply ResKeeps.next
    | with_reducible apply ResKeeps.ite
    | with_reducible apply Keeps.updTb
    | intro _
    | dsimp only
    | split

theorem execPtmDialog_keeps {z s : State} (h : Keeps z s) (ns : DWord) (ago : Nat) :
    ResKeeps z (execPtmDialog ns ago s) := by
  unfold execPtmDialog
  repeat' first
    | assumption
    | with_reducible apply ResKeeps.next
    | with_reducible apply ResKeeps.ite
    | with_reducible apply Keeps.updTb
    | with_reducible apply State.tlp_keeps
    | intro _

end Sys2Proof.Machine
end

