-- ==== Sys2Proof/Laws/KeepsBeacon.lean ====
section
/-! SUPPORT. `Keeps` for the operations and meanings of Machine/Beacon.lean. -/

namespace Sys2Proof.Machine

theorem State.linkLog_keeps {z s : State} (h : Keeps z s) (p : Nat) :
    Keeps z (State.linkLog s p) := by
  unfold State.linkLog
  repeat' first
    | assumption
    | with_reducible apply State.log_keeps
    | with_reducible apply State.draw_keeps

theorem State.linkLogged_keeps {z s : State} (h : Keeps z s) (s0 : State) (p : Nat) :
    Keeps z (State.linkLogged s s0 p) := by
  unfold State.linkLogged
  repeat' first
    | assumption
    | with_reducible apply State.linkLog_keeps
    | dsimp only
    | split

theorem State.beaconApply_keeps {z s : State} (h : Keeps z s) (w : Nat) (b : List Byte) : Keeps z (State.beaconApply s w b) := by
  unfold State.beaconApply
  apply State.reselect_keeps
  refine Keeps.forEach ?_ _ _ (fun s p hs => State.linkLogged_keeps hs _ _)
  refine Keeps.ite (fun _ => Keeps.updTb ?_ _) (fun _ => ?_)
  all_goals refine Keeps.ite (fun _ => Keeps.updTb ?_ _) (fun _ => ?_)
  all_goals refine Keeps.ite (fun _ => Keeps.updTb ?_ _) (fun _ => ?_)
  all_goals refine Keeps.ite (fun _ => Keeps.updTb ?_ _) (fun _ => ?_)
  all_goals refine Keeps.ite (fun _ => Keeps.updBcn ?_ _) (fun _ => ?_)
  all_goals exact Keeps.ite (fun _ => Keeps.updBcn h _) (fun _ => h)

theorem execBeaconConfig_keeps {z s : State} (h : Keeps z s) (q : Nat) (tbl : Table) : ResKeeps z (execBeaconConfig q tbl s) := by
  unfold execBeaconConfig
  apply runCmd_keeps h
  intro e
  apply withTable_keeps h
  intro b
  extract_lets w mode period
  refine CmdOut.Keeps.ite (fun _ => CmdOut.keeps_refuse h) (fun _ => ?_)
  exact CmdOut.Keeps.ite (fun _ => CmdOut.keeps_refuse h) (fun _ => .done (State.beaconApply_keeps h _ _))

theorem execBeaconFrameSend_keeps {z s : State} (h : Keeps z s) (p : Nat) :
    ResKeeps z (execBeaconFrameSend p s) := by
  unfold execBeaconFrameSend
  repeat' first
    | assumption
    | with_reducible apply ResKeeps.next
    | with_reducible apply ResKeeps.ite
    | with_reducible apply Keeps.updPort
    | intro _

theorem State.solve_keeps {z s : State} (h : Keeps z s) (p : Nat) :
    Keeps z (State.solve s p) := by
  unfold State.solve
  repeat' first
    | assumption
    | with_reducible apply Keeps.updPort

theorem State.correct_keeps {z s : State} (h : Keeps z s) (theta : Int) :
    Keeps z (State.correct s theta).1 := by
  unfold State.correct
  repeat' first
    | assumption
    | with_reducible apply State.stepTb_keeps
    | with_reducible apply State.slewBy_keeps
    | dsimp only
    | split

theorem State.copyAnchor_keeps {z s : State} (h : Keeps z s) (p : Nat) :
    Keeps z (State.copyAnchor s p) := by
  unfold State.copyAnchor
  repeat' first
    | assumption
    | with_reducible apply Keeps.updTb
    | dsimp only
    | split

theorem State.judgeAligned_keeps {z s : State} (h : Keeps z s) (p : Nat) (theta : Int) :
    Keeps z (State.judgeAligned s p theta) := by
  unfold State.judgeAligned
  repeat' first
    | assumption
    | with_reducible apply Keeps.updBcn
    | with_reducible apply State.lockEvent_keeps
    | with_reducible apply State.copyAnchor_keeps
    | split

theorem State.correctFor_keeps {z s : State} (h : Keeps z s) (p : Nat) :
    Keeps z (State.correctFor s p).1 := by
  unfold State.correctFor
  repeat' first
    | assumption
    | with_reducible apply Keeps.updPort
    | with_reducible apply State.correct_keeps
    | dsimp only
    | split

theorem State.newTheta_keeps {z s : State} (h : Keeps z s) (p : Nat) (named : Bool) :
    Keeps z (State.newTheta s p named) := by
  unfold State.newTheta
  repeat' first
    | assumption
    | with_reducible apply Keeps.updBcn
    | with_reducible apply State.judgeAligned_keeps
    | with_reducible apply State.correctFor_keeps
    | dsimp only
    | split

theorem State.trySolve_keeps {z s : State} (h : Keeps z s) (p : Nat) :
    Keeps z (State.trySolve s p) := by
  unfold State.trySolve
  repeat' first
    | assumption
    | with_reducible apply Keeps.updBcn
    | with_reducible apply State.solve_keeps
    | with_reducible apply State.newTheta_keeps
    | dsimp only
    | split

theorem State.bevReceive_keeps {z s : State} (h : Keeps z s) (p : Nat) (e : BevEvent) : Keeps z (State.bevReceive s p e) := by
  unfold State.bevReceive
  apply Keeps.ite <;> intro _
  · exact Keeps.updBcn h _
  · have h1 := fun f => Keeps.updBcn h f
    apply Keeps.ite <;> intro _
    · apply Keeps.forEach (h1 _)
      intro s g hs
      apply Keeps.ite <;> intro _
      · exact Keeps.updTrg hs _ _
      · exact hs
    · apply State.bevDeliver_keeps
      apply Keeps.ite <;> intro _
      · exact h1 _
      · apply Keeps.forEach (h1 _)
        intro s g hs
        apply Keeps.ite <;> intro _
        · exact State.bevQueue_keeps hs _ _
        · exact hs

theorem execBeaconFrameReceive_keeps {z s : State} (h : Keeps z s) (p : Nat) (f : List Byte) (edge : Nat) :
    ResKeeps z (execBeaconFrameReceive p f edge s) := by
  unfold execBeaconFrameReceive
  repeat' first
    | assumption
    | with_reducible apply ResKeeps.next
    | with_reducible apply ResKeeps.ite
    | with_reducible apply Keeps.forEach
    | with_reducible apply Keeps.updPort
    | with_reducible apply State.reselect_keeps
    | with_reducible apply State.linkLogged_keeps
    | with_reducible apply State.copyAnchor_keeps
    | with_reducible apply State.trySolve_keeps
    | with_reducible apply State.bevReceive_keeps
    | intro _
    | split

theorem execPortDown_keeps {z s : State} (h : Keeps z s) (p : Nat) :
    ResKeeps z (execPortDown p s) := by
  unfold execPortDown
  repeat' first
    | assumption
    | with_reducible apply ResKeeps.next
    | with_reducible apply ResKeeps.ite
    | with_reducible apply Keeps.updPort
    | with_reducible apply State.log_keeps
    | with_reducible apply State.reselect_keeps
    | intro _

theorem execPortSelfTest_keeps {z s : State} (h : Keeps z s) (p : Nat) (pass : Bool) (result : Nat) :
    ResKeeps z (execPortSelfTest p pass result s) := by
  unfold execPortSelfTest
  repeat' first
    | assumption
    | with_reducible apply ResKeeps.next
    | with_reducible apply ResKeeps.ite
    | with_reducible apply Keeps.updPort
    | with_reducible apply State.log_keeps
    | with_reducible apply State.reselect_keeps
    | intro _
    | split

theorem execReceiverLosesAlignment_keeps {z s : State} (h : Keeps z s) (p : Nat) :
    ResKeeps z (execReceiverLosesAlignment p s) := by
  unfold execReceiverLosesAlignment
  repeat' first
    | assumption
    | with_reducible apply ResKeeps.next
    | with_reducible apply ResKeeps.ite
    | with_reducible apply Keeps.updPort
    | intro _

theorem State.judgeRate_keeps {z s : State} (h : Keeps z s) (p : Nat) (old : Int) (prev : Nat) (slot : Nat) :
    Keeps z (State.judgeRate s p old prev slot) := by
  unfold State.judgeRate
  repeat' first
    | assumption
    | with_reducible apply Keeps.updPort
    | with_reducible apply State.log_keeps
    | with_reducible apply State.linkLogged_keeps
    | dsimp only
    | split

theorem execArrMeasured_keeps {z s : State} (h : Keeps z s) (p : Nat) :
    ResKeeps z (execArrMeasured p s) := by
  unfold execArrMeasured
  repeat' first
    | assumption
    | with_reducible apply ResKeeps.next
    | with_reducible apply ResKeeps.ite
    | with_reducible apply Keeps.updPort
    | with_reducible apply State.reselect_keeps
    | with_reducible apply State.trySolve_keeps
    | with_reducible apply State.judgeRate_keeps
    | intro _
    | split

theorem execBeaconMeasure_keeps {z s : State} (h : Keeps z s) (q : Nat) :
    ResKeeps z (execBeaconMeasure q s) := by
  unfold execBeaconMeasure
  repeat' first
    | assumption
    | with_reducible apply CmdOut.Keeps.ite
    | with_reducible apply CmdOut.Keeps.wait
    | with_reducible apply CmdOut.Keeps.hold
    | with_reducible apply CmdOut.keeps_refuse
    | with_reducible apply Keeps.updBcn
    | with_reducible apply runCmd_keeps
    | intro _

theorem execBeaconMeasureDone_keeps {z s : State} (h : Keeps z s) (writeOk : Bool) :
    ResKeeps z (execBeaconMeasureDone writeOk s) := by
  unfold execBeaconMeasureDone
  repeat' first
    | assumption
    | with_reducible apply ResKeeps.next
    | with_reducible apply ResKeeps.ite
    | with_reducible apply Keeps.updBcn
    | with_reducible apply State.hostWrite_keeps
    | with_reducible apply State.finish_keeps
    | with_reducible apply State.logCp7_keeps
    | with_reducible apply State.rechoose_keeps
    | with_reducible apply State.correctFor_keeps
    | intro _
    | dsimp only
    | split

end Sys2Proof.Machine
end

