-- ==== Sys2Proof/Laws/KeepsSequencer.lean ====
section
/-! SUPPORT. `Keeps` for the operations and meanings of Machine/Sequencer.lean. -/

namespace Sys2Proof.Machine

theorem State.updThread_keeps {z s : State} (h : Keeps z s) (k : Nat) (f : Thread → Thread) :
    Keeps z (State.updThread s k f) := by
  unfold State.updThread
  repeat' first
    | assumption
    | (fail_if_no_progress (with_reducible apply Keeps.upd <;> try (show _ = _; rfl)))

theorem State.cancelForces_keeps {z s : State} (h : Keeps z s) :
    Keeps z (State.cancelForces s) := by
  unfold State.cancelForces
  repeat' first
    | assumption
    | (fail_if_no_progress (with_reducible apply Keeps.upd <;> try (show _ = _; rfl)))

theorem State.startRestart_keeps {z s : State} (h : Keeps z s) (r : Restart) :
    Keeps z (State.startRestart s r) := by
  unfold State.startRestart
  repeat' first
    | assumption
    | with_reducible apply Keeps.updCp
    | with_reducible apply State.cancelForces_keeps
    | (show _ = _; rfl)

theorem State.recoveryEvent_keeps {z s : State} (h : Keeps z s) (r : RecoveryIn) (lostEvents : Nat) (journaled : Nat) (requeued : Nat) (notExec : Nat) :
    Keeps z (State.recoveryEvent s r lostEvents journaled requeued notExec) := by
  unfold State.recoveryEvent
  repeat' first
    | assumption
    | with_reducible apply State.event_keeps

theorem State.recoveryGroupEvent_keeps {z s : State} (h : Keeps z s) (r : RecoveryIn) (x : EndedGroup) :
    Keeps z (State.recoveryGroupEvent s r x) := by
  unfold State.recoveryGroupEvent
  repeat' first
    | assumption
    | with_reducible apply State.event_keeps

theorem State.report_keeps {z s : State} (h : Keeps z s) (r : RecoveryIn) (old : List JEntry) (lostEvents : Nat) (ended : List EndedGroup) :
    Keeps z (State.report s r old lostEvents ended) := by
  unfold State.report
  repeat' first
    | assumption
    | with_reducible exact rfl
    | with_reducible apply Keeps.forEach
    | with_reducible apply Keeps.updCp
    | with_reducible apply Keeps.updKpr
    | with_reducible apply Keeps.updPwr
    | with_reducible apply State.recoveryEvent_keeps
    | with_reducible apply State.recoveryGroupEvent_keeps
    | intro _

theorem State.recover_keeps {z s : State} (h : Keeps z s) (r : RecoveryIn) (lostEvents : Nat) (ended : List EndedGroup) :
    Keeps z (State.recover s r lostEvents ended) := by
  unfold State.recover
  repeat' first
    | assumption
    | with_reducible apply Keeps.updCp
    | with_reducible apply State.cancelForces_keeps
    | with_reducible apply State.report_keeps
    | (show _ = _; rfl)

theorem State.recoverDomain_keeps {z s : State} (h : Keeps z s) (r : RecoveryIn) (needs : JEntry → Bool) (ended : List EndedGroup) :
    Keeps z (State.recoverDomain s r needs ended) := by
  unfold State.recoverDomain
  repeat' first
    | assumption
    | with_reducible apply Keeps.updCp
    | with_reducible apply State.report_keeps
    | (show _ = _; rfl)

theorem State.dropRolledBack_keeps {z s : State} (h : Keeps z s) :
    Keeps z (State.dropRolledBack s) := by
  unfold State.dropRolledBack
  repeat' first
    | assumption
    | with_reducible apply Keeps.updBcn
    | split

theorem execLockstepMismatch_keeps {z s : State} (h : Keeps z s) :
    ResKeeps z (execLockstepMismatch s) := by
  unfold execLockstepMismatch
  repeat' first
    | assumption
    | with_reducible exact rfl
    | with_reducible apply ResKeeps.next
    | with_reducible apply ResKeeps.ite
    | with_reducible apply Keeps.updCp
    | with_reducible apply State.raiseAlarm_keeps
    | with_reducible apply State.startRestart_keeps
    | intro _
    | split

theorem State.selfTest_keeps {z s : State} (h : Keeps z s) (aPass : Bool) (bPass : Bool) (mismatch : Bool) :
    Keeps z (State.selfTest s aPass bPass mismatch).1 := by
  unfold State.selfTest
  repeat' first
    | assumption
    | with_reducible exact rfl
    | with_reducible apply Keeps.updCp
    | with_reducible apply State.log_keeps
    | dsimp only
    | split

theorem execSequencerSelfTestDone_keeps {z s : State} (h : Keeps z s) (aPass : Bool) (bPass : Bool) :
    ResKeeps z (execSequencerSelfTestDone aPass bPass s) := by
  unfold execSequencerSelfTestDone
  repeat' first
    | assumption
    | with_reducible exact rfl
    | with_reducible apply ResKeeps.next
    | with_reducible apply ResKeeps.ite
    | with_reducible apply Keeps.updCp
    | with_reducible apply Keeps.updPwr
    | with_reducible apply State.recover_keeps
    | with_reducible apply State.dropRolledBack_keeps
    | with_reducible apply State.selfTest_keeps
    | (show _ = _; rfl)
    | intro _
    | dsimp only
    | split

theorem State.dropAsked_keeps {z s : State} (h : Keeps z s) (e : JEntry) :
    Keeps z (State.dropAsked s e) := by
  unfold State.dropAsked
  repeat' first
    | assumption
    | with_reducible apply State.dropRolledBack_keeps
    | split

theorem State.endCommand_keeps {z s : State} (h : Keeps z s) (k : Nat) (status : Nat) (log : Bool) :
    Keeps z (State.endCommand s k status log) := by
  unfold State.endCommand
  repeat' first
    | assumption
    | with_reducible apply State.finish_keeps
    | with_reducible apply State.logCp7_keeps
    | with_reducible apply State.dropAsked_keeps
    | dsimp only
    | split

theorem State.lockThread_keeps {z s : State} (h : Keeps z s) (k : Nat) :
    Keeps z (State.lockThread s k) := by
  unfold State.lockThread
  repeat' first
    | assumption
    | with_reducible exact rfl
    | with_reducible apply Keeps.updCp
    | with_reducible apply Keeps.updJ
    | with_reducible apply State.log_keeps
    | with_reducible apply State.finish_keeps
    | with_reducible apply State.updThread_keeps
    | with_reducible apply State.startRestart_keeps
    | with_reducible apply State.dropAsked_keeps
    | split

theorem State.listAtTrap_keeps {z s : State} (h : Keeps z s) (k : Nat) (n : Nat) :
    Keeps z (State.listAtTrap s k n) := by
  unfold State.listAtTrap
  repeat' first
    | assumption
    | with_reducible exact rfl
    | with_reducible apply Keeps.updCp
    | split

theorem execMicroTrap_keeps {z s : State} (h : Keeps z s) (k : Nat) (c : TrapCond) :
    ResKeeps z (execMicroTrap k c s) := by
  unfold execMicroTrap
  repeat' first
    | assumption
    | with_reducible apply ResKeeps.next
    | with_reducible apply ResKeeps.ite
    | with_reducible apply State.log_keeps
    | with_reducible apply State.updThread_keeps
    | with_reducible apply State.startRestart_keeps
    | with_reducible apply State.endCommand_keeps
    | with_reducible apply State.lockThread_keeps
    | with_reducible apply State.listAtTrap_keeps
    | with_reducible apply State.draw_keeps
    | intro _
    | dsimp only
    | split

theorem execBlockReplyTimeout_keeps {z s : State} (h : Keeps z s) (q : Nat) :
    ResKeeps z (execBlockReplyTimeout q s) := by
  unfold execBlockReplyTimeout
  repeat' first
    | assumption
    | with_reducible apply ResKeeps.next
    | with_reducible apply State.endCommand_keeps
    | split

theorem execRequeuedExecute_keeps {z s : State} (h : Keeps z s) (q : Nat) :
    ResKeeps z (execRequeuedExecute q s) := by
  unfold execRequeuedExecute
  repeat' first
    | assumption
    | with_reducible apply ResKeeps.next
    | with_reducible apply ResKeeps.ite
    | with_reducible apply Keeps.updJ
    | intro _
    | split

theorem State.copyFail_keeps {z s : State} (h : Keeps z s) (copy : Nat) (cause : Nat) :
    Keeps z (State.copyFail s copy cause) := by
  unfold State.copyFail
  repeat' first
    | assumption
    | with_reducible exact rfl
    | with_reducible apply Keeps.updCp
    | with_reducible apply State.log_keeps
    | dsimp only
    | split

theorem execJournalCopyFail_keeps {z s : State} (h : Keeps z s) (copy : Nat) (cause : Nat) :
    ResKeeps z (execJournalCopyFail copy cause s) := by
  unfold execJournalCopyFail
  repeat' first
    | assumption
    | with_reducible apply ResKeeps.next
    | with_reducible apply State.copyFail_keeps

theorem execJournalBRebuild_keeps {z s : State} (h : Keeps z s) :
    ResKeeps z (execJournalBRebuild s) := by
  unfold execJournalBRebuild
  repeat' first
    | assumption
    | with_reducible exact rfl
    | with_reducible apply ResKeeps.next
    | with_reducible apply ResKeeps.ite
    | with_reducible apply Keeps.updCp
    | intro _

theorem execBadOpcode_keeps {z s : State} (h : Keeps z s) (q : Nat) :
    ResKeeps z (execBadOpcode q s) := by
  unfold execBadOpcode
  repeat' first
    | assumption
    | with_reducible apply ResKeeps.next
    | with_reducible apply ResKeeps.ite
    | with_reducible apply State.finish_keeps
    | intro _
    | split

theorem execDuplicateCommand_keeps {z s : State} (h : Keeps z s) (q : Nat) :
    ResKeeps z (execDuplicateCommand q s) := by
  unfold execDuplicateCommand
  repeat' first
    | assumption
    | with_reducible apply ResKeeps.next
    | with_reducible apply ResKeeps.ite
    | with_reducible apply State.finish_keeps
    | intro _
    | split

end Sys2Proof.Machine
end

