-- ==== Sys2Proof/Laws/KeepsDirectory.lean ====
section
/-! SUPPORT. `Keeps` for the operations and meanings of Machine/Directory.lean. -/

namespace Sys2Proof.Machine

theorem State.releaseSegs_keeps {z s : State} (h : Keeps z s) (a : AcqRec) (p : Nat → Bool) :
    Keeps z (State.releaseSegs s a p) := by
  unfold State.releaseSegs
  repeat' first
    | assumption
    | with_reducible exact rfl
    | with_reducible apply Keeps.forEach
    | with_reducible apply Keeps.updRsv
    | with_reducible apply State.undefine_keeps
    | with_reducible apply State.updDir_keeps
    | intro _

theorem State.tryRelease_keeps {z s : State} (h : Keeps z s) (g acq first count : Nat) {r : State × Nat}
    (hr : State.tryRelease s g acq first count = some r) : Keeps z r.1 := by
  unfold State.tryRelease at hr
  dsimp only at hr
  split at hr
  · split at hr
    · simp at hr
    · cases hr; exact h
  · rename_i a _
    have hk : ∀ m (k : Nat), (s.releaseSegs a m, k) = r → Keeps z r.1 := fun m k he => he ▸ State.releaseSegs_keeps h a m
    repeat' split at hr
    all_goals first
      | (simp at hr; done)
      | exact hk _ _ (Option.some.inj hr)

theorem execRecordRelease_keeps {z s : State} (h : Keeps z s) (q : Nat) : ResKeeps z (execRecordRelease q s) := by
  unfold execRecordRelease
  apply runCmd_keeps h
  intro e
  dsimp only
  split
  · exact CmdOut.keeps_refuse h
  · rename_i t n ht
    exact .done (State.tryRelease_keeps h _ _ _ _ ht)

theorem execRecordQuery_keeps {z s : State} (h : Keeps z s) (q : Nat) (writeOk : Bool) :
    ResKeeps z (execRecordQuery q writeOk s) := by
  unfold execRecordQuery
  repeat' first
    | assumption
    | with_reducible apply CmdOut.Keeps.ite
    | with_reducible apply CmdOut.Keeps.done
    | with_reducible apply runCmd_keeps
    | with_reducible apply withReport_keeps
    | intro _

theorem State.flushSegs_keeps {z s : State} (h : Keeps z s) (n g : Nat) (r : Run) : Keeps z (State.flushSegs n s g r) := by
  induction n generalizing s with
  | zero => exact h
  | succ n ih => unfold State.flushSegs; exact ih (State.completeSeg_keeps h _ _)

theorem State.keepRecord_keeps {z s : State} (h : Keeps z s) (g : Nat) (r : Run) (t : TrigInfo) (ps : Option (List Part)) :
    Keeps z (State.keepRecord s g r t ps) := by
  unfold State.keepRecord
  repeat' first
    | assumption
    | with_reducible apply Keeps.under
    | with_reducible apply Keeps.updRun
    | with_reducible apply Keeps.updTrg
    | with_reducible apply State.queueSeg_keeps
    | with_reducible apply State.fillSweep_keeps
    | intro _
    | split

theorem State.keepEnded_keeps {z s : State} (h : Keeps z s) (g : Nat) (r : Run) (a : AcqRec) (keep : Bool) :
    Keeps z (State.keepEnded s g r a keep) := by
  unfold State.keepEnded
  repeat' first
    | assumption
    | with_reducible apply Keeps.under
    | with_reducible apply Keeps.updTrg
    | with_reducible apply State.queueSeg_keeps
    | with_reducible apply State.fillSegment_keeps
    | with_reducible apply State.storeFrame_keeps
    | with_reducible apply State.storeRoll_keeps
    | with_reducible apply State.keepRecord_keeps
    | intro _
    | dsimp only
    | split

theorem State.finishWrites_keeps {z s : State} (h : Keeps z s) (n g : Nat) : Keeps z (State.finishWrites n s g) := by
  induction n generalizing s with
  | zero => exact h
  | succ n ih => unfold State.finishWrites; exact ih (State.writeoutDone_keeps h _)

theorem State.forceEnd_keeps {z s0 : State} (h : Keeps z s0) (g : Nat) (reason : EndReason) (keep : Bool) :
    Keeps z (State.forceEnd s0 g reason keep) := by
  unfold State.forceEnd
  repeat' first
    | assumption
    | with_reducible apply Keeps.updRun
    | with_reducible apply State.updDir_keeps
    | with_reducible apply State.endAcq_keeps
    | with_reducible apply State.closeRecord_keeps
    | with_reducible apply State.closeDue_keeps
    | with_reducible apply State.flushSegs_keeps
    | with_reducible apply State.keepEnded_keeps
    | with_reducible apply State.finishWrites_keeps
    | dsimp only
    | split

theorem State.endGroups_keeps {z s : State} (h : Keeps z s) (p : Nat → Bool) (reason : EndReason) (keep : Bool) :
    Keeps z (State.endGroups s p reason keep).1 :=
  Keeps.forEach h _ _ (fun _ _ hs => State.forceEnd_keeps hs _ _ _)

theorem State.updStack_keeps {z s : State} (h : Keeps z s) (k : Nat) (f : Stack → Stack) :
    Keeps z (State.updStack s k f) := by
  unfold State.updStack
  repeat' first
    | assumption
    | with_reducible exact rfl
    | with_reducible apply Keeps.updRsv

theorem State.markLost_keeps {z s : State} (h : Keeps z s) (half : Bool) :
    Keeps z (State.markLost s half) := by
  unfold State.markLost
  repeat' first
    | assumption
    | with_reducible exact rfl
    | with_reducible apply Keeps.updRsv
    | with_reducible apply State.draw_keeps

theorem State.secondStack_keeps {z s : State} (h : Keeps z s) (k : Nat) (cause : Nat) :
    Keeps z (State.secondStack s k cause) := by
  unfold State.secondStack
  repeat' first
    | assumption
    | with_reducible exact rfl
    | with_reducible apply Keeps.updRsv
    | with_reducible apply State.log_keeps
    | with_reducible apply State.markLost_keeps
    | with_reducible apply State.endGroups_keeps
    | split

theorem State.startRebuild_keeps {z s : State} (h : Keeps z s) (k : Nat) :
    Keeps z (State.startRebuild s k) := by
  unfold State.startRebuild
  repeat' first
    | assumption
    | with_reducible exact rfl
    | with_reducible apply Keeps.updRsv
    | with_reducible apply State.draw_keeps
    | dsimp only
    | split

theorem State.stackFault_keeps {z s : State} (h : Keeps z s) (k : Nat) (cause : Nat) :
    Keeps z (State.stackFault s k cause) := by
  unfold State.stackFault
  repeat' first
    | assumption
    | with_reducible exact rfl
    | with_reducible apply Keeps.updRsv
    | with_reducible apply State.log_keeps
    | with_reducible apply State.updStack_keeps
    | with_reducible apply State.markLost_keeps
    | with_reducible apply State.secondStack_keeps
    | dsimp only
    | split

theorem execStackFailure_keeps {z s : State} (h : Keeps z s) (k : Nat) (cause : Nat) :
    ResKeeps z (execStackFailure k cause s) := by
  unfold execStackFailure
  repeat' first
    | assumption
    | with_reducible apply ResKeeps.next
    | with_reducible apply State.startRebuild_keeps
    | with_reducible apply State.stackFault_keeps
    | split

theorem execRebuildDone_keeps {z s : State} (h : Keeps z s) :
    ResKeeps z (execRebuildDone s) := by
  unfold execRebuildDone
  repeat' first
    | assumption
    | with_reducible exact rfl
    | with_reducible apply ResKeeps.next
    | with_reducible apply ResKeeps.ite
    | with_reducible apply Keeps.updRsv
    | with_reducible apply State.updStack_keeps
    | intro _
    | split

theorem State.rowFault_keeps {z s : State} (h : Keeps z s) (k : Nat) (row : Nat) :
    Keeps z (State.rowFault s k row) := by
  unfold State.rowFault
  repeat' first
    | assumption
    | with_reducible apply State.log_keeps
    | with_reducible apply State.updStack_keeps
    | with_reducible apply State.stackFault_keeps
    | dsimp only
    | split

theorem State.eccCorrected_keeps {z s : State} (h : Keeps z s) (x : Nat × Nat) :
    Keeps z (State.eccCorrected s x) := by
  unfold State.eccCorrected
  repeat' first
    | assumption
    | with_reducible apply State.updStack_keeps
    | with_reducible apply State.rowFault_keeps
    | dsimp only
    | split

theorem State.eccRebuilt_keeps {z s : State} (h : Keeps z s) (x : Nat × Nat) :
    Keeps z (State.eccRebuilt s x) := by
  unfold State.eccRebuilt
  repeat' first
    | assumption
    | with_reducible apply State.log_keeps
    | with_reducible apply State.updStack_keeps
    | with_reducible apply State.stackFault_keeps
    | with_reducible apply State.rowFault_keeps
    | dsimp only
    | split

theorem State.eccApply_keeps {z s : State} (h : Keeps z s) (r : EccReport) :
    Keeps z (State.eccApply s r) := by
  unfold State.eccApply
  repeat' first
    | assumption
    | with_reducible apply Keeps.forEach
    | with_reducible apply State.eccCorrected_keeps
    | with_reducible apply State.eccRebuilt_keeps
    | intro _

end Sys2Proof.Machine
end

