-- ==== Sys2Proof/Laws/KeepsLamp.lean ====
section
/-! SUPPORT. `Keeps` for the operations and meanings of Machine/Lamp.lean. -/

namespace Sys2Proof.Machine

theorem State.lampStatus_keeps {z s : State} (h : Keeps z s) (i : Nat) (x : LampDiag) :
    Keeps z (State.lampStatus s i x) := by
  unfold State.lampStatus
  repeat' first
    | assumption
    | with_reducible apply Keeps.updLamp
    | with_reducible apply State.event_keeps
    | dsimp only
    | split

theorem State.lampFind_keeps {z s : State} (h : Keeps z s) (i : Nat) (f : LampDiag) :
    Keeps z (State.lampFind s i f) := by
  unfold State.lampFind
  repeat' first
    | assumption
    | with_reducible apply Keeps.updLamp
    | with_reducible apply State.lampStatus_keeps
    | dsimp only
    | split

theorem State.lampForget_keeps {z s : State} (h : Keeps z s) (i : Nat) :
    Keeps z (State.lampForget s i) := by
  unfold State.lampForget
  repeat' first
    | assumption
    | with_reducible apply Keeps.updLamp
    | with_reducible apply State.lampStatus_keeps

theorem State.lampAge_keeps {z s : State} (h : Keeps z s) (i : Nat) :
    Keeps z (State.lampAge s i) := by
  unfold State.lampAge
  repeat' first
    | assumption
    | with_reducible apply Keeps.updLamp
    | with_reducible apply State.lampForget_keeps
    | dsimp only
    | split

theorem State.lampBlind_keeps {z s : State} (h : Keeps z s) (i : Nat) :
    Keeps z (State.lampBlind s i) := by
  unfold State.lampBlind
  repeat' first
    | assumption
    | with_reducible apply State.lampForget_keeps
    | split

theorem State.lampCurrent_keeps {z s : State} (h : Keeps z s) :
    Keeps z (State.lampCurrent s) := by
  unfold State.lampCurrent
  repeat' first
    | assumption
    | with_reducible apply Keeps.updLamp

theorem State.lampSlot_keeps {z s : State} (h : Keeps z s) (ticks : Nat) (run : State → State) (hr : ∀ s, Keeps z s → Keeps z (run s)) :
    Keeps z (State.lampSlot s ticks run) := by
  unfold State.lampSlot
  apply Keeps.ite <;> intro _
  · have h1 := fun f => Keeps.updLamp h f
    apply Keeps.ite <;> intro _
    · exact h1 _
    · exact Keeps.updLamp (State.event_keeps (h1 _) _ _ _ _ _) _
  · have h1 := fun f => Keeps.updLamp h f
    apply Keeps.ite <;> intro _
    · exact hr _ (h1 _)
    · apply Keeps.ite <;> intro _
      · exact h1 _
      · exact Keeps.updLamp (h1 _) _

theorem State.lampStart_keeps {z s : State} (h : Keeps z s) :
    Keeps z (State.lampStart s) := by
  unfold State.lampStart
  repeat' first
    | assumption
    | with_reducible apply Keeps.updLamp
    | dsimp only
    | split

theorem State.lampNext_keeps {z s : State} (h : Keeps z s) :
    Keeps z (State.lampNext s) := by
  unfold State.lampNext
  repeat' first
    | assumption
    | with_reducible apply Keeps.updLamp
    | with_reducible apply State.lampStart_keeps
    | dsimp only
    | split

theorem execLampRowSlot_keeps {z s : State} (h : Keeps z s) (findings : List Nat) :
    ResKeeps z (execLampRowSlot findings s) := by
  unfold execLampRowSlot
  repeat' first
    | assumption
    | with_reducible apply ResKeeps.next
    | with_reducible apply ResKeeps.ite
    | with_reducible apply Keeps.forEach
    | with_reducible apply Keeps.updLamp
    | with_reducible apply State.lampFind_keeps
    | with_reducible apply State.lampSlot_keeps
    | intro _
    | dsimp only
    | split

theorem execLampDiagSubframe_keeps {z s : State} (h : Keeps z s) (findings : List Nat) :
    ResKeeps z (execLampDiagSubframe findings s) := by
  unfold execLampDiagSubframe
  repeat' first
    | assumption
    | with_reducible apply ResKeeps.next
    | with_reducible apply ResKeeps.ite
    | with_reducible apply Keeps.forEach
    | with_reducible apply Keeps.updLamp
    | with_reducible apply State.lampFind_keeps
    | with_reducible apply State.lampSlot_keeps
    | intro _
    | dsimp only
    | split

theorem execLampFrameBoundary_keeps {z s : State} (h : Keeps z s) : ResKeeps z (execLampFrameBoundary s) := by
  unfold execLampFrameBoundary
  have h2 : ∀ {s : State} (b : BitVec 64), Keeps z s → Keeps z (if (nth s.units 34).pend.isEmpty = true then s else s.applyGen 34 b) := by
    intro s b hs
    apply Keeps.ite <;> intro _
    · exact hs
    · exact State.applyGen_keeps hs _ _
  apply ResKeeps.ite <;> intro _
  · exact ResKeeps.next (h2 _ h)
  apply ResKeeps.ite <;> intro _
  · exact ResKeeps.next h
  · have h1 : Keeps z (if (s.lamp.st == .stopped) = true then s else forEach (List.range 384) s State.lampAge) := by
      apply Keeps.ite <;> intro _
      · exact h
      · exact Keeps.forEach h _ _ (fun s n hs => State.lampAge_keeps hs _)
    have h3 := fun b => State.lampCurrent_keeps (Keeps.forEach (h2 b h1) (List.range 384) State.lampBlind (fun s n hs => State.lampBlind_keeps hs n))
    apply ResKeeps.ite <;> intro _
    · exact ResKeeps.next (h3 _)
    · exact ResKeeps.next (State.lampNext_keeps (Keeps.updLamp (h3 _) _))

theorem execLampSyncEdge_keeps {z s : State} (h : Keeps z s) :
    ResKeeps z (execLampSyncEdge s) := by
  unfold execLampSyncEdge
  repeat' first
    | assumption
    | with_reducible apply ResKeeps.next
    | with_reducible apply ResKeeps.ite
    | with_reducible apply Keeps.updLamp
    | with_reducible apply State.lampStart_keeps
    | intro _

end Sys2Proof.Machine
end

