-- ==== Sys2Proof/Laws/KeepsLantern.lean ====
section
/-! SUPPORT. `Keeps` for the operations and meanings of Machine/Lantern.lean. -/

namespace Sys2Proof.Machine

theorem State.dpStart_keeps {z s : State} (h : Keeps z s) (k : Nat) :
    Keeps z (State.dpStart s k) := by
  unfold State.dpStart
  repeat' first
    | assumption
    | with_reducible apply State.dpTo_keeps

theorem State.dpEnable_keeps {z s : State} (h : Keeps z s) (s0 : State) (k : Nat) :
    Keeps z (State.dpEnable s0 s k) := by
  unfold State.dpEnable
  repeat' first
    | assumption
    | with_reducible apply Keeps.updDp
    | with_reducible apply State.dpTo_keeps
    | with_reducible apply State.dpStart_keeps
    | split

theorem execDpTrain_keeps {z s : State} (h : Keeps z s) (k : Nat) :
    ResKeeps z (execDpTrain k s) := by
  unfold execDpTrain
  repeat' first
    | assumption
    | with_reducible apply ResKeeps.next
    | with_reducible apply ResKeeps.ite
    | with_reducible apply Keeps.updDp
    | with_reducible apply State.dpTo_keeps
    | intro _
    | split

theorem execDpTrainEnd_keeps {z s : State} (h : Keeps z s) (k : Nat) (sink : DpSink) (tries : List Bool) :
    ResKeeps z (execDpTrainEnd k sink tries s) := by
  unfold execDpTrainEnd
  repeat' first
    | assumption
    | with_reducible apply ResKeeps.next
    | with_reducible apply ResKeeps.ite
    | with_reducible apply Keeps.updDp
    | with_reducible apply State.dpTo_keeps
    | intro _
    | split

theorem execHpdLow_keeps {z s : State} (h : Keeps z s) (k : Nat) :
    ResKeeps z (execHpdLow k s) := by
  unfold execHpdLow
  repeat' first
    | assumption
    | with_reducible apply ResKeeps.next
    | with_reducible apply ResKeeps.ite
    | with_reducible apply Keeps.updDp
    | with_reducible apply State.dpTo_keeps
    | intro _
    | split

theorem execHpdIrq_keeps {z s : State} (h : Keeps z s) (k : Nat) :
    ResKeeps z (execHpdIrq k s) := by
  unfold execHpdIrq
  repeat' first
    | assumption
    | with_reducible apply ResKeeps.next
    | with_reducible apply State.dpTo_keeps
    | split

theorem execDpRetry_keeps {z s : State} (h : Keeps z s) (k : Nat) :
    ResKeeps z (execDpRetry k s) := by
  unfold execDpRetry
  repeat' first
    | assumption
    | with_reducible apply ResKeeps.next
    | with_reducible apply State.dpTo_keeps
    | split

theorem execDpSelfTest_keeps {z s : State} (h : Keeps z s) (k : Nat) (pass : Bool) (result : Nat) :
    ResKeeps z (execDpSelfTest k pass result s) := by
  unfold execDpSelfTest
  repeat' first
    | assumption
    | with_reducible apply ResKeeps.next
    | with_reducible apply ResKeeps.ite
    | with_reducible apply Keeps.updDp
    | with_reducible apply State.log_keeps
    | with_reducible apply State.dpTo_keeps
    | intro _
    | split

theorem execEdidRead_keeps {z s : State} (h : Keeps z s) (q : Nat) (aux : Option (List Byte)) (writeOk : Bool) :
    ResKeeps z (execEdidRead q aux writeOk s) := by
  unfold execEdidRead
  repeat' first
    | assumption
    | with_reducible apply CmdOut.Keeps.ite
    | with_reducible apply CmdOut.Keeps.done
    | with_reducible apply CmdOut.keeps_refuse
    | with_reducible apply runCmd_keeps
    | with_reducible apply withReport_keeps
    | intro _
    | dsimp only
    | split

theorem State.scanChange_keeps {z s : State} (h : Keeps z s) :
    Keeps z (State.scanChange s) := by
  unfold State.scanChange
  repeat' first
    | assumption
    | with_reducible apply Keeps.updLtn
    | dsimp only
    | split

theorem State.genPass_keeps {z s : State} (h : Keeps z s) (drawn : Bool) :
    Keeps z (State.genPass s drawn) := by
  unfold State.genPass
  repeat' first
    | assumption
    | with_reducible apply Keeps.updLtn
    | with_reducible apply State.startPass_keeps
    | split

theorem State.frameGen_keeps {z s0 : State} (h : Keeps z s0) : Keeps z (State.frameGen s0) := by
  unfold State.frameGen
  apply Keeps.ite <;> intro _
  · exact h
  · extract_lets regs s1 starts drawn moved s2 s3 s4 s5 s6
    have h2 : Keeps z s2 := State.applyGen_keeps h 33 _
    have h3 : Keeps z s3 := Keeps.ite (fun _ => h2.updLtn _) (fun _ => h2)
    have h4 : Keeps z s4 := h3.updLtn _
    have h5 : Keeps z s5 := State.genPass_keeps (State.scanChange_keeps h4) _
    have h6 : Keeps z s6 := Keeps.forEach h5 _ _ (fun s k hs => State.dpEnable_keeps hs _ _)
    exact Keeps.ite (fun _ => h6) (fun _ => Keeps.forEach h6 _ _ (fun s k hs => State.dpRefit_keeps hs _))

theorem execFrameBoundary_keeps {z s : State} (h : Keeps z s) : ResKeeps z (execFrameBoundary s) := by
  unfold execFrameBoundary
  apply ResKeeps.ite <;> intro _
  · exact .next h
  apply ResKeeps.ite <;> intro _
  · exact .next (State.frameGen_keeps h)
  apply ResKeeps.ite <;> intro _
  · exact .next h
  · exact .next (State.frameGen_keeps (State.raiseGlb_keeps (h.updLtn _) _))

theorem execLine0Flip_keeps {z s : State} (h : Keeps z s) :
    ResKeeps z (execLine0Flip s) := by
  unfold execLine0Flip
  repeat' first
    | assumption
    | with_reducible apply ResKeeps.next
    | with_reducible apply ResKeeps.ite
    | with_reducible apply State.newFrame_keeps
    | intro _

theorem execRasterPassDone_keeps {z s : State} (h : Keeps z s) : ResKeeps z (execRasterPassDone s) := by
  unfold execRasterPassDone
  apply ResKeeps.ite <;> intro _
  · exact .next h
  · apply ResKeeps.next
    have h1 := fun f => Keeps.updLtn (State.putBytes_keeps h (s.fbBase s.ltn.passBuf) s.raster) f
    apply Keeps.ite <;> intro _
    · exact State.startPass_keeps (h1 _) _
    · exact h1 _

theorem execLineUnderrun_keeps {z s : State} (h : Keeps z s) :
    ResKeeps z (execLineUnderrun s) := by
  unfold execLineUnderrun
  repeat' first
    | assumption
    | with_reducible apply ResKeeps.next
    | with_reducible apply ResKeeps.ite
    | with_reducible apply Keeps.updLtn
    | with_reducible apply State.draw_keeps
    | intro _

theorem execFetchUrgent_keeps {z s : State} (h : Keeps z s) (enter : Bool) :
    ResKeeps z (execFetchUrgent enter s) := by
  unfold execFetchUrgent
  repeat' first
    | assumption
    | with_reducible apply ResKeeps.next
    | with_reducible apply ResKeeps.ite
    | with_reducible apply Keeps.updLtn
    | intro _

end Sys2Proof.Machine
end

