-- ==== Sys2Proof/Laws/KeepsDma.lean ====
section
/-! SUPPORT. `Keeps` for the operations and meanings of Machine/Dma.lean. -/

namespace Sys2Proof.Machine

theorem State.dmaIrq_keeps {z s : State} (h : Keeps z s) (c : Nat) (b : Nat) :
    Keeps z (State.dmaIrq s c b) := by
  unfold State.dmaIrq
  repeat' first
    | assumption
    | with_reducible apply Keeps.updDma
    | with_reducible apply State.signal_keeps
    | dsimp only
    | split

theorem State.dmaHalt_keeps {z s : State} (h : Keeps z s) (c : Nat) (code : Nat) (dir : Nat) (idx : Nat) (addr : Nat) :
    Keeps z (State.dmaHalt s c code dir idx addr) := by
  unfold State.dmaHalt
  repeat' first
    | assumption
    | with_reducible apply Keeps.updDma
    | with_reducible apply State.log_keeps
    | with_reducible apply State.dmaIrq_keeps
    | dsimp only
    | split

theorem State.pondRead_keeps {z s : State} (h : Keeps z s) (a : Nat) (n : Nat) :
    Keeps z (State.pondRead s a n).2 := by
  unfold State.pondRead
  repeat' first
    | assumption
    | with_reducible apply State.draw_keeps

theorem State.spaceRead_keeps {z s : State} (h : Keeps z s) (sp : DSpace) (a : Nat) (n : Nat) (host : List Byte) :
    Keeps z (State.spaceRead s sp a n host).2 := by
  unfold State.spaceRead
  repeat' first
    | assumption
    | with_reducible apply State.rsvRead_keeps
    | with_reducible apply State.pondRead_keeps
    | split

theorem State.writeBurst_keeps {z s : State} (h : Keeps z s) (c : Nat) (k : Nat) (off : Nat) (n : Nat) :
    Keeps z (State.writeBurst s c k off n) := by
  unfold State.writeBurst
  repeat' first
    | assumption
    | with_reducible apply Keeps.updDma
    | with_reducible apply State.putBytes_keeps
    | with_reducible apply State.hostWrite_keeps
    | split

theorem State.dmaGrant_keeps {z s : State} (h : Keeps z s) (c : Nat) (g : Grant) :
    Keeps z (State.dmaGrant s c g) := by
  unfold State.dmaGrant
  repeat' first
    | assumption
    | with_reducible apply Keeps.updDma
    | with_reducible apply State.tlp_keeps
    | with_reducible apply State.dmaHalt_keeps
    | with_reducible apply State.writeBurst_keeps
    | dsimp only
    | split

theorem State.dmaGrants_keeps {z s : State} (h : Keeps z s) (n : Nat) : Keeps z (State.dmaGrants n s) := by
  induction n generalizing s with
  | zero => unfold State.dmaGrants; exact h
  | succ n ih =>
    unfold State.dmaGrants
    dsimp only
    split
    · exact h
    · split
      · exact h
      · exact ih (State.dmaGrant_keeps (Keeps.upd h rfl rfl rfl) _ _)

theorem State.fetchFailed_keeps {z s : State} (h : Keeps z s) (c : Nat) :
    Keeps z (State.fetchFailed s c) := by
  unfold State.fetchFailed
  repeat' first
    | assumption
    | with_reducible apply State.dmaHalt_keeps
    | dsimp only
    | split

theorem State.dmaPump_keeps {z s : State} (h : Keeps z s) : Keeps z (State.dmaPump s) := by
  unfold State.dmaPump
  apply Keeps.ite <;> intro _
  · exact h
  · refine Keeps.upd ?_ rfl rfl rfl
    refine Keeps.upd ?_ rfl rfl rfl
    apply State.dmaGrants_keeps
    exact Keeps.forEach (Keeps.upd h rfl rfl rfl) _ _ (fun s c hs => State.fetchFailed_keeps hs _)

theorem State.dmaCtl_keeps {z s : State} (h : Keeps z s) (c : Nat) (v : Word) :
    Keeps z (State.dmaCtl s c v) := by
  unfold State.dmaCtl
  repeat' first
    | assumption
    | with_reducible apply Keeps.updDma
    | with_reducible apply State.dmaPump_keeps
    | split

theorem execDmaEnable_keeps {z s : State} (h : Keeps z s) (c : Nat) (v : Word) :
    ResKeeps z (execDmaEnable c v s) := by
  unfold execDmaEnable
  repeat' first
    | assumption
    | with_reducible apply ResKeeps.next
    | with_reducible apply State.tlp_keeps
    | with_reducible apply State.dmaCtl_keeps

theorem execDmaDisable_keeps {z s : State} (h : Keeps z s) (c : Nat) (v : Word) :
    ResKeeps z (execDmaDisable c v s) := by
  unfold execDmaDisable
  repeat' first
    | assumption
    | with_reducible apply ResKeeps.next
    | with_reducible apply State.tlp_keeps
    | with_reducible apply State.dmaCtl_keeps

theorem execDmaPause_keeps {z s : State} (h : Keeps z s) (c : Nat) (v : Word) :
    ResKeeps z (execDmaPause c v s) := by
  unfold execDmaPause
  repeat' first
    | assumption
    | with_reducible apply ResKeeps.next
    | with_reducible apply State.tlp_keeps
    | with_reducible apply State.dmaCtl_keeps

theorem execDmaUnpause_keeps {z s : State} (h : Keeps z s) (c : Nat) (v : Word) :
    ResKeeps z (execDmaUnpause c v s) := by
  unfold execDmaUnpause
  repeat' first
    | assumption
    | with_reducible apply ResKeeps.next
    | with_reducible apply State.tlp_keeps
    | with_reducible apply State.dmaCtl_keeps

theorem execDmaStoppingEnd_keeps {z s : State} (h : Keeps z s) (c : Nat) :
    ResKeeps z (execDmaStoppingEnd c s) := by
  unfold execDmaStoppingEnd
  repeat' first
    | assumption
    | with_reducible apply ResKeeps.next
    | with_reducible apply ResKeeps.ite
    | with_reducible apply Keeps.updDma
    | with_reducible apply State.dmaPump_keeps
    | intro _

theorem execCreditAdd_keeps {z s : State} (h : Keeps z s) (c : Nat) (v : Word) :
    ResKeeps z (execCreditAdd c v s) := by
  unfold execCreditAdd
  repeat' first
    | assumption
    | with_reducible apply ResKeeps.next
    | with_reducible apply Keeps.updDma
    | with_reducible apply State.tlp_keeps
    | split

theorem dmaRow_keeps {z s : State} (h : Keeps z s) (c : Nat) (p : DmaIns → Bool) (f : State → DmaCh → DmaIns → State)
    (hf : ∀ x i, Keeps z (f s x i)) : ResKeeps z (dmaRow s c p f) := by
  unfold dmaRow
  split
  · apply ResKeeps.ite <;> intro _
    · exact .next (State.dmaPump_keeps (hf _ _))
    · exact .next h
  · exact .next h

theorem State.dmaHold_keeps {z s : State} (h : Keeps z s) (c : Nat) (kind : Nat) :
    Keeps z (State.dmaHold s c kind) := by
  unfold State.dmaHold
  repeat' first
    | assumption
    | with_reducible apply Keeps.updDma

theorem State.dmaGo_keeps {z s : State} (h : Keeps z s) (c : Nat) (i : Nat) :
    Keeps z (State.dmaGo s c i) := by
  unfold State.dmaGo
  repeat' first
    | assumption
    | with_reducible apply Keeps.updDma

theorem execDmaMove_keeps {z s : State} (h : Keeps z s) (c : Nat) :
    ResKeeps z (execDmaMove c s) := by
  unfold execDmaMove
  repeat' first
    | assumption
    | with_reducible apply Keeps.updDma
    | with_reducible apply State.dmaHalt_keeps
    | with_reducible apply dmaRow_keeps
    | with_reducible apply State.dmaGo_keeps
    | intro _
    | dsimp only
    | split

theorem execDmaLoop_keeps {z s : State} (h : Keeps z s) (c : Nat) :
    ResKeeps z (execDmaLoop c s) := by
  unfold execDmaLoop
  repeat' first
    | assumption
    | with_reducible apply Keeps.updDma
    | with_reducible apply State.dmaHalt_keeps
    | with_reducible apply dmaRow_keeps
    | with_reducible apply State.dmaGo_keeps
    | intro _
    | dsimp only
    | split

theorem State.waitSeg_keeps {z s : State} (h : Keeps z s) (c : Nat) (x : DmaCh) (i : DmaIns) :
    Keeps z (State.waitSeg s c x i) := by
  unfold State.waitSeg
  repeat' first
    | assumption
    | with_reducible apply State.dmaHalt_keeps
    | with_reducible apply State.dmaHold_keeps
    | with_reducible apply State.dmaGo_keeps
    | split

theorem State.waitCredit_keeps {z s : State} (h : Keeps z s) (c : Nat) (x : DmaCh) :
    Keeps z (State.waitCredit s c x) := by
  unfold State.waitCredit
  repeat' first
    | assumption
    | with_reducible apply Keeps.updDma
    | with_reducible apply State.dmaHold_keeps
    | with_reducible apply State.dmaGo_keeps
    | split

theorem State.waitTb_keeps {z s : State} (h : Keeps z s) (c : Nat) (x : DmaCh) (i : DmaIns) :
    Keeps z (State.waitTb s c x i) := by
  unfold State.waitTb
  repeat' first
    | assumption
    | with_reducible apply State.dmaHold_keeps
    | with_reducible apply State.dmaGo_keeps
    | split

theorem execDmaWaitSeg_keeps {z s : State} (h : Keeps z s) (c : Nat) :
    ResKeeps z (execDmaWaitSeg c s) := by
  unfold execDmaWaitSeg
  repeat' first
    | assumption
    | with_reducible apply dmaRow_keeps
    | with_reducible apply State.waitSeg_keeps

theorem execDmaWaitCredit_keeps {z s : State} (h : Keeps z s) (c : Nat) :
    ResKeeps z (execDmaWaitCredit c s) := by
  unfold execDmaWaitCredit
  repeat' first
    | assumption
    | with_reducible apply dmaRow_keeps
    | with_reducible apply State.waitCredit_keeps
    | intro _

theorem execDmaWaitTb_keeps {z s : State} (h : Keeps z s) (c : Nat) :
    ResKeeps z (execDmaWaitTb c s) := by
  unfold execDmaWaitTb
  repeat' first
    | assumption
    | with_reducible apply dmaRow_keeps
    | with_reducible apply State.waitTb_keeps

theorem execDmaWaitResume_keeps {z s : State} (h : Keeps z s) (c : Nat) :
    ResKeeps z (execDmaWaitResume c s) := by
  unfold execDmaWaitResume
  repeat' first
    | assumption
    | with_reducible apply ResKeeps.next
    | with_reducible apply ResKeeps.ite
    | with_reducible apply dmaRow_keeps
    | with_reducible apply State.waitSeg_keeps
    | with_reducible apply State.waitCredit_keeps
    | with_reducible apply State.waitTb_keeps
    | intro _
    | split

theorem State.dmaSignal_keeps {z s : State} (h : Keeps z s) (c : Nat) (x : DmaCh) (b : Nat) :
    Keeps z (State.dmaSignal s c x b) := by
  unfold State.dmaSignal
  repeat' first
    | assumption
    | with_reducible apply Keeps.updDma
    | with_reducible apply State.dmaIrq_keeps
    | with_reducible apply State.dmaHold_keeps
    | with_reducible apply State.dmaGo_keeps
    | dsimp only
    | split

theorem execDmaSignalHalf_keeps {z s : State} (h : Keeps z s) (c : Nat) :
    ResKeeps z (execDmaSignalHalf c s) := by
  unfold execDmaSignalHalf
  repeat' first
    | assumption
    | with_reducible apply dmaRow_keeps
    | with_reducible apply State.dmaSignal_keeps
    | intro _

theorem execDmaSignalFull_keeps {z s : State} (h : Keeps z s) (c : Nat) :
    ResKeeps z (execDmaSignalFull c s) := by
  unfold execDmaSignalFull
  repeat' first
    | assumption
    | with_reducible apply dmaRow_keeps
    | with_reducible apply State.dmaSignal_keeps
    | intro _

theorem execDmaSignalRelease_keeps {z s : State} (h : Keeps z s) (c : Nat) : ResKeeps z (execDmaSignalRelease c s) := by
  unfold execDmaSignalRelease
  apply dmaRow_keeps h
  intro x i
  apply Keeps.ite <;> intro _
  · exact State.dmaHold_keeps h _ _
  · apply Keeps.ite <;> intro _
    · exact State.dmaHalt_keeps h _ _ _ _ _
    · split
      · exact State.dmaHalt_keeps h _ _ _ _ _
      · rename_i t n ht
        exact State.dmaGo_keeps (Keeps.updDma (State.tryRelease_keeps h _ _ _ _ ht) _ _) _ _

theorem State.dmaSet_keeps {z s : State} (h : Keeps z s) (c : Nat) (x : DmaCh) (i : DmaIns) (v : BitVec 64) :
    Keeps z (State.dmaSet s c x i v) := by
  unfold State.dmaSet
  repeat' first
    | assumption
    | with_reducible apply Keeps.updDma
    | with_reducible apply State.dmaGo_keeps

theorem execDmaLoadImm_keeps {z s : State} (h : Keeps z s) (c : Nat) :
    ResKeeps z (execDmaLoadImm c s) := by
  unfold execDmaLoadImm
  repeat' first
    | assumption
    | with_reducible apply dmaRow_keeps
    | with_reducible apply State.dmaSet_keeps
    | intro _

theorem execDmaLoadAdd_keeps {z s : State} (h : Keeps z s) (c : Nat) :
    ResKeeps z (execDmaLoadAdd c s) := by
  unfold execDmaLoadAdd
  repeat' first
    | assumption
    | with_reducible apply dmaRow_keeps
    | with_reducible apply State.dmaSet_keeps
    | intro _

theorem execDmaLoadShl_keeps {z s : State} (h : Keeps z s) (c : Nat) :
    ResKeeps z (execDmaLoadShl c s) := by
  unfold execDmaLoadShl
  repeat' first
    | assumption
    | with_reducible apply State.dmaHalt_keeps
    | with_reducible apply dmaRow_keeps
    | with_reducible apply State.dmaSet_keeps
    | intro _
    | split

theorem execDmaLoadMem_keeps {z s : State} (h : Keeps z s) (c : Nat) :
    ResKeeps z (execDmaLoadMem c s) := by
  unfold execDmaLoadMem
  repeat' first
    | assumption
    | with_reducible apply Keeps.updDma
    | with_reducible apply State.dmaHalt_keeps
    | with_reducible apply dmaRow_keeps
    | intro _
    | dsimp only
    | split

theorem execDmaFence_keeps {z s : State} (h : Keeps z s) (c : Nat) :
    ResKeeps z (execDmaFence c s) := by
  unfold execDmaFence
  repeat' first
    | assumption
    | with_reducible apply Keeps.updDma
    | with_reducible apply dmaRow_keeps
    | with_reducible apply State.dmaHold_keeps
    | with_reducible apply State.dmaGo_keeps
    | intro _
    | dsimp only
    | split

theorem execDmaEnd_keeps {z s : State} (h : Keeps z s) (c : Nat) :
    ResKeeps z (execDmaEnd c s) := by
  unfold execDmaEnd
  repeat' first
    | assumption
    | with_reducible apply Keeps.updDma
    | with_reducible apply State.dmaIrq_keeps
    | with_reducible apply dmaRow_keeps
    | with_reducible apply State.dmaHold_keeps
    | intro _
    | split

theorem execDmaBadInstr_keeps {z s : State} (h : Keeps z s) (c : Nat) :
    ResKeeps z (execDmaBadInstr c s) := by
  unfold execDmaBadInstr
  repeat' first
    | assumption
    | with_reducible apply ResKeeps.next
    | with_reducible apply ResKeeps.ite
    | with_reducible apply State.dmaHalt_keeps
    | with_reducible apply State.dmaPump_keeps
    | intro _
    | dsimp only
    | split

theorem State.moveResponse_keeps {z s : State} (h : Keeps z s) (c : Nat) (k : Nat) (st : RespStatus) :
    Keeps z (State.moveResponse s c k st) := by
  unfold State.moveResponse
  repeat' first
    | assumption
    | with_reducible apply Keeps.updDma
    | with_reducible apply State.eccApply_keeps
    | with_reducible apply State.dmaHalt_keeps
    | with_reducible apply State.spaceRead_keeps
    | dsimp only
    | split

theorem State.writeResponse_keeps {z s : State} (h : Keeps z s) (c : Nat) (k : Nat) (st : RespStatus) :
    Keeps z (State.writeResponse s c k st) := by
  unfold State.writeResponse
  repeat' first
    | assumption
    | with_reducible apply Keeps.updDma
    | with_reducible apply State.undefine_keeps
    | with_reducible apply State.eccApply_keeps
    | with_reducible apply State.dmaHalt_keeps
    | dsimp only
    | split

theorem State.loadResponse_keeps {z s : State} (h : Keeps z s) (c : Nat) (st : RespStatus) :
    Keeps z (State.loadResponse s c st) := by
  unfold State.loadResponse
  repeat' first
    | assumption
    | with_reducible apply Keeps.updDma
    | with_reducible apply State.eccApply_keeps
    | with_reducible apply State.dmaHalt_keeps
    | with_reducible apply State.dmaGo_keeps
    | with_reducible apply State.spaceRead_keeps
    | dsimp only
    | split

theorem State.flushResponse_keeps {z s : State} (h : Keeps z s) (c : Nat) (st : RespStatus) :
    Keeps z (State.flushResponse s c st) := by
  unfold State.flushResponse
  repeat' first
    | assumption
    | with_reducible apply Keeps.updDma
    | with_reducible apply State.dmaHalt_keeps
    | with_reducible apply State.dmaGo_keeps
    | dsimp only
    | split

theorem State.fetchResponse_keeps {z s : State} (h : Keeps z s) (c : Nat) (i : Nat) (st : RespStatus) :
    Keeps z (State.fetchResponse s c i st) := by
  unfold State.fetchResponse
  repeat' first
    | assumption
    | with_reducible apply Keeps.updDma
    | with_reducible apply State.eccApply_keeps
    | with_reducible apply State.spaceRead_keeps
    | dsimp only
    | split

theorem State.dmaResponse_keeps {z s : State} (h : Keeps z s) (c : Nat) (r : DmaReq) (st : RespStatus) :
    Keeps z (State.dmaResponse s c r st) := by
  unfold State.dmaResponse
  repeat' first
    | assumption
    | with_reducible apply Keeps.updDma
    | with_reducible apply State.dmaPump_keeps
    | with_reducible apply State.moveResponse_keeps
    | with_reducible apply State.writeResponse_keeps
    | with_reducible apply State.loadResponse_keeps
    | with_reducible apply State.flushResponse_keeps
    | with_reducible apply State.fetchResponse_keeps
    | split

theorem execDmaBurstResponse_keeps {z s : State} (h : Keeps z s) (c : Nat) (r : DmaReq) (st : RespStatus) :
    ResKeeps z (execDmaBurstResponse c r st s) := by
  unfold execDmaBurstResponse
  repeat' first
    | assumption
    | with_reducible apply ResKeeps.next
    | with_reducible apply State.dmaResponse_keeps

theorem State.dmaHaltDue_keeps {z s : State} (h : Keeps z s) (sp : DSpace) (code : Nat) : Keeps z (State.dmaHaltDue s sp code) := by
  unfold State.dmaHaltDue
  apply Keeps.forEach h
  intro s c hs
  dsimp only
  split
  · exact State.dmaHalt_keeps hs _ _ _ _ _
  · split
    · apply Keeps.ite <;> intro _
      · exact State.dmaHalt_keeps hs _ _ _ _ _
      · exact hs
    · apply Keeps.ite <;> intro _
      · exact State.dmaHalt_keeps hs _ _ _ _ _
      · apply Keeps.ite <;> intro _
        · exact State.dmaHalt_keeps hs _ _ _ _ _
        · exact hs

end Sys2Proof.Machine
end

