-- ==== Sys2Proof/Laws/KeepsKeeper.lean ====
section
/-! SUPPORT. `Keeps` for the operations and meanings of Machine/Keeper.lean. -/

namespace Sys2Proof.Machine

theorem State.setSlot_keeps {z s : State} (h : Keeps z s) (slot : Nat) (k : Option KeySlot) :
    Keeps z (State.setSlot s slot k) := by
  unfold State.setSlot
  repeat' first
    | assumption
    | with_reducible apply Keeps.updKpr

theorem execKeyProvisionWrite_keeps {z s : State} (h : Keeps z s) (q : Nat) (tbl : Table) :
    ResKeeps z (execKeyProvisionWrite q tbl s) := by
  unfold execKeyProvisionWrite
  repeat' first
    | assumption
    | with_reducible apply CmdOut.Keeps.ite
    | with_reducible apply CmdOut.Keeps.done
    | with_reducible apply CmdOut.keeps_refuse
    | with_reducible apply runCmdSel_keeps
    | with_reducible apply withTable_keeps
    | with_reducible apply State.setSlot_keeps
    | intro _
    | dsimp only
    | split

theorem execKeyProvisionErase_keeps {z s : State} (h : Keeps z s) (q : Nat) :
    ResKeeps z (execKeyProvisionErase q s) := by
  unfold execKeyProvisionErase
  repeat' first
    | assumption
    | with_reducible apply CmdOut.Keeps.done
    | with_reducible apply runCmdSel_keeps
    | with_reducible apply State.setSlot_keeps
    | intro _

theorem execDebugChallenge_keeps {z s : State} (h : Keeps z s) (q : Nat) (nonce : List Byte) :
    ResKeeps z (execDebugChallenge q nonce s) := by
  unfold execDebugChallenge
  repeat' first
    | assumption
    | with_reducible apply CmdOut.Keeps.ite
    | with_reducible apply CmdOut.Keeps.done
    | with_reducible apply CmdOut.keeps_refuse
    | with_reducible apply Keeps.updKpr
    | with_reducible apply runCmd_keeps
    | intro _

theorem State.failUnlock_keeps {z s : State} (h : Keeps z s) :
    Keeps z (State.failUnlock s) := by
  unfold State.failUnlock
  repeat' first
    | assumption
    | with_reducible apply Keeps.updKpr
    | with_reducible apply State.raiseAlarm_keeps
    | dsimp only
    | split

theorem execDebugResponse_keeps {z s : State} (h : Keeps z s) (q : Nat) (tbl : Table) :
    ResKeeps z (execDebugResponse q tbl s) := by
  unfold execDebugResponse
  repeat' first
    | assumption
    | with_reducible apply CmdOut.Keeps.ite
    | with_reducible apply CmdOut.Keeps.done
    | with_reducible apply CmdOut.Keeps.wait
    | with_reducible apply CmdOut.keeps_refuse
    | with_reducible apply Keeps.updKpr
    | with_reducible apply State.raiseGlb_keeps
    | with_reducible apply runCmd_keeps
    | with_reducible apply withTable_keeps
    | with_reducible apply State.failUnlock_keeps
    | intro _
    | dsimp only
    | split

theorem alarmPolicyOut_keeps {z s : State} (h : Keeps z s) (e : JEntry) :
    CmdOut.Keeps z (alarmPolicyOut s e) := by
  unfold alarmPolicyOut
  repeat' first
    | assumption
    | with_reducible apply CmdOut.Keeps.ite
    | with_reducible apply CmdOut.Keeps.done
    | with_reducible apply Keeps.updKpr
    | intro _

theorem execAlarmPolicy_keeps {z s : State} (h : Keeps z s) (q : Nat) :
    ResKeeps z (execAlarmPolicy q s) := by
  unfold execAlarmPolicy
  repeat' first
    | assumption
    | with_reducible apply ResKeeps.next
    | with_reducible apply ResKeeps.ite
    | with_reducible apply State.conclude_keeps
    | with_reducible apply alarmPolicyOut_keeps
    | intro _
    | split

theorem attestReport_keeps {z s : State} (h : Keeps z s) (k : KeySlot) (p : Packet) (mode : Nat) (rf dg : List Byte) :
    Keeps z (attestReport s k p mode rf dg).2 := State.draw_keeps h 1

theorem attestFinish_keeps {z s : State} (h : Keeps z s) (e : JEntry) (writeOk : Bool) (k : KeySlot) (mode : Nat) (rf dg : List Byte) :
    CmdOut.Keeps z (attestFinish s e writeOk k mode rf dg) := by
  have h2 := attestReport_keeps h k e.pkt mode rf dg
  unfold attestFinish
  generalize attestReport s k e.pkt mode rf dg = r at *
  obtain ⟨bs, s'⟩ := r
  exact withReport_keeps h2 e writeOk _ _ (fun _ ht => .done ht)

theorem execAttestDevice_keeps {z s : State} (h : Keeps z s) (q : Nat) (writeOk : Bool) : ResKeeps z (execAttestDevice q writeOk s) := by
  unfold execAttestDevice
  apply runCmdSel_keeps h
  intro e
  split
  · exact CmdOut.keeps_refuse h
  · with_reducible apply attestFinish_keeps
    exact h

theorem execAttestRecord_keeps {z s : State} (h : Keeps z s) (q : Nat) (writeOk : Bool) : ResKeeps z (execAttestRecord q writeOk s) := by
  unfold execAttestRecord
  apply runCmdSel_keeps h
  intro e
  dsimp only
  split
  · exact CmdOut.keeps_refuse h
  · split
    · exact CmdOut.keeps_refuse h
    · apply CmdOut.Keeps.ite <;> intro _
      · exact CmdOut.keeps_refuse h
      · with_reducible apply attestFinish_keeps
        exact h

theorem execLidSenseHigh_keeps {z s : State} (h : Keeps z s) :
    ResKeeps z (execLidSenseHigh s) := by
  unfold execLidSenseHigh
  repeat' first
    | assumption
    | with_reducible apply ResKeeps.next
    | with_reducible apply Keeps.updKpr
    | with_reducible apply State.raiseAlarm_keeps

theorem State.eraseReply_keeps {z s : State} (h : Keeps z s) (e : Erase) :
    Keeps z (State.eraseReply s e) := by
  unfold State.eraseReply
  repeat' first
    | assumption
    | with_reducible apply State.finish_keeps
    | split

theorem execZeroiseEraseDone_keeps {z s : State} (h : Keeps z s) :
    ResKeeps z (execZeroiseEraseDone s) := by
  unfold execZeroiseEraseDone
  repeat' first
    | assumption
    | with_reducible apply ResKeeps.next
    | with_reducible apply Keeps.updKpr
    | with_reducible apply State.raiseGlb_keeps
    | with_reducible apply State.alarmEvent_keeps
    | with_reducible apply State.eraseReply_keeps
    | dsimp only
    | split

theorem execVendorUnlockEraseDone_keeps {z s : State} (h : Keeps z s) :
    ResKeeps z (execVendorUnlockEraseDone s) := by
  unfold execVendorUnlockEraseDone
  repeat' first
    | assumption
    | with_reducible apply ResKeeps.next
    | with_reducible apply Keeps.updKpr
    | with_reducible apply State.raiseGlb_keeps
    | with_reducible apply State.eraseReply_keeps
    | dsimp only
    | split

theorem execKeystoreError_keeps {z s : State} (h : Keeps z s) (slot : Nat) :
    ResKeeps z (execKeystoreError slot s) := by
  unfold execKeystoreError
  repeat' first
    | assumption
    | with_reducible apply ResKeeps.next
    | with_reducible apply State.raiseAlarm_keeps
    | with_reducible apply State.setSlot_keeps

theorem execChallengeExpiry_keeps {z s : State} (h : Keeps z s) :
    ResKeeps z (execChallengeExpiry s) := by
  unfold execChallengeExpiry
  repeat' first
    | assumption
    | with_reducible apply ResKeeps.next
    | with_reducible apply Keeps.updKpr

theorem State.closeDebug_keeps {z s : State} (h : Keeps z s) :
    Keeps z (State.closeDebug s) := by
  unfold State.closeDebug
  repeat' first
    | assumption
    | with_reducible apply Keeps.updKpr
    | with_reducible apply State.raiseGlb_keeps
    | dsimp only
    | split

theorem execTapAccess_keeps {z s : State} (h : Keeps z s) (a : TapAct) :
    ResKeeps z (execTapAccess a s) := by
  unfold execTapAccess
  repeat' first
    | assumption
    | with_reducible apply ResKeeps.next
    | with_reducible apply Keeps.updKpr
    | dsimp only
    | split

theorem State.imgBell_keeps {z s : State} (h : Keeps z s) (v : Nat) :
    Keeps z (State.imgBell s v) := by
  unfold State.imgBell
  repeat' first
    | assumption
    | with_reducible apply Keeps.updKpr
    | split

theorem execImgBell_keeps {z s : State} (h : Keeps z s) (v : Word) :
    ResKeeps z (execImgBell v s) := by
  unfold execImgBell
  repeat' first
    | assumption
    | with_reducible apply ResKeeps.next
    | with_reducible apply State.tlp_keeps
    | with_reducible apply State.imgBell_keeps

end Sys2Proof.Machine
end

