-- ==== Sys2Proof/Laws/KeepsSkew.lean ====
section
/-! SUPPORT. `Keeps` for the operations and meanings of Machine/Skew.lean. -/

namespace Sys2Proof.Machine

theorem execCalReport_keeps {z s : State} (h : Keeps z s) (q : Nat) (writeOk : Bool) :
    ResKeeps z (execCalReport q writeOk s) := by
  unfold execCalReport
  repeat' first
    | assumption
    | with_reducible apply CmdOut.Keeps.ite
    | with_reducible apply CmdOut.Keeps.done
    | with_reducible apply CmdOut.keeps_refuse
    | with_reducible apply runCmd_keeps
    | with_reducible apply withReport_keeps
    | intro _
    | dsimp only
    | split

theorem State.beginSkew_keeps {z s : State} (h : Keeps z s) (r : SkewRun) :
    Keeps z (State.beginSkew s r) := by
  unfold State.beginSkew
  repeat' first
    | assumption
    | with_reducible apply Keeps.forEach
    | with_reducible apply Keeps.updAcqCh
    | (fail_if_no_progress (with_reducible apply Keeps.upd <;> try (show _ = _; rfl)))
    | intro _

theorem State.endSkew_keeps {z s : State} (h : Keeps z s) (r : SkewRun) :
    Keeps z (State.endSkew s r) := by
  unfold State.endSkew
  repeat' first
    | assumption
    | with_reducible apply Keeps.forEach
    | with_reducible apply Keeps.updAcqCh
    | with_reducible apply State.openWindow_keeps
    | with_reducible apply State.remember_keeps
    | (fail_if_no_progress (with_reducible apply Keeps.upd <;> try (show _ = _; rfl)))
    | intro _

theorem execSkewMeasure_keeps {z s : State} (h : Keeps z s) (q : Nat) :
    ResKeeps z (execSkewMeasure q s) := by
  unfold execSkewMeasure
  repeat' first
    | assumption
    | with_reducible apply CmdOut.Keeps.ite
    | with_reducible apply CmdOut.Keeps.wait
    | with_reducible apply CmdOut.Keeps.hold
    | with_reducible apply CmdOut.keeps_refuse
    | with_reducible apply runCmd_keeps
    | with_reducible apply State.beginSkew_keeps
    | intro _

theorem State.skewChannel_keeps {z s : State} (h : Keeps z s) (pulses : Nat) (n : Nat) (edges : List SkewEdge) :
    Keeps z (State.skewChannel s pulses n edges) := by
  unfold State.skewChannel
  repeat' first
    | assumption
    | with_reducible apply Keeps.updCal
    | with_reducible apply State.log_keeps
    | with_reducible apply State.prepare_keeps
    | dsimp only
    | split

theorem execSkewMeasureDone_keeps {z s : State} (h : Keeps z s) (res : List (Nat × List SkewEdge)) (writeOk : Bool) :
    ResKeeps z (execSkewMeasureDone res writeOk s) := by
  unfold execSkewMeasureDone
  repeat' first
    | assumption
    | with_reducible apply ResKeeps.next
    | with_reducible apply ResKeeps.ite
    | with_reducible apply Keeps.forEach
    | with_reducible apply State.hostWrite_keeps
    | with_reducible apply State.finish_keeps
    | with_reducible apply State.logCp7_keeps
    | with_reducible apply State.endSkew_keeps
    | with_reducible apply State.skewChannel_keeps
    | intro _
    | dsimp only
    | split

end Sys2Proof.Machine
end

