-- ==== Sys2Proof/Laws/KeepsQueries.lean ====
section
/-! SUPPORT. `Keeps` for the operations and meanings of Machine/Queries.lean. -/

namespace Sys2Proof.Machine

theorem execNop_keeps {z s : State} (h : Keeps z s) (q : Nat) :
    ResKeeps z (execNop q s) := by
  unfold execNop
  repeat' first
    | assumption
    | with_reducible apply CmdOut.Keeps.done
    | with_reducible apply runCmd_keeps
    | intro _

theorem execIdentify_keeps {z s : State} (h : Keeps z s) (q : Nat) :
    ResKeeps z (execIdentify q s) := by
  unfold execIdentify
  repeat' first
    | assumption
    | with_reducible apply CmdOut.Keeps.done
    | with_reducible apply runCmd_keeps
    | intro _

theorem execGetStatus_keeps {z s : State} (h : Keeps z s) (q : Nat) :
    ResKeeps z (execGetStatus q s) := by
  unfold execGetStatus
  repeat' first
    | assumption
    | with_reducible apply CmdOut.Keeps.done
    | with_reducible apply runCmd_keeps
    | intro _

theorem execControlStoreInfo_keeps {z s : State} (h : Keeps z s) (q : Nat) :
    ResKeeps z (execControlStoreInfo q s) := by
  unfold execControlStoreInfo
  repeat' first
    | assumption
    | with_reducible apply CmdOut.Keeps.done
    | with_reducible apply runCmd_keeps
    | intro _

theorem State.theReport_keeps {z s : State} (h : Keeps z s) :
    Keeps z (State.theReport s).2 := by
  unfold State.theReport
  repeat' first
    | assumption
    | with_reducible apply State.draw_keeps
    | dsimp only
    | split

theorem execRecoverReport_keeps {z s : State} (h : Keeps z s) (q : Nat) (writeOk : Bool) :
    ResKeeps z (execRecoverReport q writeOk s) := by
  unfold execRecoverReport
  repeat' first
    | assumption
    | with_reducible apply CmdOut.Keeps.done
    | with_reducible apply runCmd_keeps
    | with_reducible apply withReport_keeps
    | with_reducible apply State.theReport_keeps
    | intro _

theorem execReadConfig_keeps {z s : State} (h : Keeps z s) (q : Nat) (writeOk : Bool) :
    ResKeeps z (execReadConfig q writeOk s) := by
  unfold execReadConfig
  repeat' first
    | assumption
    | with_reducible apply CmdOut.Keeps.ite
    | with_reducible apply CmdOut.Keeps.done
    | with_reducible apply CmdOut.keeps_refuse
    | with_reducible apply runCmd_keeps
    | with_reducible apply withReport_keeps
    | intro _

theorem State.reportEntries_keeps {z s : State} (h : Keeps z s) (p : Nat → Bool) :
    Keeps z (State.reportEntries s p) := by
  unfold State.reportEntries
  repeat' first
    | assumption
    | (fail_if_no_progress (with_reducible apply Keeps.upd <;> try (show _ = _; rfl)))

theorem execErrorRead_keeps {z s : State} (h : Keeps z s) (q : Nat) (writeOk : Bool) :
    ResKeeps z (execErrorRead q writeOk s) := by
  unfold execErrorRead
  repeat' first
    | assumption
    | with_reducible apply CmdOut.Keeps.ite
    | with_reducible apply CmdOut.Keeps.done
    | with_reducible apply runCmd_keeps
    | with_reducible apply withReport_keeps
    | with_reducible apply State.reportEntries_keeps
    | intro _

theorem State.ackEntry_keeps {z s : State} (h : Keeps z s) (i : Nat) :
    Keeps z (State.ackEntry s i) := by
  unfold State.ackEntry
  repeat' first
    | assumption
    | with_reducible apply State.raiseGlb_keeps
    | (fail_if_no_progress (with_reducible apply Keeps.upd <;> try (show _ = _; rfl)))
    | dsimp only
    | split

theorem execErrorAck_keeps {z s : State} (h : Keeps z s) (q : Nat) :
    ResKeeps z (execErrorAck q s) := by
  unfold execErrorAck
  repeat' first
    | assumption
    | with_reducible apply CmdOut.Keeps.done
    | with_reducible apply Keeps.forEach
    | with_reducible apply runCmd_keeps
    | with_reducible apply State.ackEntry_keeps
    | intro _

theorem execErrEntryRepeatRead_keeps {z s : State} (h : Keeps z s) (i : Nat) :
    ResKeeps z (execErrEntryRepeatRead i s) := by
  unfold execErrEntryRepeatRead
  repeat' first
    | assumption
    | with_reducible apply ResKeeps.next
    | with_reducible apply State.tlp_keeps
    | with_reducible apply State.completes_keeps
    | with_reducible apply State.reportEntries_keeps

theorem execTbNowLoRead_keeps {z s : State} (h : Keeps z s) :
    ResKeeps z (execTbNowLoRead s) := by
  unfold execTbNowLoRead
  repeat' first
    | assumption
    | with_reducible apply ResKeeps.next
    | with_reducible apply Keeps.updTb
    | with_reducible apply State.tlp_keeps
    | with_reducible apply State.completes_keeps
    | with_reducible apply State.draw_keeps

end Sys2Proof.Machine
end

