-- ==== Sys2Proof/Laws/KeepsPcie.lean ====
section
/-! SUPPORT. `Keeps` for the operations and meanings of Machine/Pcie.lean. -/

namespace Sys2Proof.Machine

theorem State.flushMsix_keeps {z s : State} (h : Keeps z s) :
    Keeps z (State.flushMsix s) := by
  unfold State.flushMsix
  repeat' first
    | assumption
    | with_reducible apply Keeps.forEach
    | with_reducible apply State.sendMsix_keeps
    | (fail_if_no_progress (with_reducible apply Keeps.upd <;> try (show _ = _; rfl)))
    | intro _
    | dsimp only
    | split

theorem State.dmaMask_keeps {z s : State} (h : Keeps z s) (c : Nat) (v : Nat) :
    Keeps z (State.dmaMask s c v) := by
  unfold State.dmaMask
  repeat' first
    | assumption
    | with_reducible apply Keeps.updDma
    | with_reducible apply State.signal_keeps
    | dsimp only
    | split

theorem execIrqMaskWrite_keeps {z s : State} (h : Keeps z s) (c : Nat) (v : Word) :
    ResKeeps z (execIrqMaskWrite c v s) := by
  unfold execIrqMaskWrite
  repeat' first
    | assumption
    | with_reducible apply ResKeeps.next
    | with_reducible apply State.tlp_keeps
    | with_reducible apply State.dmaMask_keeps

theorem State.glbMask_keeps {z s : State} (h : Keeps z s) (v : Nat) :
    Keeps z (State.glbMask s v) := by
  unfold State.glbMask
  repeat' first
    | assumption
    | with_reducible apply Keeps.forEach
    | with_reducible apply Keeps.updPcie
    | with_reducible apply State.signal_keeps
    | intro _
    | split

theorem execGlbIrqMaskWrite_keeps {z s : State} (h : Keeps z s) (v : Word) :
    ResKeeps z (execGlbIrqMaskWrite v s) := by
  unfold execGlbIrqMaskWrite
  repeat' first
    | assumption
    | with_reducible apply ResKeeps.next
    | with_reducible apply State.tlp_keeps
    | with_reducible apply State.glbMask_keeps

theorem State.updMsix_keeps {z s : State} (h : Keeps z s) (v : Nat) (f : MsixEntry → MsixEntry) :
    Keeps z (State.updMsix s v f) := by
  unfold State.updMsix
  repeat' first
    | assumption
    | with_reducible apply Keeps.updPcie
    | with_reducible apply State.flushMsix_keeps

theorem execMsixUnmask_keeps {z s : State} (h : Keeps z s) (v : Nat) :
    ResKeeps z (execMsixUnmask v s) := by
  unfold execMsixUnmask
  repeat' first
    | assumption
    | with_reducible apply ResKeeps.next
    | with_reducible apply State.tlp_keeps
    | with_reducible apply State.updMsix_keeps

theorem State.aerCor_keeps {z s : State} (h : Keeps z s) (b : Nat) (lane : Nat) :
    Keeps z (State.aerCor s b lane) := by
  unfold State.aerCor
  repeat' first
    | assumption
    | with_reducible apply State.corReport_keeps
    | with_reducible apply State.log_keeps

theorem State.aerUnc_keeps {z s : State} (h : Keeps z s) (b : Nat) (advisory : Bool) :
    Keeps z (State.aerUnc s b advisory) := by
  unfold State.aerUnc
  repeat' first
    | assumption
    | with_reducible apply State.uncReport_keeps
    | with_reducible apply State.log_keeps
    | with_reducible apply State.draw_keeps

theorem State.laneSecond_keeps {z s : State} (h : Keeps z s) (lane : Nat) :
    Keeps z (State.laneSecond s lane) := by
  unfold State.laneSecond
  repeat' first
    | assumption
    | with_reducible apply Keeps.updPcie
    | dsimp only
    | split

theorem execReceivedTlpError_keeps {z s0 : State} (h : Keeps z s0) (e : TlpError) :
    ResKeeps z (execReceivedTlpError e s0) := by
  unfold execReceivedTlpError
  repeat' first
    | assumption
    | with_reducible apply ResKeeps.next
    | with_reducible apply ResKeeps.ite
    | with_reducible apply Keeps.updPcie
    | with_reducible apply State.tlp_keeps
    | with_reducible apply State.aerCor_keeps
    | with_reducible apply State.aerUnc_keeps
    | with_reducible apply State.laneSecond_keeps
    | (fail_if_no_progress (with_reducible apply Keeps.upd <;> try (show _ = _; rfl)))
    | intro _
    | dsimp only
    | split

theorem execBar2Write_keeps {z s : State} (h : Keeps z s) (_off : Nat) :
    ResKeeps z (execBar2Write _off s) := by
  unfold execBar2Write
  repeat' first
    | assumption
    | with_reducible apply ResKeeps.next
    | with_reducible apply Keeps.updPcie
    | with_reducible apply State.tlp_keeps
    | with_reducible apply State.aerUnc_keeps

theorem State.bar2Abort_keeps {z s : State} (h : Keeps z s) (off : Nat) :
    Keeps z (State.bar2Abort s off) := by
  unfold State.bar2Abort
  repeat' first
    | assumption
    | with_reducible apply Keeps.updPcie
    | with_reducible apply State.uncReport_keeps
    | with_reducible apply State.log_keeps
    | (fail_if_no_progress (with_reducible apply Keeps.upd <;> try (show _ = _; rfl)))

theorem State.bar2Lost_keeps {z s : State} (h : Keeps z s) (b : Nat) :
    Keeps z (State.bar2Lost s b) := by
  unfold State.bar2Lost
  repeat' first
    | assumption
    | with_reducible apply Keeps.updPcie
    | with_reducible apply State.log_keeps

theorem State.bar2Data_keeps {z s : State} (h : Keeps z s) (r : Bar2Req) :
    Keeps z (State.bar2Data s r) := by
  unfold State.bar2Data
  repeat' first
    | assumption
    | with_reducible apply Keeps.forEach
    | with_reducible apply State.completes_keeps
    | with_reducible apply State.eccApply_keeps
    | with_reducible apply State.bar2Abort_keeps
    | with_reducible apply State.bar2Lost_keeps
    | with_reducible apply State.draw_keeps
    | with_reducible apply State.rsvRead_keeps
    | with_reducible apply State.pondRead_keeps
    | (fail_if_no_progress (with_reducible apply Keeps.upd <;> try (show _ = _; rfl)))
    | intro _
    | dsimp only
    | split

theorem execBar2Read_keeps {z s : State} (h : Keeps z s) (off : Nat) (len : Nat) (ecc : EccReport) :
    ResKeeps z (execBar2Read off len ecc s) := by
  unfold execBar2Read
  repeat' first
    | assumption
    | with_reducible apply ResKeeps.next
    | with_reducible apply ResKeeps.ite
    | with_reducible apply Keeps.updPcie
    | with_reducible apply State.tlp_keeps
    | with_reducible apply State.bar2Data_keeps
    | (fail_if_no_progress (with_reducible apply Keeps.upd <;> try (show _ = _; rfl)))
    | intro _

theorem State.queueWrite_keeps {z s : State} (h : Keeps z s) (q : Nat) (o : Nat) (v : Word) :
    Keeps z (State.queueWrite s q o v) := by
  unfold State.queueWrite
  repeat' first
    | assumption
    | with_reducible apply Keeps.updQ
    | with_reducible apply State.askWake_keeps
    | with_reducible apply State.latch_keeps
    | with_reducible apply State.doorbell_keeps
    | with_reducible apply State.consume_keeps
    | with_reducible apply State.qCtlWrite_keeps
    | dsimp only
    | split

theorem State.eqWrite_keeps {z s : State} (h : Keeps z s) (e : Nat) (o : Nat) (v : Word) :
    Keeps z (State.eqWrite s e o v) := by
  unfold State.eqWrite
  repeat' first
    | assumption
    | with_reducible apply Keeps.updEq
    | with_reducible apply State.latch_keeps
    | with_reducible apply State.eqCtlWrite_keeps
    | with_reducible apply State.eqHead_keeps
    | intro _
    | dsimp only
    | split

theorem State.dmaWrite_keeps {z s : State} (h : Keeps z s) (c : Nat) (o : Nat) (v : Word) :
    Keeps z (State.dmaWrite s c o v) := by
  unfold State.dmaWrite
  repeat' first
    | assumption
    | with_reducible apply Keeps.updDma
    | with_reducible apply State.dmaCtl_keeps
    | with_reducible apply State.dmaMask_keeps
    | dsimp only
    | split

theorem State.glbWrite_keeps {z s : State} (h : Keeps z s) (o : Nat) (n : Nat) :
    Keeps z (State.glbWrite s o n) := by
  unfold State.glbWrite
  repeat' first
    | assumption
    | with_reducible apply Keeps.updPcie
    | with_reducible apply State.glbMask_keeps
    | with_reducible apply State.updMsix_keeps
    | dsimp only
    | split

theorem State.kprWrite_keeps {z s : State} (h : Keeps z s) (o : Nat) (n : Nat) :
    Keeps z (State.kprWrite s o n) := by
  unfold State.kprWrite
  repeat' first
    | assumption
    | with_reducible apply Keeps.updKpr
    | with_reducible apply State.imgBell_keeps
    | dsimp only
    | split

theorem State.buoyWrite_keeps {z s : State} (h : Keeps z s) (o : Nat) (n : Nat) :
    Keeps z (State.buoyWrite s o n) := by
  unfold State.buoyWrite
  repeat' first
    | assumption
    | with_reducible apply Keeps.updBuoy
    | dsimp only
    | split

theorem State.bar0Write_keeps {z s : State} (h : Keeps z s) (a : Nat) (v : Word) : Keeps z (State.bar0Write s a v) := by
  unfold State.bar0Write
  apply Keeps.ite <;> intro _
  · exact h
  apply Keeps.ite <;> intro _
  · exact State.glbWrite_keeps h _ _
  apply Keeps.ite <;> intro _
  · exact h
  apply Keeps.ite <;> intro _
  · exact State.queueWrite_keeps h _ _ _
  apply Keeps.ite <;> intro _
  · apply Keeps.ite <;> intro _
    · exact State.abortAll_keeps h _
    · exact h
  apply Keeps.ite <;> intro _
  · exact State.eqWrite_keeps h _ _ _
  apply Keeps.ite <;> intro _
  · exact h
  apply Keeps.ite <;> intro _
  · exact State.kprWrite_keeps h _ _
  apply Keeps.ite <;> intro _
  · exact State.buoyWrite_keeps h _ _
  apply Keeps.ite <;> intro _
  · exact State.dmaWrite_keeps h _ _ _
  · exact h

theorem State.cfgWrite_keeps {z s : State} (h : Keeps z s) (f : CfgField) (v : Nat) :
    Keeps z (State.cfgWrite s f v) := by
  unfold State.cfgWrite
  repeat' first
    | assumption
    | with_reducible apply Keeps.updPcie
    | with_reducible apply State.flushMsix_keeps
    | dsimp only
    | split

theorem execRegisterWrite_keeps {z s0 : State} (h : Keeps z s0) (t : RegTarget) (v : DWord) (be : BitVec 4) :
    ResKeeps z (execRegisterWrite t v be s0) := by
  unfold execRegisterWrite
  repeat' first
    | assumption
    | with_reducible apply ResKeeps.next
    | with_reducible apply ResKeeps.ite
    | with_reducible apply Keeps.updPcie
    | with_reducible apply State.tlp_keeps
    | with_reducible apply State.bar0Write_keeps
    | with_reducible apply State.cfgWrite_keeps
    | intro _
    | dsimp only
    | split

theorem execCompletionTimeout_keeps {z s : State} (h : Keeps z s) (r : TimeoutReq) :
    ResKeeps z (execCompletionTimeout r s) := by
  unfold execCompletionTimeout
  repeat' first
    | assumption
    | with_reducible apply ResKeeps.next
    | with_reducible apply ResKeeps.ite
    | with_reducible apply State.fetchError_keeps
    | with_reducible apply State.endCommand_keeps
    | with_reducible apply State.dmaResponse_keeps
    | with_reducible apply State.aerUnc_keeps
    | intro _
    | dsimp only
    | split

theorem Cp.suspendAll_held (c : Cp) (h : ∀ e ∈ c.eqs, e.held.length ≤ 256) : ∀ e ∈ c.suspendAll.eqs, e.held.length ≤ 256 := by
  intro e he
  simp only [Cp.suspendAll, List.mem_map] at he
  obtain ⟨x, hx, rfl⟩ := he
  have := h x hx
  unfold EventQueue.suspend
  split <;> exact this

theorem State.flr_keeps {z s : State} (h : Keeps z s) : Keeps z (State.flr s) := by
  unfold State.flr
  apply State.recover_keeps
  refine Keeps.updHeld ?_ _ (Cp.suspendAll_held _)
  apply State.dropRolledBack_keeps
  apply Keeps.ite <;> intro _
  · exact Keeps.upd (Keeps.updPcie h _) rfl rfl rfl
  · exact Keeps.updPcie h _

theorem execFlr_keeps {z s : State} (h : Keeps z s) :
    ResKeeps z (execFlr s) := by
  unfold execFlr
  repeat' first
    | assumption
    | with_reducible apply ResKeeps.next
    | with_reducible apply State.tlp_keeps
    | with_reducible apply State.flr_keeps

theorem State.linkLost_keeps {z s : State} (h : Keeps z s) :
    Keeps z (State.linkLost s) := by
  unfold State.linkLost
  repeat' first
    | assumption
    | with_reducible apply Keeps.updPcie
    | with_reducible apply State.flr_keeps

theorem execHotReset_keeps {z s : State} (h : Keeps z s) :
    ResKeeps z (execHotReset s) := by
  unfold execHotReset
  repeat' first
    | assumption
    | with_reducible apply ResKeeps.next
    | with_reducible apply State.linkLost_keeps

theorem execD3hotEnter_keeps {z s : State} (h : Keeps z s) :
    ResKeeps z (execD3hotEnter s) := by
  unfold execD3hotEnter
  repeat' first
    | assumption
    | with_reducible apply ResKeeps.next
    | with_reducible apply Keeps.updPcie
    | with_reducible apply State.tlp_keeps
    | with_reducible apply State.pme_keeps
    | dsimp only
    | split

theorem execD0Return_keeps {z s : State} (h : Keeps z s) :
    ResKeeps z (execD0Return s) := by
  unfold execD0Return
  repeat' first
    | assumption
    | with_reducible apply ResKeeps.next
    | with_reducible apply Keeps.updPcie
    | with_reducible apply State.tlp_keeps
    | with_reducible apply State.dmaPump_keeps
    | with_reducible apply State.flushMsix_keeps

theorem execLaneFault_keeps {z s : State} (h : Keeps z s) (lane : Nat) (cause : Nat) :
    ResKeeps z (execLaneFault lane cause s) := by
  unfold execLaneFault
  repeat' first
    | assumption
    | with_reducible apply ResKeeps.next
    | with_reducible apply ResKeeps.ite
    | with_reducible apply Keeps.updPcie
    | with_reducible apply State.log_keeps
    | with_reducible apply State.linkLost_keeps
    | intro _
    | dsimp only
    | split

theorem execPcieLinkUp_keeps {z s : State} (h : Keeps z s) (gen : Nat) (width : Nat) (flit : Bool) :
    ResKeeps z (execPcieLinkUp gen width flit s) := by
  unfold execPcieLinkUp
  repeat' first
    | assumption
    | with_reducible apply ResKeeps.next
    | with_reducible apply ResKeeps.ite
    | with_reducible apply Keeps.updPcie
    | with_reducible apply State.dmaPump_keeps
    | with_reducible apply State.flushMsix_keeps
    | with_reducible apply State.draw_keeps
    | intro _
    | dsimp only
    | split

end Sys2Proof.Machine
end

