-- ==== Sys2Proof/Laws/KeepsPower.lean ====
section
/-! SUPPORT. `Keeps` for the operations and meanings of Machine/Power.lean. -/

namespace Sys2Proof.Machine

theorem State.loseFields_keeps {z s : State} (h : Keeps z s) (d : Nat) : Keeps z (State.loseFields s d) :=
  h.trans ⟨rfl, id, id, fun hc => swf_filter _ hc _, id, id, id⟩

theorem State.loseQuad_keeps {z s0 : State} (h : Keeps z s0) (q : Nat) :
    Keeps z (State.loseQuad s0 q) := by
  unfold State.loseQuad
  repeat' first
    | assumption
    | with_reducible apply Keeps.forEach
    | with_reducible apply Keeps.updAcqCh
    | with_reducible apply Keeps.updCal
    | with_reducible apply Keeps.updQuad
    | with_reducible apply State.remember_keeps
    | with_reducible apply State.setCal_keeps
    | intro _

theorem State.loseWeir_keeps {z s : State} (h : Keeps z s) (k : Nat) : Keeps z (State.loseWeir s k) := by
  unfold State.loseWeir
  apply Keeps.forEach
  · exact Keeps.forEach (State.remember_keeps h) _ _ (fun s n hs => Keeps.updWeir hs _ _)
  · exact fun s g hs => Keeps.updSnd (Keeps.updTrg hs _ _) _ _

theorem State.portsDown_keeps {z s : State} (h : Keeps z s) (s0 : State) (p : Nat) :
    Keeps z (State.portsDown s s0 p) := by
  unfold State.portsDown
  repeat' first
    | assumption
    | with_reducible apply State.log_keeps
    | split

theorem State.loseCp_keeps {z s : State} (h : Keeps z s) :
    Keeps z (State.loseCp s) := by
  unfold State.loseCp
  repeat' first
    | assumption
    | with_reducible apply Keeps.updCp
    | (fail_if_no_progress (with_reducible apply Keeps.upd <;> try (show _ = _; rfl)))
    | (show _ = _; rfl)

theorem State.losePll_keeps {z s : State} (h : Keeps z s) : Keeps z (State.losePll s) := by
  unfold State.losePll
  have h1 := State.markBase_keeps h
  generalize s.markBase = t at h1
  exact State.rechoose_keeps ((State.stacksSr_keeps ((State.toSpr_keeps (h1.updSpr _) _).updTb _) _).updLtn _)

theorem State.loseLink_keeps {z s : State} (h : Keeps z s) : Keeps z (State.loseLink s) := by
  unfold State.loseLink
  apply Keeps.ite <;> intro _
  · exact State.dmaPump_keeps (Keeps.upd (State.dmaHaltDue_keeps (Keeps.updPcie h _) _ _) rfl rfl rfl)
  · exact Keeps.updPcie h _

theorem State.loseBuoy_keeps {z s : State} (h : Keeps z s) :
    Keeps z (State.loseBuoy s) := by
  unfold State.loseBuoy
  repeat' first
    | assumption
    | with_reducible apply State.finishWaits_keeps
    | (fail_if_no_progress (with_reducible apply Keeps.upd <;> try (show _ = _; rfl)))

theorem State.loseDomain_keeps {z s : State} (h : Keeps z s) (d : Nat) : Keeps z (State.loseDomain s d) := by
  unfold State.loseDomain
  have h1 : Keeps z (if d = 42 then s else s.loseFields d) := by
    apply Keeps.ite <;> intro _
    · exact h
    · exact State.loseFields_keeps h _
  generalize (if d = 42 then s else s.loseFields d) = t at *
  apply Keeps.ite <;> intro _
  · exact State.loseQuad_keeps h1 _
  apply Keeps.ite <;> intro _
  · exact State.loseWeir_keeps h1 _
  apply Keeps.ite <;> intro _
  · exact ⟨h1.pending, h1.rsvMem, fun _ => rfl, h1.cfg, h1.pend, h1.held, h1.stby⟩
  apply Keeps.ite <;> intro _
  · exact State.losePll_keeps h1
  apply Keeps.ite <;> intro _
  · refine Keeps.forEach ?_ _ _ (fun s p hs => State.portsDown_keeps hs _ _)
    exact Keeps.upd h1 rfl rfl rfl
  apply Keeps.ite <;> intro _
  · exact State.loseLink_keeps h1
  apply Keeps.ite <;> intro _
  · exact State.loseCp_keeps h1
  apply Keeps.ite <;> intro _
  · refine Keeps.upd ?_ rfl rfl rfl
    apply Keeps.forEach h1
    intro s k hs
    apply Keeps.ite <;> intro _
    · exact hs
    · exact State.dpTo_keeps hs _ _
  apply Keeps.ite <;> intro _
  · exact Keeps.upd h1 rfl rfl rfl
  apply Keeps.ite <;> intro _
  · exact State.loseBuoy_keeps h1
  · exact h1

theorem State.setNow_keeps {z s : State} (h : Keeps z s) (src : Nat) (b : Bool) :
    Keeps z (State.setNow s src b) := by
  unfold State.setNow
  repeat' first
    | assumption
    | with_reducible apply Keeps.updKpr

theorem State.resumeStore_keeps {z s : State} (h : Keeps z s) :
    Keeps z (State.resumeStore s) := by
  unfold State.resumeStore
  repeat' first
    | assumption
    | with_reducible exact rfl
    | with_reducible apply Keeps.updCp

theorem State.wakeStore_keeps {z s : State} (h : Keeps z s) :
    Keeps z (State.wakeStore s) := by
  unfold State.wakeStore
  repeat' first
    | assumption
    | with_reducible apply Keeps.updDom
    | with_reducible apply Keeps.updKpr
    | with_reducible apply Keeps.updPwr
    | with_reducible apply State.raiseAlarm_keeps
    | with_reducible apply State.setNow_keeps
    | with_reducible apply State.resumeStore_keeps
    | with_reducible apply State.draw_keeps
    | dsimp only
    | split

theorem State.gainDomain_keeps {z s : State} (h : Keeps z s) (d : Nat) (cause : Nat) :
    Keeps z (State.gainDomain s d cause) := by
  unfold State.gainDomain
  repeat' first
    | assumption
    | with_reducible apply Keeps.forEach
    | with_reducible apply Keeps.updCal
    | with_reducible apply Keeps.updQuad
    | with_reducible apply State.remember_keeps
    | with_reducible apply State.syncReset_keeps
    | with_reducible apply State.startRestart_keeps
    | with_reducible apply State.startRebuild_keeps
    | with_reducible apply State.loseFields_keeps
    | with_reducible apply State.wakeStore_keeps
    | intro _
    | dsimp only
    | split

theorem State.setLow_keeps {z s : State} (h : Keeps z s) (ds : List Nat) (b : Bool) :
    Keeps z (State.setLow s ds b) := by
  unfold State.setLow
  repeat' first
    | assumption
    | with_reducible apply Keeps.forEach
    | with_reducible apply Keeps.updDom
    | intro _

theorem State.stacksLow_keeps {z s : State} (h : Keeps z s) (b : Bool) : Keeps z (State.stacksLow s b) :=
  Keeps.ite (fun _ => State.setLow_keeps h _ _) (fun _ => State.stacksSr_keeps (State.setLow_keeps h _ _) _)

theorem State.lockLow_keeps {z s : State} (h : Keeps z s) (b : Bool) :
    Keeps z (State.lockLow s b) := by
  unfold State.lockLow
  repeat' first
    | assumption
    | with_reducible apply Keeps.updSpr
    | with_reducible apply State.rechoose_keeps
    | with_reducible apply State.setLow_keeps

theorem State.linkLow_keeps {z s : State} (h : Keeps z s) (b : Bool) :
    Keeps z (State.linkLow s b) := by
  unfold State.linkLow
  repeat' first
    | assumption
    | with_reducible apply Keeps.updPcie
    | with_reducible apply State.setLow_keeps

theorem State.ramp_keeps {z s : State} (h : Keeps z s) (d : Nat) (up : Bool) :
    Keeps z (State.ramp s d up) := by
  unfold State.ramp
  repeat' first
    | assumption
    | with_reducible apply Keeps.updPwr
    | with_reducible apply State.loseDomain_keeps
    | dsimp only
    | split

theorem powerAct_keeps {z s : State} (h : Keeps z s) (e : JEntry) :
    CmdOut.Keeps z (powerAct s e) := by
  unfold powerAct
  repeat' first
    | assumption
    | with_reducible apply CmdOut.Keeps.ite
    | with_reducible apply CmdOut.Keeps.done
    | with_reducible apply CmdOut.Keeps.wait
    | with_reducible apply CmdOut.keeps_refuse
    | with_reducible apply Keeps.updPwr
    | with_reducible apply State.closeDebug_keeps
    | intro _
    | dsimp only
    | split

theorem State.endTrans_keeps {z s : State} (h : Keeps z s) (t : Trans) :
    Keeps z (State.endTrans s t) := by
  unfold State.endTrans
  repeat' first
    | assumption
    | with_reducible apply Keeps.updPwr
    | with_reducible apply State.finishWaits_keeps
    | with_reducible apply State.linkLow_keeps
    | dsimp only
    | split

theorem State.discardUnits_keeps {z s : State} (h : Keeps z s) (mask : Nat) : Keeps z (State.discardUnits s mask) := by
  refine h.trans ⟨rfl, id, id, id, ?_, id, id⟩
  intro hp x hx
  simp only [State.discardUnits, List.mem_mapIdx] at hx
  obtain ⟨i, hi, rfl⟩ := hx
  split
  · simp
  · exact hp _ (List.getElem_mem _)

theorem State.beginRestart_keeps {z s : State} (h : Keeps z s) (d cause : Nat) : Keeps z (State.beginRestart s d cause) := by
  unfold State.beginRestart
  extract_lets held t s1 s2 was s3 first
  have h1 : Keeps z s1 := (h.updPwr _).updDom _ _
  have h2 : Keeps z s2 := Keeps.ite (fun _ => State.log_keeps h1 _ _ _ _ _) (fun _ => State.log_keeps h1 _ _ _ _ _)
  have h3 : Keeps z s3 := Keeps.ite (fun _ => State.stackFault_keeps h2 _ _) (fun _ => h2)
  clear_value s3
  have h4 := State.endGroups_keeps h3 (s3.endedBy d) .fault (decide (d ≠ 36))
  generalize s3.endGroups (s3.endedBy d) .fault (decide (d ≠ 36)) = r at *
  obtain ⟨s4, ended⟩ := r
  dsimp -zeta only
  extract_lets mask s5 s6 s7 s8
  have h5 : Keeps z s5 := State.discardUnits_keeps h4 _
  have h6 : Keeps z s6 := Keeps.ite (fun _ => State.copyFail_keeps h5 _ _) (fun _ => h5)
  have h7 : Keeps z s7 := Keeps.ite (fun _ => State.cancelForces_keeps h6) (fun _ => h6)
  have h8 : Keeps z s8 := Keeps.ite (fun _ => State.dmaPump_keeps (State.dmaHaltDue_keeps h7 _ _)) (fun _ => h7)
  exact Keeps.ite (fun _ => h8) (fun _ => State.recoverDomain_keeps h8 _ _ _)

theorem State.restartDomain_keeps {z s : State} (h : Keeps z s) (d : Nat) (cause : Nat) :
    Keeps z (State.restartDomain s d cause) := by
  unfold State.restartDomain
  repeat' first
    | assumption
    | with_reducible apply Keeps.updPwr
    | with_reducible apply State.beginRestart_keeps
    | split

theorem State.retainStep_keeps {z s : State} (h : Keeps z s) (t : Trans) :
    Keeps z (State.retainStep s t).1 := by
  unfold State.retainStep
  repeat' first
    | assumption
    | with_reducible apply Keeps.updDom
    | with_reducible apply Keeps.updPwr
    | dsimp only
    | split

theorem State.nextTrans_keeps {z s : State} (h : Keeps z s) :
    Keeps z (State.nextTrans s).1 := by
  unfold State.nextTrans
  repeat' first
    | assumption
    | with_reducible apply Keeps.updPwr
    | with_reducible apply State.wake_keeps
    | with_reducible apply State.conclude_keeps
    | with_reducible apply powerAct_keeps
    | with_reducible apply State.beginRestart_keeps
    | dsimp only
    | split

theorem State.seqStep_keeps {z s : State} (h : Keeps z s) :
    Keeps z (State.seqStep s).1 := by
  unfold State.seqStep
  repeat' first
    | assumption
    | with_reducible apply Keeps.forEach
    | with_reducible apply Keeps.updPwr
    | with_reducible apply State.finish_keeps
    | with_reducible apply State.resumeStore_keeps
    | with_reducible apply State.stacksLow_keeps
    | with_reducible apply State.lockLow_keeps
    | with_reducible apply State.ramp_keeps
    | with_reducible apply State.endTrans_keeps
    | with_reducible apply State.retainStep_keeps
    | with_reducible apply State.nextTrans_keeps
    | intro _
    | dsimp only
    | split

theorem State.runSteps_keeps {z s : State} (h : Keeps z s) (n : Nat) : Keeps z (State.runSteps n s) := by
  induction n generalizing s with
  | zero => exact h
  | succ n ih =>
    unfold State.runSteps
    have h1 := State.seqStep_keeps h
    generalize s.seqStep = r at *
    obtain ⟨t, b⟩ := r
    cases b
    · exact h1
    · exact ih h1

theorem State.sequencer_keeps {z s : State} (h : Keeps z s) : Keeps z (State.sequencer s) := State.runSteps_keeps h 512

theorem execCqPost_keeps {z s : State} (h : Keeps z s) (q : Nat) :
    ResKeeps z (execCqPost q s) := by
  unfold execCqPost
  repeat' first
    | assumption
    | with_reducible apply ResKeeps.next
    | with_reducible apply State.cqPost_keeps
    | with_reducible apply State.sequencer_keeps
    | split

theorem State.rampedOff_keeps {z s : State} (h : Keeps z s) (d : Nat) (cause : Nat) (again : Bool) :
    Keeps z (State.rampedOff s d cause again) := by
  unfold State.rampedOff
  repeat' first
    | assumption
    | with_reducible apply Keeps.updDom
    | with_reducible apply State.domainEvent_keeps

theorem execDomainRampDone_keeps {z s : State} (h : Keeps z s) :
    ResKeeps z (execDomainRampDone s) := by
  unfold execDomainRampDone
  repeat' first
    | assumption
    | with_reducible apply ResKeeps.next
    | with_reducible apply ResKeeps.ite
    | with_reducible apply Keeps.forEach
    | with_reducible apply Keeps.updDom
    | with_reducible apply Keeps.updPwr
    | with_reducible apply State.flushStby_keeps
    | with_reducible apply State.domainEvent_keeps
    | with_reducible apply State.gainDomain_keeps
    | with_reducible apply State.ramp_keeps
    | with_reducible apply State.sequencer_keeps
    | with_reducible apply State.rampedOff_keeps
    | intro _
    | dsimp only
    | split

theorem execDomainRestartOn_keeps {z s : State} (h : Keeps z s) (d : Nat) :
    ResKeeps z (execDomainRestartOn d s) := by
  unfold execDomainRestartOn
  repeat' first
    | assumption
    | with_reducible apply ResKeeps.next
    | with_reducible apply ResKeeps.ite
    | with_reducible apply Keeps.updDom
    | with_reducible apply State.sequencer_keeps
    | intro _

theorem execHeartbeatTimeout_keeps {z s : State} (h : Keeps z s) (d : Nat) :
    ResKeeps z (execHeartbeatTimeout d s) := by
  unfold execHeartbeatTimeout
  repeat' first
    | assumption
    | with_reducible apply ResKeeps.next
    | with_reducible apply State.restartDomain_keeps
    | with_reducible apply State.sequencer_keeps

theorem execUncorrectableStateError_keeps {z s : State} (h : Keeps z s) (d : Nat) :
    ResKeeps z (execUncorrectableStateError d s) := by
  unfold execUncorrectableStateError
  repeat' first
    | assumption
    | with_reducible apply ResKeeps.next
    | with_reducible apply State.restartDomain_keeps
    | with_reducible apply State.sequencer_keeps

theorem State.freeCode_keeps {z s : State} (h : Keeps z s) :
    Keeps z (State.freeCode s).2 := by
  unfold State.freeCode
  repeat' first
    | assumption
    | with_reducible apply State.draw_keeps

theorem execRailComparatorTrip_keeps {z s : State} (h : Keeps z s) (d : Nat) :
    ResKeeps z (execRailComparatorTrip d s) := by
  unfold execRailComparatorTrip
  repeat' first
    | assumption
    | with_reducible apply ResKeeps.next
    | with_reducible apply ResKeeps.ite
    | with_reducible apply State.raiseAlarm_keeps
    | with_reducible apply State.restartDomain_keeps
    | with_reducible apply State.sequencer_keeps
    | with_reducible apply State.freeCode_keeps
    | intro _

theorem execTempComparatorCheck_keeps {z s : State} (h : Keeps z s) (out : Bool) :
    ResKeeps z (execTempComparatorCheck out s) := by
  unfold execTempComparatorCheck
  repeat' first
    | assumption
    | with_reducible apply ResKeeps.next
    | with_reducible apply ResKeeps.ite
    | with_reducible apply State.raiseAlarm_keeps
    | with_reducible apply State.setNow_keeps
    | intro _
    | split

theorem execPowerState_keeps {z s : State} (h : Keeps z s) (q : Nat) : ResKeeps z (execPowerState q s) := by
  unfold execPowerState
  have h1 := fun spans pre body hb => runCmd_keeps h q 0x60 spans pre body hb
  generalize hr : runCmd s q 0x60 _ _ _ = r
  have hk : ResKeeps z r := by
    rw [← hr]
    apply h1
    intro e
    apply CmdOut.Keeps.ite <;> intro _
    · exact .wait h
    · exact powerAct_keeps h _
  cases hk with
  | next ht => exact .next (State.sequencer_keeps ht)

theorem execDomainControl_keeps {z s : State} (h : Keeps z s) (q : Nat) : ResKeeps z (execDomainControl q s) := by
  unfold execDomainControl
  generalize hr : runCmd s q 0x61 _ _ _ = r
  have hk : ResKeeps z r := by
    rw [← hr]
    apply runCmd_keeps h
    intro e
    apply CmdOut.Keeps.ite <;> intro _
    · exact CmdOut.keeps_refuse h
    · apply CmdOut.Keeps.ite <;> intro _
      · exact .hold
      · exact .wait (Keeps.updPwr h _)
  cases hk with
  | next ht => exact .next (State.sequencer_keeps ht)

end Sys2Proof.Machine
end

