-- ==== Sys2Proof/Laws/KeepsBuoy.lean ====
section
/-! SUPPORT. `Keeps` for the operations and meanings of Machine/Buoy.lean. -/

namespace Sys2Proof.Machine

theorem execBuoyScanStart_keeps {z s : State} (h : Keeps z s) :
    ResKeeps z (execBuoyScanStart s) := by
  unfold execBuoyScanStart
  repeat' first
    | assumption
    | with_reducible apply ResKeeps.next
    | with_reducible apply ResKeeps.ite
    | with_reducible apply Keeps.updBuoy
    | intro _

theorem State.fixedAlarm_keeps {z s : State} (h : Keeps z s) (i : Nat) (code : Nat) :
    Keeps z (State.fixedAlarm s i code) := by
  unfold State.fixedAlarm
  repeat' first
    | assumption
    | with_reducible apply State.raiseAlarm_keeps
    | with_reducible apply State.restartDomain_keeps
    | split

theorem State.buoySources_keeps {z s : State} (h : Keeps z s) :
    Keeps z (State.buoySources s) := by
  unfold State.buoySources
  repeat' first
    | assumption
    | with_reducible apply State.setNow_keeps

theorem State.judgeInput_keeps {z s : State} (h : Keeps z s) (i : Nat) (code : Nat) (l : BuoyLim) :
    Keeps z (State.judgeInput s i code l) := by
  unfold State.judgeInput
  repeat' first
    | assumption
    | with_reducible apply Keeps.updBuoy
    | with_reducible apply State.raiseGlb_keeps
    | with_reducible apply State.log_keeps
    | with_reducible apply State.fixedAlarm_keeps
    | with_reducible apply State.buoySources_keeps
    | dsimp only
    | split

theorem State.putResult_keeps {z s : State} (h : Keeps z s) (i : Nat) (code : Nat) :
    Keeps z (State.putResult s i code) := by
  unfold State.putResult
  repeat' first
    | assumption
    | with_reducible apply Keeps.updBuoy

theorem State.urgentDone_keeps {z s : State} (h : Keeps z s) :
    Keeps z (State.urgentDone s) := by
  unfold State.urgentDone
  repeat' first
    | assumption
    | with_reducible apply Keeps.updBuoy
    | with_reducible apply State.finishWaits_keeps
    | dsimp only
    | split

theorem execBuoyConversionDone_keeps {z s : State} (h : Keeps z s) (code : Nat) :
    ResKeeps z (execBuoyConversionDone code s) := by
  unfold execBuoyConversionDone
  repeat' first
    | assumption
    | with_reducible apply ResKeeps.next
    | with_reducible apply ResKeeps.ite
    | with_reducible apply Keeps.updBuoy
    | with_reducible apply State.sequencer_keeps
    | with_reducible apply State.judgeInput_keeps
    | with_reducible apply State.putResult_keeps
    | with_reducible apply State.urgentDone_keeps
    | intro _
    | split

theorem execAgeingGate_keeps {z s : State} (h : Keeps z s) (i : Nat) (count : Nat) :
    ResKeeps z (execAgeingGate i count s) := by
  unfold execAgeingGate
  repeat' first
    | assumption
    | with_reducible apply ResKeeps.next
    | with_reducible apply ResKeeps.ite
    | with_reducible apply Keeps.updBuoy
    | intro _

theorem State.scanConfig_keeps {z s : State} (h : Keeps z s) (p : Packet) (lim : List BuoyLim) :
    Keeps z (State.scanConfig s p lim) := by
  unfold State.scanConfig
  repeat' first
    | assumption
    | with_reducible apply Keeps.updBuoy

theorem execMonitorScanConfig_keeps {z s : State} (h : Keeps z s) (q : Nat) (tbl : Table) :
    ResKeeps z (execMonitorScanConfig q tbl s) := by
  unfold execMonitorScanConfig
  repeat' first
    | assumption
    | with_reducible apply CmdOut.Keeps.ite
    | with_reducible apply CmdOut.Keeps.done
    | with_reducible apply CmdOut.keeps_refuse
    | with_reducible apply runCmd_keeps
    | with_reducible apply withTable_keeps
    | with_reducible apply State.scanConfig_keeps
    | intro _

theorem execMonitorReadLast_keeps {z s : State} (h : Keeps z s) (q : Nat) :
    ResKeeps z (execMonitorReadLast q s) := by
  unfold execMonitorReadLast
  repeat' first
    | assumption
    | with_reducible apply CmdOut.Keeps.ite
    | with_reducible apply CmdOut.Keeps.done
    | with_reducible apply CmdOut.keeps_refuse
    | with_reducible apply runCmdSel_keeps
    | intro _

theorem execMonitorReadUrgent_keeps {z s : State} (h : Keeps z s) (q : Nat) :
    ResKeeps z (execMonitorReadUrgent q s) := by
  unfold execMonitorReadUrgent
  repeat' first
    | assumption
    | with_reducible apply CmdOut.Keeps.ite
    | with_reducible apply CmdOut.Keeps.done
    | with_reducible apply CmdOut.Keeps.wait
    | with_reducible apply CmdOut.keeps_refuse
    | with_reducible apply Keeps.updBuoy
    | with_reducible apply runCmdSel_keeps
    | intro _

end Sys2Proof.Machine
end

