-- ==== Sys2Proof/Laws/KeepsRelock.lean ====
section
/-! SUPPORT. `Keeps` for the operations and meanings of Machine/Relock.lean. -/

namespace Sys2Proof.Machine

theorem State.bar2Released_keeps {z s : State} (h : Keeps z s) (r : Bar2Req) :
    Keeps z (State.bar2Released s r) := by
  unfold State.bar2Released
  repeat' first
    | assumption
    | with_reducible apply State.bar2Data_keeps
    | (fail_if_no_progress (with_reducible apply Keeps.upd <;> try (show _ = _; rfl)))

theorem State.resumed_keeps {z s : State} (h : Keeps z s) :
    Keeps z (State.resumed s) := by
  unfold State.resumed
  repeat' first
    | assumption
    | with_reducible apply Keeps.forEach
    | with_reducible apply Keeps.updPcie
    | with_reducible apply State.tlp_keeps
    | with_reducible apply State.dmaPump_keeps
    | with_reducible apply State.bar2Released_keeps
    | (fail_if_no_progress (with_reducible apply Keeps.upd <;> try (show _ = _; rfl)))
    | intro _

theorem execLockDeclared_keeps {z s : State} (h : Keeps z s) (x : LockIn) : ResKeeps z (execLockDeclared x s) := by
  unfold execLockDeclared
  apply ResKeeps.ite <;> intro _
  · exact .next h
  · have h1 := State.compareAll_keeps h x.cmps
    apply ResKeeps.next
    refine Keeps.ite (fun _ => h1) (fun _ => Keeps.ite (fun _ => State.firstLock_keeps h1) (fun _ =>
      Keeps.ite (fun _ => ?_) (fun _ => State.returned_keeps h1)))
    exact State.resumed_keeps (State.release_keeps h1 _)

end Sys2Proof.Machine
end

