-- ==== Sys2Proof/Laws/KeepsReset.lean ====
section
/-! SUPPORT. `Keeps` for the operations and meanings of Machine/Reset.lean. -/

namespace Sys2Proof.Machine

theorem State.leaveOff_keeps {z s : State} (h : Keeps z s) : Keeps z (State.leaveOff s) := by
  unfold State.leaveOff
  extract_lets s1 s2
  have h1 : Keeps z s1 := Keeps.upd h rfl rfl rfl
  have h2 : Keeps z s2 := by
    refine Keeps.updCp h1 _ ?_
    split <;> rfl
  exact ⟨h2.pending, fun _ => rfl, h2.pondMem, h2.cfg, h2.pend, h2.held, h2.stby⟩

theorem State.warmReset_keeps {z s : State} (h : Keeps z s) (kind : Nat) : Keeps z (State.warmReset s kind) := by
  unfold State.warmReset
  extract_lets off mask lost s1 s2
  have h1 : Keeps z s1 := by
    refine ⟨h.pending, h.rsvMem, h.pondMem, h.cfg, h.pend, ?_, fun _ => Nat.zero_le _⟩
    intro _ e he
    simp only [s1, State.updCp, List.mem_mapIdx] at he
    obtain ⟨i, hi, rfl⟩ := he
    exact Nat.zero_le _
  have h2 : Keeps z s2 := State.cancelForces_keeps h1
  clear_value s2
  have h3 := State.endGroups_keeps h2 (fun _ => true) .reset false
  generalize s2.endGroups (fun _ => true) .reset false = r at *
  obtain ⟨s3, ended⟩ := r
  have h4 : Keeps z (forEach (List.range 128) s3 (fun s n => s.setCal n .cold)) :=
    Keeps.forEach h3 _ _ (fun s n hs => State.setCal_keeps hs _ _)
  dsimp -zeta only
  generalize forEach (List.range 128) s3 (fun s n => s.setCal n .cold) = t at *
  have h5 : ∀ u : State, u.pending = t.pending → u.rsv.mem = t.rsv.mem → u.pond.mem = [] → u.cfg = [] →
      (∀ x ∈ u.units, x.pend = []) → u.cp.eqs = t.cp.eqs.map EventQueue.suspend → u.stby = t.stby → Keeps z u := by
    intro u hp hr hm hc hu he hs
    refine ⟨hp.trans h4.pending, ?_, ?_, ?_, ?_, ?_, ?_⟩
    · rw [hr]; exact h4.rsvMem
    · rw [hm]; exact fun _ => rfl
    · unfold State.cfgOk; rw [hc]; exact fun _ => rfl
    · intro _ x hx; rw [hu x hx]; exact Nat.zero_le _
    · intro hh e hx
      rw [he, List.mem_map] at hx
      obtain ⟨x, hx, rfl⟩ := hx
      have := h4.held hh x hx
      unfold EventQueue.suspend
      split <;> exact this
    · rw [hs]; exact h4.stby
  have hu : ∀ (f : Nat → CUnit → Bool) (us : List CUnit), ∀ x ∈ us.mapIdx (fun u x => ({ discarded := f u x } : CUnit)), x.pend = [] := by
    intro f us x hx
    simp only [List.mem_mapIdx] at hx
    obtain ⟨i, hi, rfl⟩ := hx
    rfl
  with_reducible apply Keeps.ite <;> intro _
  · apply State.leaveOff_keeps
    exact h5 _ rfl rfl rfl rfl (hu _ _) rfl rfl
  · exact h5 _ rfl rfl rfl rfl (hu _ _) rfl rfl

theorem execResetNAssert_keeps {z s : State} (h : Keeps z s) :
    ResKeeps z (execResetNAssert s) := by
  unfold execResetNAssert
  repeat' first
    | assumption
    | with_reducible exact rfl
    | with_reducible apply ResKeeps.next
    | with_reducible apply ResKeeps.ite
    | with_reducible apply Keeps.updCp
    | with_reducible apply Keeps.updPwr
    | with_reducible apply State.warmReset_keeps
    | intro _

theorem execPerstNAssert_keeps {z s : State} (h : Keeps z s) :
    ResKeeps z (execPerstNAssert s) := by
  unfold execPerstNAssert
  repeat' first
    | assumption
    | with_reducible apply ResKeeps.next
    | with_reducible apply ResKeeps.ite
    | with_reducible apply Keeps.updPwr
    | with_reducible apply State.warmReset_keeps
    | intro _

theorem execColdReset_keeps {z s : State} (h : Keeps z s) : ResKeeps z (execColdReset s) := by
  refine .next ⟨h.pending, fun _ => rfl, fun _ => rfl, fun _ => rfl, ?_, ?_, fun _ => Nat.zero_le _⟩
  · intro _ x hx
    have : x = {} := List.eq_of_mem_replicate hx
    subst this
    exact Nat.zero_le _
  · intro _ x hx
    have : x = {} := List.eq_of_mem_replicate hx
    subst this
    exact Nat.zero_le _

theorem State.finishErase_keeps {z s : State} (h : Keeps z s) :
    Keeps z (State.finishErase s) := by
  unfold State.finishErase
  repeat' first
    | assumption
    | with_reducible apply Keeps.updKpr
    | with_reducible apply State.event_keeps
    | dsimp only
    | split

theorem execVddAonReturn_keeps {z s : State} (h : Keeps z s) :
    ResKeeps z (execVddAonReturn s) := by
  unfold execVddAonReturn
  repeat' first
    | assumption
    | with_reducible apply ResKeeps.next
    | with_reducible apply ResKeeps.ite
    | with_reducible apply Keeps.updPwr
    | with_reducible apply State.finishErase_keeps
    | intro _

theorem State.bootRefuse_keeps {z s : State} (h : Keeps z s) (bad : Nat) (refused : Bool) (bit_ : Nat) :
    Keeps z (State.bootRefuse s bad refused bit_) := by
  unfold State.bootRefuse
  repeat' first
    | assumption
    | with_reducible apply State.log_keeps
    | split

theorem State.readBoot_keeps {z s : State} (h : Keeps z s) (copyA : List Byte) (copyB : List Byte) :
    Keeps z (State.readBoot s copyA copyB) := by
  unfold State.readBoot
  repeat' first
    | assumption
    | with_reducible apply Keeps.updPcie
    | with_reducible apply Keeps.updPwr
    | with_reducible apply State.log_keeps
    | with_reducible apply State.bootRefuse_keeps
    | dsimp only
    | split

theorem State.startUp_keeps {z s : State} (h : Keeps z s) (copyA : List Byte) (copyB : List Byte) :
    Keeps z (State.startUp s copyA copyB) := by
  unfold State.startUp
  repeat' first
    | assumption
    | with_reducible apply Keeps.updKpr
    | with_reducible apply Keeps.updPwr
    | with_reducible apply State.sequencer_keeps
    | with_reducible apply State.readBoot_keeps

theorem execResetRelease_keeps {z s : State} (h : Keeps z s) (resetN : Bool) (flash : Option Sfdp) (copies : List Byte × List Byte) :
    ResKeeps z (execResetRelease resetN flash copies s) := by
  unfold execResetRelease
  repeat' first
    | assumption
    | with_reducible apply ResKeeps.next
    | with_reducible apply ResKeeps.ite
    | with_reducible apply Keeps.updPwr
    | with_reducible apply State.startUp_keeps
    | intro _
    | split

theorem State.startSequencers_keeps {z s : State} (h : Keeps z s) :
    Keeps z (State.startSequencers s) := by
  unfold State.startSequencers
  repeat' first
    | assumption
    | with_reducible exact rfl
    | with_reducible apply Keeps.updCp
    | with_reducible apply State.recoveryEvent_keeps
    | with_reducible apply State.recover_keeps
    | dsimp only
    | split

theorem State.raiseFloor_keeps {z s : State} (h : Keeps z s) :
    Keeps z (State.raiseFloor s) := by
  unfold State.raiseFloor
  repeat' first
    | assumption
    | with_reducible apply Keeps.updKpr

theorem execImageVerified_keeps {z s : State} (h : Keeps z s) (img : Table) :
    ResKeeps z (execImageVerified img s) := by
  unfold execImageVerified
  repeat' first
    | assumption
    | with_reducible exact rfl
    | with_reducible apply ResKeeps.next
    | with_reducible apply ResKeeps.ite
    | with_reducible apply Keeps.updCp
    | with_reducible apply Keeps.updKpr
    | with_reducible apply Keeps.updPwr
    | with_reducible apply State.raiseAlarm_keeps
    | with_reducible apply State.setNow_keeps
    | with_reducible apply State.sequencer_keeps
    | with_reducible apply State.startSequencers_keeps
    | with_reducible apply State.raiseFloor_keeps
    | intro _

theorem State.startSpring_keeps {z s : State} (h : Keeps z s) :
    Keeps z (State.startSpring s) := by
  unfold State.startSpring
  repeat' first
    | assumption
    | with_reducible apply Keeps.updSpr
    | with_reducible apply State.startRelock_keeps
    | dsimp only
    | split

theorem State.freeRunStart_keeps {z s : State} (h : Keeps z s) :
    Keeps z (State.freeRunStart s) := by
  unfold State.freeRunStart
  repeat' first
    | assumption
    | with_reducible apply Keeps.updSpr
    | with_reducible apply Keeps.updTb
    | with_reducible apply State.toSpr_keeps
    | with_reducible apply State.resume_keeps
    | with_reducible apply State.resumed_keeps
    | with_reducible apply State.draw_keeps
    | dsimp only
    | split

theorem State.bootOutputs_keeps {z s : State} (h : Keeps z s) :
    Keeps z (State.bootOutputs s) := by
  unfold State.bootOutputs
  repeat' first
    | assumption
    | with_reducible apply Keeps.forEach
    | with_reducible apply Keeps.updPwr
    | with_reducible apply State.outApplied_keeps
    | with_reducible apply State.loadOuts_keeps
    | intro _
    | split

theorem State.startSteps_keeps {z s : State} (h : Keeps z s) (steps : List PStep) :
    Keeps z (State.startSteps s steps) := by
  unfold State.startSteps
  repeat' first
    | assumption
    | with_reducible apply Keeps.updPwr
    | with_reducible apply State.sequencer_keeps

theorem State.eccInit_keeps {z s : State} (h : Keeps z s) : Keeps z (State.eccInit s) :=
  h.trans ⟨rfl, fun hm => swf_filter _ hm _, id, id, id, id, id⟩

theorem State.startSkew_keeps {z s : State} (h : Keeps z s) :
    Keeps z (State.startSkew s) := by
  unfold State.startSkew
  repeat' first
    | assumption
    | with_reducible apply State.beginSkew_keeps
    | split

theorem State.bootBeacon_keeps {z s : State} (h : Keeps z s) : Keeps z (State.bootBeacon s) :=
  Keeps.ite (fun _ => State.beaconApply_keeps h _ _) (fun _ => h)

theorem State.startDone_keeps {z s : State} (h : Keeps z s) :
    Keeps z (State.startDone s) := by
  unfold State.startDone
  repeat' first
    | assumption
    | with_reducible apply Keeps.updPwr
    | with_reducible apply State.sequencer_keeps
    | with_reducible apply State.raiseFloor_keeps
    | with_reducible apply State.bootOutputs_keeps
    | split

theorem State.phaseEnd_keeps {z s : State} (h : Keeps z s) (ms : Nat) :
    Keeps z (State.phaseEnd s ms) := by
  unfold State.phaseEnd
  repeat' first
    | assumption
    | with_reducible apply Keeps.updPwr

theorem State.toPhase_keeps {z s : State} (h : Keeps z s) (p : Phase) :
    Keeps z (State.toPhase s p) := by
  unfold State.toPhase
  repeat' first
    | assumption
    | with_reducible apply Keeps.updPwr

theorem State.nextPhase_keeps {z s : State} (h : Keeps z s) :
    Keeps z (State.nextPhase s) := by
  unfold State.nextPhase
  repeat' first
    | assumption
    | with_reducible apply State.startSpring_keeps
    | with_reducible apply State.freeRunStart_keeps
    | with_reducible apply State.bootOutputs_keeps
    | with_reducible apply State.startSteps_keeps
    | with_reducible apply State.eccInit_keeps
    | with_reducible apply State.startSkew_keeps
    | with_reducible apply State.bootBeacon_keeps
    | with_reducible apply State.startDone_keeps
    | with_reducible apply State.toPhase_keeps
    | dsimp only
    | split

theorem execStartupPhaseDone_keeps {z s : State} (h : Keeps z s) (ms : Nat) :
    ResKeeps z (execStartupPhaseDone ms s) := by
  unfold execStartupPhaseDone
  repeat' first
    | assumption
    | with_reducible apply ResKeeps.next
    | with_reducible apply State.phaseEnd_keeps
    | with_reducible apply State.nextPhase_keeps
    | split

theorem execStartupPhaseOverrun_keeps {z s : State} (h : Keeps z s) (ms : Nat) :
    ResKeeps z (execStartupPhaseOverrun ms s) := by
  unfold execStartupPhaseOverrun
  repeat' first
    | assumption
    | with_reducible apply ResKeeps.next
    | with_reducible apply ResKeeps.ite
    | with_reducible apply State.log_keeps
    | with_reducible apply State.phaseEnd_keeps
    | with_reducible apply State.nextPhase_keeps
    | intro _
    | split

end Sys2Proof.Machine
end

