-- ==== Sys2Proof/Laws/KeepsStaging.lean ====
section
/-! SUPPORT. `Keeps` for the operations and meanings of Machine/Staging.lean. -/

namespace Sys2Proof.Machine

theorem execStageWrite_keeps {z s : State} (h : Keeps z s) (q : Nat) (tbl : Table) :
    ResKeeps z (execStageWrite q tbl s) := by
  unfold execStageWrite
  repeat' first
    | assumption
    | with_reducible apply CmdOut.Keeps.ite
    | with_reducible apply CmdOut.keeps_refuse
    | with_reducible apply runCmd_keeps
    | with_reducible apply withTable_keeps
    | with_reducible apply stageAll_keeps
    | intro _

theorem execClockOutputConfig_keeps {z s : State} (h : Keeps z s) (q : Nat) :
    ResKeeps z (execClockOutputConfig q s) := by
  unfold execClockOutputConfig
  repeat' first
    | assumption
    | with_reducible apply runCmd_keeps
    | with_reducible apply stageAll_keeps
    | intro _

theorem execPhaseStep_keeps {z s : State} (h : Keeps z s) (q : Nat) :
    ResKeeps z (execPhaseStep q s) := by
  unfold execPhaseStep
  repeat' first
    | assumption
    | with_reducible apply runCmd_keeps
    | with_reducible apply stageAll_keeps
    | intro _

theorem execChannelConfig_keeps {z s : State} (h : Keeps z s) (q : Nat) :
    ResKeeps z (execChannelConfig q s) := by
  unfold execChannelConfig
  repeat' first
    | assumption
    | with_reducible apply runCmd_keeps
    | with_reducible apply stageAll_keeps
    | intro _

theorem execDelayTableLoad_keeps {z s : State} (h : Keeps z s) (q : Nat) (tbl : Table) :
    ResKeeps z (execDelayTableLoad q tbl s) := by
  unfold execDelayTableLoad
  repeat' first
    | assumption
    | with_reducible apply runCmd_keeps
    | with_reducible apply withTable_keeps
    | with_reducible apply stageAll_keeps
    | intro _

theorem execFilterBankLoad_keeps {z s : State} (h : Keeps z s) (q : Nat) (tbl : Table) :
    ResKeeps z (execFilterBankLoad q tbl s) := by
  unfold execFilterBankLoad
  repeat' first
    | assumption
    | with_reducible apply CmdOut.Keeps.ite
    | with_reducible apply CmdOut.keeps_refuse
    | with_reducible apply runCmd_keeps
    | with_reducible apply withTable_keeps
    | with_reducible apply stageAll_keeps
    | intro _

theorem stageImage_keeps {z s : State} (h : Keeps z s) (e : JEntry) (tbl : Table) (base : Nat) :
    CmdOut.Keeps z (stageImage s e tbl base) := by
  unfold stageImage
  repeat' first
    | assumption
    | with_reducible apply CmdOut.keeps_refuse
    | with_reducible apply withTable_keeps
    | with_reducible apply stageAll_keeps
    | intro _
    | split

theorem execTriggerProgram_keeps {z s : State} (h : Keeps z s) (q : Nat) (tbl : Table) :
    ResKeeps z (execTriggerProgram q tbl s) := by
  unfold execTriggerProgram
  repeat' first
    | assumption
    | with_reducible apply runCmd_keeps
    | with_reducible apply stageImage_keeps
    | intro _

theorem execPondConfig_keeps {z s : State} (h : Keeps z s) (q : Nat) :
    ResKeeps z (execPondConfig q s) := by
  unfold execPondConfig
  repeat' first
    | assumption
    | with_reducible apply runCmd_keeps
    | with_reducible apply stageAll_keeps
    | intro _

theorem execSoundingConfig_keeps {z s : State} (h : Keeps z s) (q : Nat) (tbl : Table) :
    ResKeeps z (execSoundingConfig q tbl s) := by
  unfold execSoundingConfig
  repeat' first
    | assumption
    | with_reducible apply runCmd_keeps
    | with_reducible apply stageImage_keeps
    | intro _

theorem execCalControl_keeps {z s : State} (h : Keeps z s) (q : Nat) :
    ResKeeps z (execCalControl q s) := by
  unfold execCalControl
  repeat' first
    | assumption
    | with_reducible apply runCmd_keeps
    | with_reducible apply stageAll_keeps
    | intro _

theorem execDisplayConfig_keeps {z s : State} (h : Keeps z s) (q : Nat) (tbl : Table) :
    ResKeeps z (execDisplayConfig q tbl s) := by
  unfold execDisplayConfig
  repeat' first
    | assumption
    | with_reducible apply runCmd_keeps
    | with_reducible apply stageImage_keeps
    | intro _

theorem execLampFrameWrite_keeps {z s : State} (h : Keeps z s) (q : Nat) (tbl : Table) :
    ResKeeps z (execLampFrameWrite q tbl s) := by
  unfold execLampFrameWrite
  repeat' first
    | assumption
    | with_reducible apply runCmd_keeps
    | with_reducible apply withTable_keeps
    | with_reducible apply stageAll_keeps
    | intro _

theorem execLampConfig_keeps {z s : State} (h : Keeps z s) (q : Nat) (tbl : Table) :
    ResKeeps z (execLampConfig q tbl s) := by
  unfold execLampConfig
  repeat' first
    | assumption
    | with_reducible apply runCmd_keeps
    | with_reducible apply stageImage_keeps
    | intro _

end Sys2Proof.Machine
end

