-- ==== Sys2Proof/Laws/KeepsStep.lean ====
section
/-! SUPPORT. `Keeps` for the operations and meanings of Machine/Step.lean. -/

namespace Sys2Proof.Machine

theorem State.withFetchWord_keeps {z s : State} (h : Keeps z s) (nbits : Nat) (w : Nat) :
    Keeps z (State.withFetchWord s nbits w) := by
  unfold State.withFetchWord
  repeat' first
    | assumption

end Sys2Proof.Machine
end

