-- ==== Sys2Proof/Laws/State.lean ====
section
/-! SUPPORT. What each named update of State does to each field: one lemma per field, so that no proof unfolds a record update. -/

namespace Sys2Proof.Machine

variable (s : State)

/-! ### updCp -/

@[simp] theorem State.updCp_pending (f : Cp → Cp) : (s.updCp f).pending = s.pending := rfl
@[simp] theorem State.updCp_now (f : Cp → Cp) : (s.updCp f).now = s.now := rfl
@[simp] theorem State.updCp_cfg (f : Cp → Cp) : (s.updCp f).cfg = s.cfg := rfl
@[simp] theorem State.updCp_units (f : Cp → Cp) : (s.updCp f).units = s.units := rfl
@[simp] theorem State.updCp_past (f : Cp → Cp) : (s.updCp f).past = s.past := rfl
@[simp] theorem State.updCp_cp (f : Cp → Cp) : (s.updCp f).cp = f s.cp := rfl
@[simp] theorem State.updCp_err (f : Cp → Cp) : (s.updCp f).err = s.err := rfl
@[simp] theorem State.updCp_pwr (f : Cp → Cp) : (s.updCp f).pwr = s.pwr := rfl
@[simp] theorem State.updCp_pcie (f : Cp → Cp) : (s.updCp f).pcie = s.pcie := rfl
@[simp] theorem State.updCp_spr (f : Cp → Cp) : (s.updCp f).spr = s.spr := rfl
@[simp] theorem State.updCp_tb (f : Cp → Cp) : (s.updCp f).tb = s.tb := rfl
@[simp] theorem State.updCp_bcn (f : Cp → Cp) : (s.updCp f).bcn = s.bcn := rfl
@[simp] theorem State.updCp_acq (f : Cp → Cp) : (s.updCp f).acq = s.acq := rfl
@[simp] theorem State.updCp_weir (f : Cp → Cp) : (s.updCp f).weir = s.weir := rfl
@[simp] theorem State.updCp_trg (f : Cp → Cp) : (s.updCp f).trg = s.trg := rfl
@[simp] theorem State.updCp_rsv (f : Cp → Cp) : (s.updCp f).rsv = s.rsv := rfl
@[simp] theorem State.updCp_pond (f : Cp → Cp) : (s.updCp f).pond = s.pond := rfl
@[simp] theorem State.updCp_dma (f : Cp → Cp) : (s.updCp f).dma = s.dma := rfl
@[simp] theorem State.updCp_ltn (f : Cp → Cp) : (s.updCp f).ltn = s.ltn := rfl
@[simp] theorem State.updCp_lamp (f : Cp → Cp) : (s.updCp f).lamp = s.lamp := rfl
@[simp] theorem State.updCp_buoy (f : Cp → Cp) : (s.updCp f).buoy = s.buoy := rfl
@[simp] theorem State.updCp_kpr (f : Cp → Cp) : (s.updCp f).kpr = s.kpr := rfl
@[simp] theorem State.updCp_stby (f : Cp → Cp) : (s.updCp f).stby = s.stby := rfl
@[simp] theorem State.updCp_hostWrites (f : Cp → Cp) : (s.updCp f).hostWrites = s.hostWrites := rfl
@[simp] theorem State.updCp_msixSent (f : Cp → Cp) : (s.updCp f).msixSent = s.msixSent := rfl
@[simp] theorem State.updCp_msgSent (f : Cp → Cp) : (s.updCp f).msgSent = s.msgSent := rfl
@[simp] theorem State.updCp_lastRead (f : Cp → Cp) : (s.updCp f).lastRead = s.lastRead := rfl
@[simp] theorem State.updCp_released (f : Cp → Cp) : (s.updCp f).released = s.released := rfl
@[simp] theorem State.updCp_freeCtr (f : Cp → Cp) : (s.updCp f).freeCtr = s.freeCtr := rfl

/-! ### updQ -/

@[simp] theorem State.updQ_pending (q : Nat) (f : Queue → Queue) : (s.updQ q f).pending = s.pending := rfl
@[simp] theorem State.updQ_now (q : Nat) (f : Queue → Queue) : (s.updQ q f).now = s.now := rfl
@[simp] theorem State.updQ_cfg (q : Nat) (f : Queue → Queue) : (s.updQ q f).cfg = s.cfg := rfl
@[simp] theorem State.updQ_units (q : Nat) (f : Queue → Queue) : (s.updQ q f).units = s.units := rfl
@[simp] theorem State.updQ_past (q : Nat) (f : Queue → Queue) : (s.updQ q f).past = s.past := rfl
@[simp] theorem State.updQ_cp (q : Nat) (f : Queue → Queue) : (s.updQ q f).cp = { s.cp with queues := upd s.cp.queues q f } := rfl
@[simp] theorem State.updQ_err (q : Nat) (f : Queue → Queue) : (s.updQ q f).err = s.err := rfl
@[simp] theorem State.updQ_pwr (q : Nat) (f : Queue → Queue) : (s.updQ q f).pwr = s.pwr := rfl
@[simp] theorem State.updQ_pcie (q : Nat) (f : Queue → Queue) : (s.updQ q f).pcie = s.pcie := rfl
@[simp] theorem State.updQ_spr (q : Nat) (f : Queue → Queue) : (s.updQ q f).spr = s.spr := rfl
@[simp] theorem State.updQ_tb (q : Nat) (f : Queue → Queue) : (s.updQ q f).tb = s.tb := rfl
@[simp] theorem State.updQ_bcn (q : Nat) (f : Queue → Queue) : (s.updQ q f).bcn = s.bcn := rfl
@[simp] theorem State.updQ_acq (q : Nat) (f : Queue → Queue) : (s.updQ q f).acq = s.acq := rfl
@[simp] theorem State.updQ_weir (q : Nat) (f : Queue → Queue) : (s.updQ q f).weir = s.weir := rfl
@[simp] theorem State.updQ_trg (q : Nat) (f : Queue → Queue) : (s.updQ q f).trg = s.trg := rfl
@[simp] theorem State.updQ_rsv (q : Nat) (f : Queue → Queue) : (s.updQ q f).rsv = s.rsv := rfl
@[simp] theorem State.updQ_pond (q : Nat) (f : Queue → Queue) : (s.updQ q f).pond = s.pond := rfl
@[simp] theorem State.updQ_dma (q : Nat) (f : Queue → Queue) : (s.updQ q f).dma = s.dma := rfl
@[simp] theorem State.updQ_ltn (q : Nat) (f : Queue → Queue) : (s.updQ q f).ltn = s.ltn := rfl
@[simp] theorem State.updQ_lamp (q : Nat) (f : Queue → Queue) : (s.updQ q f).lamp = s.lamp := rfl
@[simp] theorem State.updQ_buoy (q : Nat) (f : Queue → Queue) : (s.updQ q f).buoy = s.buoy := rfl
@[simp] theorem State.updQ_kpr (q : Nat) (f : Queue → Queue) : (s.updQ q f).kpr = s.kpr := rfl
@[simp] theorem State.updQ_stby (q : Nat) (f : Queue → Queue) : (s.updQ q f).stby = s.stby := rfl
@[simp] theorem State.updQ_hostWrites (q : Nat) (f : Queue → Queue) : (s.updQ q f).hostWrites = s.hostWrites := rfl
@[simp] theorem State.updQ_msixSent (q : Nat) (f : Queue → Queue) : (s.updQ q f).msixSent = s.msixSent := rfl
@[simp] theorem State.updQ_msgSent (q : Nat) (f : Queue → Queue) : (s.updQ q f).msgSent = s.msgSent := rfl
@[simp] theorem State.updQ_lastRead (q : Nat) (f : Queue → Queue) : (s.updQ q f).lastRead = s.lastRead := rfl
@[simp] theorem State.updQ_released (q : Nat) (f : Queue → Queue) : (s.updQ q f).released = s.released := rfl
@[simp] theorem State.updQ_freeCtr (q : Nat) (f : Queue → Queue) : (s.updQ q f).freeCtr = s.freeCtr := rfl

/-! ### updEq -/

@[simp] theorem State.updEq_pending (e : Nat) (f : EventQueue → EventQueue) : (s.updEq e f).pending = s.pending := rfl
@[simp] theorem State.updEq_now (e : Nat) (f : EventQueue → EventQueue) : (s.updEq e f).now = s.now := rfl
@[simp] theorem State.updEq_cfg (e : Nat) (f : EventQueue → EventQueue) : (s.updEq e f).cfg = s.cfg := rfl
@[simp] theorem State.updEq_units (e : Nat) (f : EventQueue → EventQueue) : (s.updEq e f).units = s.units := rfl
@[simp] theorem State.updEq_past (e : Nat) (f : EventQueue → EventQueue) : (s.updEq e f).past = s.past := rfl
@[simp] theorem State.updEq_cp (e : Nat) (f : EventQueue → EventQueue) : (s.updEq e f).cp = { s.cp with eqs := upd s.cp.eqs e f } := rfl
@[simp] theorem State.updEq_err (e : Nat) (f : EventQueue → EventQueue) : (s.updEq e f).err = s.err := rfl
@[simp] theorem State.updEq_pwr (e : Nat) (f : EventQueue → EventQueue) : (s.updEq e f).pwr = s.pwr := rfl
@[simp] theorem State.updEq_pcie (e : Nat) (f : EventQueue → EventQueue) : (s.updEq e f).pcie = s.pcie := rfl
@[simp] theorem State.updEq_spr (e : Nat) (f : EventQueue → EventQueue) : (s.updEq e f).spr = s.spr := rfl
@[simp] theorem State.updEq_tb (e : Nat) (f : EventQueue → EventQueue) : (s.updEq e f).tb = s.tb := rfl
@[simp] theorem State.updEq_bcn (e : Nat) (f : EventQueue → EventQueue) : (s.updEq e f).bcn = s.bcn := rfl
@[simp] theorem State.updEq_acq (e : Nat) (f : EventQueue → EventQueue) : (s.updEq e f).acq = s.acq := rfl
@[simp] theorem State.updEq_weir (e : Nat) (f : EventQueue → EventQueue) : (s.updEq e f).weir = s.weir := rfl
@[simp] theorem State.updEq_trg (e : Nat) (f : EventQueue → EventQueue) : (s.updEq e f).trg = s.trg := rfl
@[simp] theorem State.updEq_rsv (e : Nat) (f : EventQueue → EventQueue) : (s.updEq e f).rsv = s.rsv := rfl
@[simp] theorem State.updEq_pond (e : Nat) (f : EventQueue → EventQueue) : (s.updEq e f).pond = s.pond := rfl
@[simp] theorem State.updEq_dma (e : Nat) (f : EventQueue → EventQueue) : (s.updEq e f).dma = s.dma := rfl
@[simp] theorem State.updEq_ltn (e : Nat) (f : EventQueue → EventQueue) : (s.updEq e f).ltn = s.ltn := rfl
@[simp] theorem State.updEq_lamp (e : Nat) (f : EventQueue → EventQueue) : (s.updEq e f).lamp = s.lamp := rfl
@[simp] theorem State.updEq_buoy (e : Nat) (f : EventQueue → EventQueue) : (s.updEq e f).buoy = s.buoy := rfl
@[simp] theorem State.updEq_kpr (e : Nat) (f : EventQueue → EventQueue) : (s.updEq e f).kpr = s.kpr := rfl
@[simp] theorem State.updEq_stby (e : Nat) (f : EventQueue → EventQueue) : (s.updEq e f).stby = s.stby := rfl
@[simp] theorem State.updEq_hostWrites (e : Nat) (f : EventQueue → EventQueue) : (s.updEq e f).hostWrites = s.hostWrites := rfl
@[simp] theorem State.updEq_msixSent (e : Nat) (f : EventQueue → EventQueue) : (s.updEq e f).msixSent = s.msixSent := rfl
@[simp] theorem State.updEq_msgSent (e : Nat) (f : EventQueue → EventQueue) : (s.updEq e f).msgSent = s.msgSent := rfl
@[simp] theorem State.updEq_lastRead (e : Nat) (f : EventQueue → EventQueue) : (s.updEq e f).lastRead = s.lastRead := rfl
@[simp] theorem State.updEq_released (e : Nat) (f : EventQueue → EventQueue) : (s.updEq e f).released = s.released := rfl
@[simp] theorem State.updEq_freeCtr (e : Nat) (f : EventQueue → EventQueue) : (s.updEq e f).freeCtr = s.freeCtr := rfl

/-! ### updUnit -/

@[simp] theorem State.updUnit_pending (u : Nat) (f : CUnit → CUnit) : (s.updUnit u f).pending = s.pending := rfl
@[simp] theorem State.updUnit_now (u : Nat) (f : CUnit → CUnit) : (s.updUnit u f).now = s.now := rfl
@[simp] theorem State.updUnit_cfg (u : Nat) (f : CUnit → CUnit) : (s.updUnit u f).cfg = s.cfg := rfl
@[simp] theorem State.updUnit_units (u : Nat) (f : CUnit → CUnit) : (s.updUnit u f).units = upd s.units u f := rfl
@[simp] theorem State.updUnit_past (u : Nat) (f : CUnit → CUnit) : (s.updUnit u f).past = s.past := rfl
@[simp] theorem State.updUnit_cp (u : Nat) (f : CUnit → CUnit) : (s.updUnit u f).cp = s.cp := rfl
@[simp] theorem State.updUnit_err (u : Nat) (f : CUnit → CUnit) : (s.updUnit u f).err = s.err := rfl
@[simp] theorem State.updUnit_pwr (u : Nat) (f : CUnit → CUnit) : (s.updUnit u f).pwr = s.pwr := rfl
@[simp] theorem State.updUnit_pcie (u : Nat) (f : CUnit → CUnit) : (s.updUnit u f).pcie = s.pcie := rfl
@[simp] theorem State.updUnit_spr (u : Nat) (f : CUnit → CUnit) : (s.updUnit u f).spr = s.spr := rfl
@[simp] theorem State.updUnit_tb (u : Nat) (f : CUnit → CUnit) : (s.updUnit u f).tb = s.tb := rfl
@[simp] theorem State.updUnit_bcn (u : Nat) (f : CUnit → CUnit) : (s.updUnit u f).bcn = s.bcn := rfl
@[simp] theorem State.updUnit_acq (u : Nat) (f : CUnit → CUnit) : (s.updUnit u f).acq = s.acq := rfl
@[simp] theorem State.updUnit_weir (u : Nat) (f : CUnit → CUnit) : (s.updUnit u f).weir = s.weir := rfl
@[simp] theorem State.updUnit_trg (u : Nat) (f : CUnit → CUnit) : (s.updUnit u f).trg = s.trg := rfl
@[simp] theorem State.updUnit_rsv (u : Nat) (f : CUnit → CUnit) : (s.updUnit u f).rsv = s.rsv := rfl
@[simp] theorem State.updUnit_pond (u : Nat) (f : CUnit → CUnit) : (s.updUnit u f).pond = s.pond := rfl
@[simp] theorem State.updUnit_dma (u : Nat) (f : CUnit → CUnit) : (s.updUnit u f).dma = s.dma := rfl
@[simp] theorem State.updUnit_ltn (u : Nat) (f : CUnit → CUnit) : (s.updUnit u f).ltn = s.ltn := rfl
@[simp] theorem State.updUnit_lamp (u : Nat) (f : CUnit → CUnit) : (s.updUnit u f).lamp = s.lamp := rfl
@[simp] theorem State.updUnit_buoy (u : Nat) (f : CUnit → CUnit) : (s.updUnit u f).buoy = s.buoy := rfl
@[simp] theorem State.updUnit_kpr (u : Nat) (f : CUnit → CUnit) : (s.updUnit u f).kpr = s.kpr := rfl
@[simp] theorem State.updUnit_stby (u : Nat) (f : CUnit → CUnit) : (s.updUnit u f).stby = s.stby := rfl
@[simp] theorem State.updUnit_hostWrites (u : Nat) (f : CUnit → CUnit) : (s.updUnit u f).hostWrites = s.hostWrites := rfl
@[simp] theorem State.updUnit_msixSent (u : Nat) (f : CUnit → CUnit) : (s.updUnit u f).msixSent = s.msixSent := rfl
@[simp] theorem State.updUnit_msgSent (u : Nat) (f : CUnit → CUnit) : (s.updUnit u f).msgSent = s.msgSent := rfl
@[simp] theorem State.updUnit_lastRead (u : Nat) (f : CUnit → CUnit) : (s.updUnit u f).lastRead = s.lastRead := rfl
@[simp] theorem State.updUnit_released (u : Nat) (f : CUnit → CUnit) : (s.updUnit u f).released = s.released := rfl
@[simp] theorem State.updUnit_freeCtr (u : Nat) (f : CUnit → CUnit) : (s.updUnit u f).freeCtr = s.freeCtr := rfl

/-! ### updPwr -/

@[simp] theorem State.updPwr_pending (f : Pwr → Pwr) : (s.updPwr f).pending = s.pending := rfl
@[simp] theorem State.updPwr_now (f : Pwr → Pwr) : (s.updPwr f).now = s.now := rfl
@[simp] theorem State.updPwr_cfg (f : Pwr → Pwr) : (s.updPwr f).cfg = s.cfg := rfl
@[simp] theorem State.updPwr_units (f : Pwr → Pwr) : (s.updPwr f).units = s.units := rfl
@[simp] theorem State.updPwr_past (f : Pwr → Pwr) : (s.updPwr f).past = s.past := rfl
@[simp] theorem State.updPwr_cp (f : Pwr → Pwr) : (s.updPwr f).cp = s.cp := rfl
@[simp] theorem State.updPwr_err (f : Pwr → Pwr) : (s.updPwr f).err = s.err := rfl
@[simp] theorem State.updPwr_pwr (f : Pwr → Pwr) : (s.updPwr f).pwr = f s.pwr := rfl
@[simp] theorem State.updPwr_pcie (f : Pwr → Pwr) : (s.updPwr f).pcie = s.pcie := rfl
@[simp] theorem State.updPwr_spr (f : Pwr → Pwr) : (s.updPwr f).spr = s.spr := rfl
@[simp] theorem State.updPwr_tb (f : Pwr → Pwr) : (s.updPwr f).tb = s.tb := rfl
@[simp] theorem State.updPwr_bcn (f : Pwr → Pwr) : (s.updPwr f).bcn = s.bcn := rfl
@[simp] theorem State.updPwr_acq (f : Pwr → Pwr) : (s.updPwr f).acq = s.acq := rfl
@[simp] theorem State.updPwr_weir (f : Pwr → Pwr) : (s.updPwr f).weir = s.weir := rfl
@[simp] theorem State.updPwr_trg (f : Pwr → Pwr) : (s.updPwr f).trg = s.trg := rfl
@[simp] theorem State.updPwr_rsv (f : Pwr → Pwr) : (s.updPwr f).rsv = s.rsv := rfl
@[simp] theorem State.updPwr_pond (f : Pwr → Pwr) : (s.updPwr f).pond = s.pond := rfl
@[simp] theorem State.updPwr_dma (f : Pwr → Pwr) : (s.updPwr f).dma = s.dma := rfl
@[simp] theorem State.updPwr_ltn (f : Pwr → Pwr) : (s.updPwr f).ltn = s.ltn := rfl
@[simp] theorem State.updPwr_lamp (f : Pwr → Pwr) : (s.updPwr f).lamp = s.lamp := rfl
@[simp] theorem State.updPwr_buoy (f : Pwr → Pwr) : (s.updPwr f).buoy = s.buoy := rfl
@[simp] theorem State.updPwr_kpr (f : Pwr → Pwr) : (s.updPwr f).kpr = s.kpr := rfl
@[simp] theorem State.updPwr_stby (f : Pwr → Pwr) : (s.updPwr f).stby = s.stby := rfl
@[simp] theorem State.updPwr_hostWrites (f : Pwr → Pwr) : (s.updPwr f).hostWrites = s.hostWrites := rfl
@[simp] theorem State.updPwr_msixSent (f : Pwr → Pwr) : (s.updPwr f).msixSent = s.msixSent := rfl
@[simp] theorem State.updPwr_msgSent (f : Pwr → Pwr) : (s.updPwr f).msgSent = s.msgSent := rfl
@[simp] theorem State.updPwr_lastRead (f : Pwr → Pwr) : (s.updPwr f).lastRead = s.lastRead := rfl
@[simp] theorem State.updPwr_released (f : Pwr → Pwr) : (s.updPwr f).released = s.released := rfl
@[simp] theorem State.updPwr_freeCtr (f : Pwr → Pwr) : (s.updPwr f).freeCtr = s.freeCtr := rfl

/-! ### updDom -/

@[simp] theorem State.updDom_pending (d : Nat) (f : Dom → Dom) : (s.updDom d f).pending = s.pending := rfl
@[simp] theorem State.updDom_now (d : Nat) (f : Dom → Dom) : (s.updDom d f).now = s.now := rfl
@[simp] theorem State.updDom_cfg (d : Nat) (f : Dom → Dom) : (s.updDom d f).cfg = s.cfg := rfl
@[simp] theorem State.updDom_units (d : Nat) (f : Dom → Dom) : (s.updDom d f).units = s.units := rfl
@[simp] theorem State.updDom_past (d : Nat) (f : Dom → Dom) : (s.updDom d f).past = s.past := rfl
@[simp] theorem State.updDom_cp (d : Nat) (f : Dom → Dom) : (s.updDom d f).cp = s.cp := rfl
@[simp] theorem State.updDom_err (d : Nat) (f : Dom → Dom) : (s.updDom d f).err = s.err := rfl
@[simp] theorem State.updDom_pwr (d : Nat) (f : Dom → Dom) : (s.updDom d f).pwr = { s.pwr with doms := upd s.pwr.doms d f } := rfl
@[simp] theorem State.updDom_pcie (d : Nat) (f : Dom → Dom) : (s.updDom d f).pcie = s.pcie := rfl
@[simp] theorem State.updDom_spr (d : Nat) (f : Dom → Dom) : (s.updDom d f).spr = s.spr := rfl
@[simp] theorem State.updDom_tb (d : Nat) (f : Dom → Dom) : (s.updDom d f).tb = s.tb := rfl
@[simp] theorem State.updDom_bcn (d : Nat) (f : Dom → Dom) : (s.updDom d f).bcn = s.bcn := rfl
@[simp] theorem State.updDom_acq (d : Nat) (f : Dom → Dom) : (s.updDom d f).acq = s.acq := rfl
@[simp] theorem State.updDom_weir (d : Nat) (f : Dom → Dom) : (s.updDom d f).weir = s.weir := rfl
@[simp] theorem State.updDom_trg (d : Nat) (f : Dom → Dom) : (s.updDom d f).trg = s.trg := rfl
@[simp] theorem State.updDom_rsv (d : Nat) (f : Dom → Dom) : (s.updDom d f).rsv = s.rsv := rfl
@[simp] theorem State.updDom_pond (d : Nat) (f : Dom → Dom) : (s.updDom d f).pond = s.pond := rfl
@[simp] theorem State.updDom_dma (d : Nat) (f : Dom → Dom) : (s.updDom d f).dma = s.dma := rfl
@[simp] theorem State.updDom_ltn (d : Nat) (f : Dom → Dom) : (s.updDom d f).ltn = s.ltn := rfl
@[simp] theorem State.updDom_lamp (d : Nat) (f : Dom → Dom) : (s.updDom d f).lamp = s.lamp := rfl
@[simp] theorem State.updDom_buoy (d : Nat) (f : Dom → Dom) : (s.updDom d f).buoy = s.buoy := rfl
@[simp] theorem State.updDom_kpr (d : Nat) (f : Dom → Dom) : (s.updDom d f).kpr = s.kpr := rfl
@[simp] theorem State.updDom_stby (d : Nat) (f : Dom → Dom) : (s.updDom d f).stby = s.stby := rfl
@[simp] theorem State.updDom_hostWrites (d : Nat) (f : Dom → Dom) : (s.updDom d f).hostWrites = s.hostWrites := rfl
@[simp] theorem State.updDom_msixSent (d : Nat) (f : Dom → Dom) : (s.updDom d f).msixSent = s.msixSent := rfl
@[simp] theorem State.updDom_msgSent (d : Nat) (f : Dom → Dom) : (s.updDom d f).msgSent = s.msgSent := rfl
@[simp] theorem State.updDom_lastRead (d : Nat) (f : Dom → Dom) : (s.updDom d f).lastRead = s.lastRead := rfl
@[simp] theorem State.updDom_released (d : Nat) (f : Dom → Dom) : (s.updDom d f).released = s.released := rfl
@[simp] theorem State.updDom_freeCtr (d : Nat) (f : Dom → Dom) : (s.updDom d f).freeCtr = s.freeCtr := rfl

/-! ### updPcie -/

@[simp] theorem State.updPcie_pending (f : Pcie → Pcie) : (s.updPcie f).pending = s.pending := rfl
@[simp] theorem State.updPcie_now (f : Pcie → Pcie) : (s.updPcie f).now = s.now := rfl
@[simp] theorem State.updPcie_cfg (f : Pcie → Pcie) : (s.updPcie f).cfg = s.cfg := rfl
@[simp] theorem State.updPcie_units (f : Pcie → Pcie) : (s.updPcie f).units = s.units := rfl
@[simp] theorem State.updPcie_past (f : Pcie → Pcie) : (s.updPcie f).past = s.past := rfl
@[simp] theorem State.updPcie_cp (f : Pcie → Pcie) : (s.updPcie f).cp = s.cp := rfl
@[simp] theorem State.updPcie_err (f : Pcie → Pcie) : (s.updPcie f).err = s.err := rfl
@[simp] theorem State.updPcie_pwr (f : Pcie → Pcie) : (s.updPcie f).pwr = s.pwr := rfl
@[simp] theorem State.updPcie_pcie (f : Pcie → Pcie) : (s.updPcie f).pcie = f s.pcie := rfl
@[simp] theorem State.updPcie_spr (f : Pcie → Pcie) : (s.updPcie f).spr = s.spr := rfl
@[simp] theorem State.updPcie_tb (f : Pcie → Pcie) : (s.updPcie f).tb = s.tb := rfl
@[simp] theorem State.updPcie_bcn (f : Pcie → Pcie) : (s.updPcie f).bcn = s.bcn := rfl
@[simp] theorem State.updPcie_acq (f : Pcie → Pcie) : (s.updPcie f).acq = s.acq := rfl
@[simp] theorem State.updPcie_weir (f : Pcie → Pcie) : (s.updPcie f).weir = s.weir := rfl
@[simp] theorem State.updPcie_trg (f : Pcie → Pcie) : (s.updPcie f).trg = s.trg := rfl
@[simp] theorem State.updPcie_rsv (f : Pcie → Pcie) : (s.updPcie f).rsv = s.rsv := rfl
@[simp] theorem State.updPcie_pond (f : Pcie → Pcie) : (s.updPcie f).pond = s.pond := rfl
@[simp] theorem State.updPcie_dma (f : Pcie → Pcie) : (s.updPcie f).dma = s.dma := rfl
@[simp] theorem State.updPcie_ltn (f : Pcie → Pcie) : (s.updPcie f).ltn = s.ltn := rfl
@[simp] theorem State.updPcie_lamp (f : Pcie → Pcie) : (s.updPcie f).lamp = s.lamp := rfl
@[simp] theorem State.updPcie_buoy (f : Pcie → Pcie) : (s.updPcie f).buoy = s.buoy := rfl
@[simp] theorem State.updPcie_kpr (f : Pcie → Pcie) : (s.updPcie f).kpr = s.kpr := rfl
@[simp] theorem State.updPcie_stby (f : Pcie → Pcie) : (s.updPcie f).stby = s.stby := rfl
@[simp] theorem State.updPcie_hostWrites (f : Pcie → Pcie) : (s.updPcie f).hostWrites = s.hostWrites := rfl
@[simp] theorem State.updPcie_msixSent (f : Pcie → Pcie) : (s.updPcie f).msixSent = s.msixSent := rfl
@[simp] theorem State.updPcie_msgSent (f : Pcie → Pcie) : (s.updPcie f).msgSent = s.msgSent := rfl
@[simp] theorem State.updPcie_lastRead (f : Pcie → Pcie) : (s.updPcie f).lastRead = s.lastRead := rfl
@[simp] theorem State.updPcie_released (f : Pcie → Pcie) : (s.updPcie f).released = s.released := rfl
@[simp] theorem State.updPcie_freeCtr (f : Pcie → Pcie) : (s.updPcie f).freeCtr = s.freeCtr := rfl

/-! ### updSpr -/

@[simp] theorem State.updSpr_pending (f : Spring → Spring) : (s.updSpr f).pending = s.pending := rfl
@[simp] theorem State.updSpr_now (f : Spring → Spring) : (s.updSpr f).now = s.now := rfl
@[simp] theorem State.updSpr_cfg (f : Spring → Spring) : (s.updSpr f).cfg = s.cfg := rfl
@[simp] theorem State.updSpr_units (f : Spring → Spring) : (s.updSpr f).units = s.units := rfl
@[simp] theorem State.updSpr_past (f : Spring → Spring) : (s.updSpr f).past = s.past := rfl
@[simp] theorem State.updSpr_cp (f : Spring → Spring) : (s.updSpr f).cp = s.cp := rfl
@[simp] theorem State.updSpr_err (f : Spring → Spring) : (s.updSpr f).err = s.err := rfl
@[simp] theorem State.updSpr_pwr (f : Spring → Spring) : (s.updSpr f).pwr = s.pwr := rfl
@[simp] theorem State.updSpr_pcie (f : Spring → Spring) : (s.updSpr f).pcie = s.pcie := rfl
@[simp] theorem State.updSpr_spr (f : Spring → Spring) : (s.updSpr f).spr = f s.spr := rfl
@[simp] theorem State.updSpr_tb (f : Spring → Spring) : (s.updSpr f).tb = s.tb := rfl
@[simp] theorem State.updSpr_bcn (f : Spring → Spring) : (s.updSpr f).bcn = s.bcn := rfl
@[simp] theorem State.updSpr_acq (f : Spring → Spring) : (s.updSpr f).acq = s.acq := rfl
@[simp] theorem State.updSpr_weir (f : Spring → Spring) : (s.updSpr f).weir = s.weir := rfl
@[simp] theorem State.updSpr_trg (f : Spring → Spring) : (s.updSpr f).trg = s.trg := rfl
@[simp] theorem State.updSpr_rsv (f : Spring → Spring) : (s.updSpr f).rsv = s.rsv := rfl
@[simp] theorem State.updSpr_pond (f : Spring → Spring) : (s.updSpr f).pond = s.pond := rfl
@[simp] theorem State.updSpr_dma (f : Spring → Spring) : (s.updSpr f).dma = s.dma := rfl
@[simp] theorem State.updSpr_ltn (f : Spring → Spring) : (s.updSpr f).ltn = s.ltn := rfl
@[simp] theorem State.updSpr_lamp (f : Spring → Spring) : (s.updSpr f).lamp = s.lamp := rfl
@[simp] theorem State.updSpr_buoy (f : Spring → Spring) : (s.updSpr f).buoy = s.buoy := rfl
@[simp] theorem State.updSpr_kpr (f : Spring → Spring) : (s.updSpr f).kpr = s.kpr := rfl
@[simp] theorem State.updSpr_stby (f : Spring → Spring) : (s.updSpr f).stby = s.stby := rfl
@[simp] theorem State.updSpr_hostWrites (f : Spring → Spring) : (s.updSpr f).hostWrites = s.hostWrites := rfl
@[simp] theorem State.updSpr_msixSent (f : Spring → Spring) : (s.updSpr f).msixSent = s.msixSent := rfl
@[simp] theorem State.updSpr_msgSent (f : Spring → Spring) : (s.updSpr f).msgSent = s.msgSent := rfl
@[simp] theorem State.updSpr_lastRead (f : Spring → Spring) : (s.updSpr f).lastRead = s.lastRead := rfl
@[simp] theorem State.updSpr_released (f : Spring → Spring) : (s.updSpr f).released = s.released := rfl
@[simp] theorem State.updSpr_freeCtr (f : Spring → Spring) : (s.updSpr f).freeCtr = s.freeCtr := rfl

/-! ### updTb -/

@[simp] theorem State.updTb_pending (f : Tb → Tb) : (s.updTb f).pending = s.pending := rfl
@[simp] theorem State.updTb_now (f : Tb → Tb) : (s.updTb f).now = s.now := rfl
@[simp] theorem State.updTb_cfg (f : Tb → Tb) : (s.updTb f).cfg = s.cfg := rfl
@[simp] theorem State.updTb_units (f : Tb → Tb) : (s.updTb f).units = s.units := rfl
@[simp] theorem State.updTb_past (f : Tb → Tb) : (s.updTb f).past = s.past := rfl
@[simp] theorem State.updTb_cp (f : Tb → Tb) : (s.updTb f).cp = s.cp := rfl
@[simp] theorem State.updTb_err (f : Tb → Tb) : (s.updTb f).err = s.err := rfl
@[simp] theorem State.updTb_pwr (f : Tb → Tb) : (s.updTb f).pwr = s.pwr := rfl
@[simp] theorem State.updTb_pcie (f : Tb → Tb) : (s.updTb f).pcie = s.pcie := rfl
@[simp] theorem State.updTb_spr (f : Tb → Tb) : (s.updTb f).spr = s.spr := rfl
@[simp] theorem State.updTb_tb (f : Tb → Tb) : (s.updTb f).tb = f s.tb := rfl
@[simp] theorem State.updTb_bcn (f : Tb → Tb) : (s.updTb f).bcn = s.bcn := rfl
@[simp] theorem State.updTb_acq (f : Tb → Tb) : (s.updTb f).acq = s.acq := rfl
@[simp] theorem State.updTb_weir (f : Tb → Tb) : (s.updTb f).weir = s.weir := rfl
@[simp] theorem State.updTb_trg (f : Tb → Tb) : (s.updTb f).trg = s.trg := rfl
@[simp] theorem State.updTb_rsv (f : Tb → Tb) : (s.updTb f).rsv = s.rsv := rfl
@[simp] theorem State.updTb_pond (f : Tb → Tb) : (s.updTb f).pond = s.pond := rfl
@[simp] theorem State.updTb_dma (f : Tb → Tb) : (s.updTb f).dma = s.dma := rfl
@[simp] theorem State.updTb_ltn (f : Tb → Tb) : (s.updTb f).ltn = s.ltn := rfl
@[simp] theorem State.updTb_lamp (f : Tb → Tb) : (s.updTb f).lamp = s.lamp := rfl
@[simp] theorem State.updTb_buoy (f : Tb → Tb) : (s.updTb f).buoy = s.buoy := rfl
@[simp] theorem State.updTb_kpr (f : Tb → Tb) : (s.updTb f).kpr = s.kpr := rfl
@[simp] theorem State.updTb_stby (f : Tb → Tb) : (s.updTb f).stby = s.stby := rfl
@[simp] theorem State.updTb_hostWrites (f : Tb → Tb) : (s.updTb f).hostWrites = s.hostWrites := rfl
@[simp] theorem State.updTb_msixSent (f : Tb → Tb) : (s.updTb f).msixSent = s.msixSent := rfl
@[simp] theorem State.updTb_msgSent (f : Tb → Tb) : (s.updTb f).msgSent = s.msgSent := rfl
@[simp] theorem State.updTb_lastRead (f : Tb → Tb) : (s.updTb f).lastRead = s.lastRead := rfl
@[simp] theorem State.updTb_released (f : Tb → Tb) : (s.updTb f).released = s.released := rfl
@[simp] theorem State.updTb_freeCtr (f : Tb → Tb) : (s.updTb f).freeCtr = s.freeCtr := rfl

/-! ### updBcn -/

@[simp] theorem State.updBcn_pending (f : Bcn → Bcn) : (s.updBcn f).pending = s.pending := rfl
@[simp] theorem State.updBcn_now (f : Bcn → Bcn) : (s.updBcn f).now = s.now := rfl
@[simp] theorem State.updBcn_cfg (f : Bcn → Bcn) : (s.updBcn f).cfg = s.cfg := rfl
@[simp] theorem State.updBcn_units (f : Bcn → Bcn) : (s.updBcn f).units = s.units := rfl
@[simp] theorem State.updBcn_past (f : Bcn → Bcn) : (s.updBcn f).past = s.past := rfl
@[simp] theorem State.updBcn_cp (f : Bcn → Bcn) : (s.updBcn f).cp = s.cp := rfl
@[simp] theorem State.updBcn_err (f : Bcn → Bcn) : (s.updBcn f).err = s.err := rfl
@[simp] theorem State.updBcn_pwr (f : Bcn → Bcn) : (s.updBcn f).pwr = s.pwr := rfl
@[simp] theorem State.updBcn_pcie (f : Bcn → Bcn) : (s.updBcn f).pcie = s.pcie := rfl
@[simp] theorem State.updBcn_spr (f : Bcn → Bcn) : (s.updBcn f).spr = s.spr := rfl
@[simp] theorem State.updBcn_tb (f : Bcn → Bcn) : (s.updBcn f).tb = s.tb := rfl
@[simp] theorem State.updBcn_bcn (f : Bcn → Bcn) : (s.updBcn f).bcn = f s.bcn := rfl
@[simp] theorem State.updBcn_acq (f : Bcn → Bcn) : (s.updBcn f).acq = s.acq := rfl
@[simp] theorem State.updBcn_weir (f : Bcn → Bcn) : (s.updBcn f).weir = s.weir := rfl
@[simp] theorem State.updBcn_trg (f : Bcn → Bcn) : (s.updBcn f).trg = s.trg := rfl
@[simp] theorem State.updBcn_rsv (f : Bcn → Bcn) : (s.updBcn f).rsv = s.rsv := rfl
@[simp] theorem State.updBcn_pond (f : Bcn → Bcn) : (s.updBcn f).pond = s.pond := rfl
@[simp] theorem State.updBcn_dma (f : Bcn → Bcn) : (s.updBcn f).dma = s.dma := rfl
@[simp] theorem State.updBcn_ltn (f : Bcn → Bcn) : (s.updBcn f).ltn = s.ltn := rfl
@[simp] theorem State.updBcn_lamp (f : Bcn → Bcn) : (s.updBcn f).lamp = s.lamp := rfl
@[simp] theorem State.updBcn_buoy (f : Bcn → Bcn) : (s.updBcn f).buoy = s.buoy := rfl
@[simp] theorem State.updBcn_kpr (f : Bcn → Bcn) : (s.updBcn f).kpr = s.kpr := rfl
@[simp] theorem State.updBcn_stby (f : Bcn → Bcn) : (s.updBcn f).stby = s.stby := rfl
@[simp] theorem State.updBcn_hostWrites (f : Bcn → Bcn) : (s.updBcn f).hostWrites = s.hostWrites := rfl
@[simp] theorem State.updBcn_msixSent (f : Bcn → Bcn) : (s.updBcn f).msixSent = s.msixSent := rfl
@[simp] theorem State.updBcn_msgSent (f : Bcn → Bcn) : (s.updBcn f).msgSent = s.msgSent := rfl
@[simp] theorem State.updBcn_lastRead (f : Bcn → Bcn) : (s.updBcn f).lastRead = s.lastRead := rfl
@[simp] theorem State.updBcn_released (f : Bcn → Bcn) : (s.updBcn f).released = s.released := rfl
@[simp] theorem State.updBcn_freeCtr (f : Bcn → Bcn) : (s.updBcn f).freeCtr = s.freeCtr := rfl

/-! ### updPort -/

@[simp] theorem State.updPort_pending (p : Nat) (f : BcnPort → BcnPort) : (s.updPort p f).pending = s.pending := rfl
@[simp] theorem State.updPort_now (p : Nat) (f : BcnPort → BcnPort) : (s.updPort p f).now = s.now := rfl
@[simp] theorem State.updPort_cfg (p : Nat) (f : BcnPort → BcnPort) : (s.updPort p f).cfg = s.cfg := rfl
@[simp] theorem State.updPort_units (p : Nat) (f : BcnPort → BcnPort) : (s.updPort p f).units = s.units := rfl
@[simp] theorem State.updPort_past (p : Nat) (f : BcnPort → BcnPort) : (s.updPort p f).past = s.past := rfl
@[simp] theorem State.updPort_cp (p : Nat) (f : BcnPort → BcnPort) : (s.updPort p f).cp = s.cp := rfl
@[simp] theorem State.updPort_err (p : Nat) (f : BcnPort → BcnPort) : (s.updPort p f).err = s.err := rfl
@[simp] theorem State.updPort_pwr (p : Nat) (f : BcnPort → BcnPort) : (s.updPort p f).pwr = s.pwr := rfl
@[simp] theorem State.updPort_pcie (p : Nat) (f : BcnPort → BcnPort) : (s.updPort p f).pcie = s.pcie := rfl
@[simp] theorem State.updPort_spr (p : Nat) (f : BcnPort → BcnPort) : (s.updPort p f).spr = s.spr := rfl
@[simp] theorem State.updPort_tb (p : Nat) (f : BcnPort → BcnPort) : (s.updPort p f).tb = s.tb := rfl
@[simp] theorem State.updPort_bcn (p : Nat) (f : BcnPort → BcnPort) : (s.updPort p f).bcn = { s.bcn with ports := upd s.bcn.ports p f } := rfl
@[simp] theorem State.updPort_acq (p : Nat) (f : BcnPort → BcnPort) : (s.updPort p f).acq = s.acq := rfl
@[simp] theorem State.updPort_weir (p : Nat) (f : BcnPort → BcnPort) : (s.updPort p f).weir = s.weir := rfl
@[simp] theorem State.updPort_trg (p : Nat) (f : BcnPort → BcnPort) : (s.updPort p f).trg = s.trg := rfl
@[simp] theorem State.updPort_rsv (p : Nat) (f : BcnPort → BcnPort) : (s.updPort p f).rsv = s.rsv := rfl
@[simp] theorem State.updPort_pond (p : Nat) (f : BcnPort → BcnPort) : (s.updPort p f).pond = s.pond := rfl
@[simp] theorem State.updPort_dma (p : Nat) (f : BcnPort → BcnPort) : (s.updPort p f).dma = s.dma := rfl
@[simp] theorem State.updPort_ltn (p : Nat) (f : BcnPort → BcnPort) : (s.updPort p f).ltn = s.ltn := rfl
@[simp] theorem State.updPort_lamp (p : Nat) (f : BcnPort → BcnPort) : (s.updPort p f).lamp = s.lamp := rfl
@[simp] theorem State.updPort_buoy (p : Nat) (f : BcnPort → BcnPort) : (s.updPort p f).buoy = s.buoy := rfl
@[simp] theorem State.updPort_kpr (p : Nat) (f : BcnPort → BcnPort) : (s.updPort p f).kpr = s.kpr := rfl
@[simp] theorem State.updPort_stby (p : Nat) (f : BcnPort → BcnPort) : (s.updPort p f).stby = s.stby := rfl
@[simp] theorem State.updPort_hostWrites (p : Nat) (f : BcnPort → BcnPort) : (s.updPort p f).hostWrites = s.hostWrites := rfl
@[simp] theorem State.updPort_msixSent (p : Nat) (f : BcnPort → BcnPort) : (s.updPort p f).msixSent = s.msixSent := rfl
@[simp] theorem State.updPort_msgSent (p : Nat) (f : BcnPort → BcnPort) : (s.updPort p f).msgSent = s.msgSent := rfl
@[simp] theorem State.updPort_lastRead (p : Nat) (f : BcnPort → BcnPort) : (s.updPort p f).lastRead = s.lastRead := rfl
@[simp] theorem State.updPort_released (p : Nat) (f : BcnPort → BcnPort) : (s.updPort p f).released = s.released := rfl
@[simp] theorem State.updPort_freeCtr (p : Nat) (f : BcnPort → BcnPort) : (s.updPort p f).freeCtr = s.freeCtr := rfl

/-! ### updQuad -/

@[simp] theorem State.updQuad_pending (q : Nat) (f : Quad → Quad) : (s.updQuad q f).pending = s.pending := rfl
@[simp] theorem State.updQuad_now (q : Nat) (f : Quad → Quad) : (s.updQuad q f).now = s.now := rfl
@[simp] theorem State.updQuad_cfg (q : Nat) (f : Quad → Quad) : (s.updQuad q f).cfg = s.cfg := rfl
@[simp] theorem State.updQuad_units (q : Nat) (f : Quad → Quad) : (s.updQuad q f).units = s.units := rfl
@[simp] theorem State.updQuad_past (q : Nat) (f : Quad → Quad) : (s.updQuad q f).past = s.past := rfl
@[simp] theorem State.updQuad_cp (q : Nat) (f : Quad → Quad) : (s.updQuad q f).cp = s.cp := rfl
@[simp] theorem State.updQuad_err (q : Nat) (f : Quad → Quad) : (s.updQuad q f).err = s.err := rfl
@[simp] theorem State.updQuad_pwr (q : Nat) (f : Quad → Quad) : (s.updQuad q f).pwr = s.pwr := rfl
@[simp] theorem State.updQuad_pcie (q : Nat) (f : Quad → Quad) : (s.updQuad q f).pcie = s.pcie := rfl
@[simp] theorem State.updQuad_spr (q : Nat) (f : Quad → Quad) : (s.updQuad q f).spr = s.spr := rfl
@[simp] theorem State.updQuad_tb (q : Nat) (f : Quad → Quad) : (s.updQuad q f).tb = s.tb := rfl
@[simp] theorem State.updQuad_bcn (q : Nat) (f : Quad → Quad) : (s.updQuad q f).bcn = s.bcn := rfl
@[simp] theorem State.updQuad_acq (q : Nat) (f : Quad → Quad) : (s.updQuad q f).acq = { s.acq with quads := upd s.acq.quads q f } := rfl
@[simp] theorem State.updQuad_weir (q : Nat) (f : Quad → Quad) : (s.updQuad q f).weir = s.weir := rfl
@[simp] theorem State.updQuad_trg (q : Nat) (f : Quad → Quad) : (s.updQuad q f).trg = s.trg := rfl
@[simp] theorem State.updQuad_rsv (q : Nat) (f : Quad → Quad) : (s.updQuad q f).rsv = s.rsv := rfl
@[simp] theorem State.updQuad_pond (q : Nat) (f : Quad → Quad) : (s.updQuad q f).pond = s.pond := rfl
@[simp] theorem State.updQuad_dma (q : Nat) (f : Quad → Quad) : (s.updQuad q f).dma = s.dma := rfl
@[simp] theorem State.updQuad_ltn (q : Nat) (f : Quad → Quad) : (s.updQuad q f).ltn = s.ltn := rfl
@[simp] theorem State.updQuad_lamp (q : Nat) (f : Quad → Quad) : (s.updQuad q f).lamp = s.lamp := rfl
@[simp] theorem State.updQuad_buoy (q : Nat) (f : Quad → Quad) : (s.updQuad q f).buoy = s.buoy := rfl
@[simp] theorem State.updQuad_kpr (q : Nat) (f : Quad → Quad) : (s.updQuad q f).kpr = s.kpr := rfl
@[simp] theorem State.updQuad_stby (q : Nat) (f : Quad → Quad) : (s.updQuad q f).stby = s.stby := rfl
@[simp] theorem State.updQuad_hostWrites (q : Nat) (f : Quad → Quad) : (s.updQuad q f).hostWrites = s.hostWrites := rfl
@[simp] theorem State.updQuad_msixSent (q : Nat) (f : Quad → Quad) : (s.updQuad q f).msixSent = s.msixSent := rfl
@[simp] theorem State.updQuad_msgSent (q : Nat) (f : Quad → Quad) : (s.updQuad q f).msgSent = s.msgSent := rfl
@[simp] theorem State.updQuad_lastRead (q : Nat) (f : Quad → Quad) : (s.updQuad q f).lastRead = s.lastRead := rfl
@[simp] theorem State.updQuad_released (q : Nat) (f : Quad → Quad) : (s.updQuad q f).released = s.released := rfl
@[simp] theorem State.updQuad_freeCtr (q : Nat) (f : Quad → Quad) : (s.updQuad q f).freeCtr = s.freeCtr := rfl

/-! ### updAcqCh -/

@[simp] theorem State.updAcqCh_pending (n : Nat) (f : AcqCh → AcqCh) : (s.updAcqCh n f).pending = s.pending := rfl
@[simp] theorem State.updAcqCh_now (n : Nat) (f : AcqCh → AcqCh) : (s.updAcqCh n f).now = s.now := rfl
@[simp] theorem State.updAcqCh_cfg (n : Nat) (f : AcqCh → AcqCh) : (s.updAcqCh n f).cfg = s.cfg := rfl
@[simp] theorem State.updAcqCh_units (n : Nat) (f : AcqCh → AcqCh) : (s.updAcqCh n f).units = s.units := rfl
@[simp] theorem State.updAcqCh_past (n : Nat) (f : AcqCh → AcqCh) : (s.updAcqCh n f).past = s.past := rfl
@[simp] theorem State.updAcqCh_cp (n : Nat) (f : AcqCh → AcqCh) : (s.updAcqCh n f).cp = s.cp := rfl
@[simp] theorem State.updAcqCh_err (n : Nat) (f : AcqCh → AcqCh) : (s.updAcqCh n f).err = s.err := rfl
@[simp] theorem State.updAcqCh_pwr (n : Nat) (f : AcqCh → AcqCh) : (s.updAcqCh n f).pwr = s.pwr := rfl
@[simp] theorem State.updAcqCh_pcie (n : Nat) (f : AcqCh → AcqCh) : (s.updAcqCh n f).pcie = s.pcie := rfl
@[simp] theorem State.updAcqCh_spr (n : Nat) (f : AcqCh → AcqCh) : (s.updAcqCh n f).spr = s.spr := rfl
@[simp] theorem State.updAcqCh_tb (n : Nat) (f : AcqCh → AcqCh) : (s.updAcqCh n f).tb = s.tb := rfl
@[simp] theorem State.updAcqCh_bcn (n : Nat) (f : AcqCh → AcqCh) : (s.updAcqCh n f).bcn = s.bcn := rfl
@[simp] theorem State.updAcqCh_acq (n : Nat) (f : AcqCh → AcqCh) : (s.updAcqCh n f).acq = { s.acq with ch := upd s.acq.ch n f } := rfl
@[simp] theorem State.updAcqCh_weir (n : Nat) (f : AcqCh → AcqCh) : (s.updAcqCh n f).weir = s.weir := rfl
@[simp] theorem State.updAcqCh_trg (n : Nat) (f : AcqCh → AcqCh) : (s.updAcqCh n f).trg = s.trg := rfl
@[simp] theorem State.updAcqCh_rsv (n : Nat) (f : AcqCh → AcqCh) : (s.updAcqCh n f).rsv = s.rsv := rfl
@[simp] theorem State.updAcqCh_pond (n : Nat) (f : AcqCh → AcqCh) : (s.updAcqCh n f).pond = s.pond := rfl
@[simp] theorem State.updAcqCh_dma (n : Nat) (f : AcqCh → AcqCh) : (s.updAcqCh n f).dma = s.dma := rfl
@[simp] theorem State.updAcqCh_ltn (n : Nat) (f : AcqCh → AcqCh) : (s.updAcqCh n f).ltn = s.ltn := rfl
@[simp] theorem State.updAcqCh_lamp (n : Nat) (f : AcqCh → AcqCh) : (s.updAcqCh n f).lamp = s.lamp := rfl
@[simp] theorem State.updAcqCh_buoy (n : Nat) (f : AcqCh → AcqCh) : (s.updAcqCh n f).buoy = s.buoy := rfl
@[simp] theorem State.updAcqCh_kpr (n : Nat) (f : AcqCh → AcqCh) : (s.updAcqCh n f).kpr = s.kpr := rfl
@[simp] theorem State.updAcqCh_stby (n : Nat) (f : AcqCh → AcqCh) : (s.updAcqCh n f).stby = s.stby := rfl
@[simp] theorem State.updAcqCh_hostWrites (n : Nat) (f : AcqCh → AcqCh) : (s.updAcqCh n f).hostWrites = s.hostWrites := rfl
@[simp] theorem State.updAcqCh_msixSent (n : Nat) (f : AcqCh → AcqCh) : (s.updAcqCh n f).msixSent = s.msixSent := rfl
@[simp] theorem State.updAcqCh_msgSent (n : Nat) (f : AcqCh → AcqCh) : (s.updAcqCh n f).msgSent = s.msgSent := rfl
@[simp] theorem State.updAcqCh_lastRead (n : Nat) (f : AcqCh → AcqCh) : (s.updAcqCh n f).lastRead = s.lastRead := rfl
@[simp] theorem State.updAcqCh_released (n : Nat) (f : AcqCh → AcqCh) : (s.updAcqCh n f).released = s.released := rfl
@[simp] theorem State.updAcqCh_freeCtr (n : Nat) (f : AcqCh → AcqCh) : (s.updAcqCh n f).freeCtr = s.freeCtr := rfl

/-! ### updCal -/

@[simp] theorem State.updCal_pending (n : Nat) (f : CalCh → CalCh) : (s.updCal n f).pending = s.pending := rfl
@[simp] theorem State.updCal_now (n : Nat) (f : CalCh → CalCh) : (s.updCal n f).now = s.now := rfl
@[simp] theorem State.updCal_cfg (n : Nat) (f : CalCh → CalCh) : (s.updCal n f).cfg = s.cfg := rfl
@[simp] theorem State.updCal_units (n : Nat) (f : CalCh → CalCh) : (s.updCal n f).units = s.units := rfl
@[simp] theorem State.updCal_past (n : Nat) (f : CalCh → CalCh) : (s.updCal n f).past = s.past := rfl
@[simp] theorem State.updCal_cp (n : Nat) (f : CalCh → CalCh) : (s.updCal n f).cp = s.cp := rfl
@[simp] theorem State.updCal_err (n : Nat) (f : CalCh → CalCh) : (s.updCal n f).err = s.err := rfl
@[simp] theorem State.updCal_pwr (n : Nat) (f : CalCh → CalCh) : (s.updCal n f).pwr = s.pwr := rfl
@[simp] theorem State.updCal_pcie (n : Nat) (f : CalCh → CalCh) : (s.updCal n f).pcie = s.pcie := rfl
@[simp] theorem State.updCal_spr (n : Nat) (f : CalCh → CalCh) : (s.updCal n f).spr = s.spr := rfl
@[simp] theorem State.updCal_tb (n : Nat) (f : CalCh → CalCh) : (s.updCal n f).tb = s.tb := rfl
@[simp] theorem State.updCal_bcn (n : Nat) (f : CalCh → CalCh) : (s.updCal n f).bcn = s.bcn := rfl
@[simp] theorem State.updCal_acq (n : Nat) (f : CalCh → CalCh) : (s.updCal n f).acq = { s.acq with cal := upd s.acq.cal n f } := rfl
@[simp] theorem State.updCal_weir (n : Nat) (f : CalCh → CalCh) : (s.updCal n f).weir = s.weir := rfl
@[simp] theorem State.updCal_trg (n : Nat) (f : CalCh → CalCh) : (s.updCal n f).trg = s.trg := rfl
@[simp] theorem State.updCal_rsv (n : Nat) (f : CalCh → CalCh) : (s.updCal n f).rsv = s.rsv := rfl
@[simp] theorem State.updCal_pond (n : Nat) (f : CalCh → CalCh) : (s.updCal n f).pond = s.pond := rfl
@[simp] theorem State.updCal_dma (n : Nat) (f : CalCh → CalCh) : (s.updCal n f).dma = s.dma := rfl
@[simp] theorem State.updCal_ltn (n : Nat) (f : CalCh → CalCh) : (s.updCal n f).ltn = s.ltn := rfl
@[simp] theorem State.updCal_lamp (n : Nat) (f : CalCh → CalCh) : (s.updCal n f).lamp = s.lamp := rfl
@[simp] theorem State.updCal_buoy (n : Nat) (f : CalCh → CalCh) : (s.updCal n f).buoy = s.buoy := rfl
@[simp] theorem State.updCal_kpr (n : Nat) (f : CalCh → CalCh) : (s.updCal n f).kpr = s.kpr := rfl
@[simp] theorem State.updCal_stby (n : Nat) (f : CalCh → CalCh) : (s.updCal n f).stby = s.stby := rfl
@[simp] theorem State.updCal_hostWrites (n : Nat) (f : CalCh → CalCh) : (s.updCal n f).hostWrites = s.hostWrites := rfl
@[simp] theorem State.updCal_msixSent (n : Nat) (f : CalCh → CalCh) : (s.updCal n f).msixSent = s.msixSent := rfl
@[simp] theorem State.updCal_msgSent (n : Nat) (f : CalCh → CalCh) : (s.updCal n f).msgSent = s.msgSent := rfl
@[simp] theorem State.updCal_lastRead (n : Nat) (f : CalCh → CalCh) : (s.updCal n f).lastRead = s.lastRead := rfl
@[simp] theorem State.updCal_released (n : Nat) (f : CalCh → CalCh) : (s.updCal n f).released = s.released := rfl
@[simp] theorem State.updCal_freeCtr (n : Nat) (f : CalCh → CalCh) : (s.updCal n f).freeCtr = s.freeCtr := rfl

/-! ### updWeir -/

@[simp] theorem State.updWeir_pending (n : Nat) (f : WeirCh → WeirCh) : (s.updWeir n f).pending = s.pending := rfl
@[simp] theorem State.updWeir_now (n : Nat) (f : WeirCh → WeirCh) : (s.updWeir n f).now = s.now := rfl
@[simp] theorem State.updWeir_cfg (n : Nat) (f : WeirCh → WeirCh) : (s.updWeir n f).cfg = s.cfg := rfl
@[simp] theorem State.updWeir_units (n : Nat) (f : WeirCh → WeirCh) : (s.updWeir n f).units = s.units := rfl
@[simp] theorem State.updWeir_past (n : Nat) (f : WeirCh → WeirCh) : (s.updWeir n f).past = s.past := rfl
@[simp] theorem State.updWeir_cp (n : Nat) (f : WeirCh → WeirCh) : (s.updWeir n f).cp = s.cp := rfl
@[simp] theorem State.updWeir_err (n : Nat) (f : WeirCh → WeirCh) : (s.updWeir n f).err = s.err := rfl
@[simp] theorem State.updWeir_pwr (n : Nat) (f : WeirCh → WeirCh) : (s.updWeir n f).pwr = s.pwr := rfl
@[simp] theorem State.updWeir_pcie (n : Nat) (f : WeirCh → WeirCh) : (s.updWeir n f).pcie = s.pcie := rfl
@[simp] theorem State.updWeir_spr (n : Nat) (f : WeirCh → WeirCh) : (s.updWeir n f).spr = s.spr := rfl
@[simp] theorem State.updWeir_tb (n : Nat) (f : WeirCh → WeirCh) : (s.updWeir n f).tb = s.tb := rfl
@[simp] theorem State.updWeir_bcn (n : Nat) (f : WeirCh → WeirCh) : (s.updWeir n f).bcn = s.bcn := rfl
@[simp] theorem State.updWeir_acq (n : Nat) (f : WeirCh → WeirCh) : (s.updWeir n f).acq = s.acq := rfl
@[simp] theorem State.updWeir_weir (n : Nat) (f : WeirCh → WeirCh) : (s.updWeir n f).weir = upd s.weir n f := rfl
@[simp] theorem State.updWeir_trg (n : Nat) (f : WeirCh → WeirCh) : (s.updWeir n f).trg = s.trg := rfl
@[simp] theorem State.updWeir_rsv (n : Nat) (f : WeirCh → WeirCh) : (s.updWeir n f).rsv = s.rsv := rfl
@[simp] theorem State.updWeir_pond (n : Nat) (f : WeirCh → WeirCh) : (s.updWeir n f).pond = s.pond := rfl
@[simp] theorem State.updWeir_dma (n : Nat) (f : WeirCh → WeirCh) : (s.updWeir n f).dma = s.dma := rfl
@[simp] theorem State.updWeir_ltn (n : Nat) (f : WeirCh → WeirCh) : (s.updWeir n f).ltn = s.ltn := rfl
@[simp] theorem State.updWeir_lamp (n : Nat) (f : WeirCh → WeirCh) : (s.updWeir n f).lamp = s.lamp := rfl
@[simp] theorem State.updWeir_buoy (n : Nat) (f : WeirCh → WeirCh) : (s.updWeir n f).buoy = s.buoy := rfl
@[simp] theorem State.updWeir_kpr (n : Nat) (f : WeirCh → WeirCh) : (s.updWeir n f).kpr = s.kpr := rfl
@[simp] theorem State.updWeir_stby (n : Nat) (f : WeirCh → WeirCh) : (s.updWeir n f).stby = s.stby := rfl
@[simp] theorem State.updWeir_hostWrites (n : Nat) (f : WeirCh → WeirCh) : (s.updWeir n f).hostWrites = s.hostWrites := rfl
@[simp] theorem State.updWeir_msixSent (n : Nat) (f : WeirCh → WeirCh) : (s.updWeir n f).msixSent = s.msixSent := rfl
@[simp] theorem State.updWeir_msgSent (n : Nat) (f : WeirCh → WeirCh) : (s.updWeir n f).msgSent = s.msgSent := rfl
@[simp] theorem State.updWeir_lastRead (n : Nat) (f : WeirCh → WeirCh) : (s.updWeir n f).lastRead = s.lastRead := rfl
@[simp] theorem State.updWeir_released (n : Nat) (f : WeirCh → WeirCh) : (s.updWeir n f).released = s.released := rfl
@[simp] theorem State.updWeir_freeCtr (n : Nat) (f : WeirCh → WeirCh) : (s.updWeir n f).freeCtr = s.freeCtr := rfl

/-! ### updTrg -/

@[simp] theorem State.updTrg_pending (g : Nat) (f : TrgGrp → TrgGrp) : (s.updTrg g f).pending = s.pending := rfl
@[simp] theorem State.updTrg_now (g : Nat) (f : TrgGrp → TrgGrp) : (s.updTrg g f).now = s.now := rfl
@[simp] theorem State.updTrg_cfg (g : Nat) (f : TrgGrp → TrgGrp) : (s.updTrg g f).cfg = s.cfg := rfl
@[simp] theorem State.updTrg_units (g : Nat) (f : TrgGrp → TrgGrp) : (s.updTrg g f).units = s.units := rfl
@[simp] theorem State.updTrg_past (g : Nat) (f : TrgGrp → TrgGrp) : (s.updTrg g f).past = s.past := rfl
@[simp] theorem State.updTrg_cp (g : Nat) (f : TrgGrp → TrgGrp) : (s.updTrg g f).cp = s.cp := rfl
@[simp] theorem State.updTrg_err (g : Nat) (f : TrgGrp → TrgGrp) : (s.updTrg g f).err = s.err := rfl
@[simp] theorem State.updTrg_pwr (g : Nat) (f : TrgGrp → TrgGrp) : (s.updTrg g f).pwr = s.pwr := rfl
@[simp] theorem State.updTrg_pcie (g : Nat) (f : TrgGrp → TrgGrp) : (s.updTrg g f).pcie = s.pcie := rfl
@[simp] theorem State.updTrg_spr (g : Nat) (f : TrgGrp → TrgGrp) : (s.updTrg g f).spr = s.spr := rfl
@[simp] theorem State.updTrg_tb (g : Nat) (f : TrgGrp → TrgGrp) : (s.updTrg g f).tb = s.tb := rfl
@[simp] theorem State.updTrg_bcn (g : Nat) (f : TrgGrp → TrgGrp) : (s.updTrg g f).bcn = s.bcn := rfl
@[simp] theorem State.updTrg_acq (g : Nat) (f : TrgGrp → TrgGrp) : (s.updTrg g f).acq = s.acq := rfl
@[simp] theorem State.updTrg_weir (g : Nat) (f : TrgGrp → TrgGrp) : (s.updTrg g f).weir = s.weir := rfl
@[simp] theorem State.updTrg_trg (g : Nat) (f : TrgGrp → TrgGrp) : (s.updTrg g f).trg = { s.trg with grp := upd s.trg.grp g f } := rfl
@[simp] theorem State.updTrg_rsv (g : Nat) (f : TrgGrp → TrgGrp) : (s.updTrg g f).rsv = s.rsv := rfl
@[simp] theorem State.updTrg_pond (g : Nat) (f : TrgGrp → TrgGrp) : (s.updTrg g f).pond = s.pond := rfl
@[simp] theorem State.updTrg_dma (g : Nat) (f : TrgGrp → TrgGrp) : (s.updTrg g f).dma = s.dma := rfl
@[simp] theorem State.updTrg_ltn (g : Nat) (f : TrgGrp → TrgGrp) : (s.updTrg g f).ltn = s.ltn := rfl
@[simp] theorem State.updTrg_lamp (g : Nat) (f : TrgGrp → TrgGrp) : (s.updTrg g f).lamp = s.lamp := rfl
@[simp] theorem State.updTrg_buoy (g : Nat) (f : TrgGrp → TrgGrp) : (s.updTrg g f).buoy = s.buoy := rfl
@[simp] theorem State.updTrg_kpr (g : Nat) (f : TrgGrp → TrgGrp) : (s.updTrg g f).kpr = s.kpr := rfl
@[simp] theorem State.updTrg_stby (g : Nat) (f : TrgGrp → TrgGrp) : (s.updTrg g f).stby = s.stby := rfl
@[simp] theorem State.updTrg_hostWrites (g : Nat) (f : TrgGrp → TrgGrp) : (s.updTrg g f).hostWrites = s.hostWrites := rfl
@[simp] theorem State.updTrg_msixSent (g : Nat) (f : TrgGrp → TrgGrp) : (s.updTrg g f).msixSent = s.msixSent := rfl
@[simp] theorem State.updTrg_msgSent (g : Nat) (f : TrgGrp → TrgGrp) : (s.updTrg g f).msgSent = s.msgSent := rfl
@[simp] theorem State.updTrg_lastRead (g : Nat) (f : TrgGrp → TrgGrp) : (s.updTrg g f).lastRead = s.lastRead := rfl
@[simp] theorem State.updTrg_released (g : Nat) (f : TrgGrp → TrgGrp) : (s.updTrg g f).released = s.released := rfl
@[simp] theorem State.updTrg_freeCtr (g : Nat) (f : TrgGrp → TrgGrp) : (s.updTrg g f).freeCtr = s.freeCtr := rfl

/-! ### updOut -/

@[simp] theorem State.updOut_pending (i : Nat) (f : TrigOut → TrigOut) : (s.updOut i f).pending = s.pending := rfl
@[simp] theorem State.updOut_now (i : Nat) (f : TrigOut → TrigOut) : (s.updOut i f).now = s.now := rfl
@[simp] theorem State.updOut_cfg (i : Nat) (f : TrigOut → TrigOut) : (s.updOut i f).cfg = s.cfg := rfl
@[simp] theorem State.updOut_units (i : Nat) (f : TrigOut → TrigOut) : (s.updOut i f).units = s.units := rfl
@[simp] theorem State.updOut_past (i : Nat) (f : TrigOut → TrigOut) : (s.updOut i f).past = s.past := rfl
@[simp] theorem State.updOut_cp (i : Nat) (f : TrigOut → TrigOut) : (s.updOut i f).cp = s.cp := rfl
@[simp] theorem State.updOut_err (i : Nat) (f : TrigOut → TrigOut) : (s.updOut i f).err = s.err := rfl
@[simp] theorem State.updOut_pwr (i : Nat) (f : TrigOut → TrigOut) : (s.updOut i f).pwr = s.pwr := rfl
@[simp] theorem State.updOut_pcie (i : Nat) (f : TrigOut → TrigOut) : (s.updOut i f).pcie = s.pcie := rfl
@[simp] theorem State.updOut_spr (i : Nat) (f : TrigOut → TrigOut) : (s.updOut i f).spr = s.spr := rfl
@[simp] theorem State.updOut_tb (i : Nat) (f : TrigOut → TrigOut) : (s.updOut i f).tb = s.tb := rfl
@[simp] theorem State.updOut_bcn (i : Nat) (f : TrigOut → TrigOut) : (s.updOut i f).bcn = s.bcn := rfl
@[simp] theorem State.updOut_acq (i : Nat) (f : TrigOut → TrigOut) : (s.updOut i f).acq = s.acq := rfl
@[simp] theorem State.updOut_weir (i : Nat) (f : TrigOut → TrigOut) : (s.updOut i f).weir = s.weir := rfl
@[simp] theorem State.updOut_trg (i : Nat) (f : TrigOut → TrigOut) : (s.updOut i f).trg = { s.trg with out := upd s.trg.out i f } := rfl
@[simp] theorem State.updOut_rsv (i : Nat) (f : TrigOut → TrigOut) : (s.updOut i f).rsv = s.rsv := rfl
@[simp] theorem State.updOut_pond (i : Nat) (f : TrigOut → TrigOut) : (s.updOut i f).pond = s.pond := rfl
@[simp] theorem State.updOut_dma (i : Nat) (f : TrigOut → TrigOut) : (s.updOut i f).dma = s.dma := rfl
@[simp] theorem State.updOut_ltn (i : Nat) (f : TrigOut → TrigOut) : (s.updOut i f).ltn = s.ltn := rfl
@[simp] theorem State.updOut_lamp (i : Nat) (f : TrigOut → TrigOut) : (s.updOut i f).lamp = s.lamp := rfl
@[simp] theorem State.updOut_buoy (i : Nat) (f : TrigOut → TrigOut) : (s.updOut i f).buoy = s.buoy := rfl
@[simp] theorem State.updOut_kpr (i : Nat) (f : TrigOut → TrigOut) : (s.updOut i f).kpr = s.kpr := rfl
@[simp] theorem State.updOut_stby (i : Nat) (f : TrigOut → TrigOut) : (s.updOut i f).stby = s.stby := rfl
@[simp] theorem State.updOut_hostWrites (i : Nat) (f : TrigOut → TrigOut) : (s.updOut i f).hostWrites = s.hostWrites := rfl
@[simp] theorem State.updOut_msixSent (i : Nat) (f : TrigOut → TrigOut) : (s.updOut i f).msixSent = s.msixSent := rfl
@[simp] theorem State.updOut_msgSent (i : Nat) (f : TrigOut → TrigOut) : (s.updOut i f).msgSent = s.msgSent := rfl
@[simp] theorem State.updOut_lastRead (i : Nat) (f : TrigOut → TrigOut) : (s.updOut i f).lastRead = s.lastRead := rfl
@[simp] theorem State.updOut_released (i : Nat) (f : TrigOut → TrigOut) : (s.updOut i f).released = s.released := rfl
@[simp] theorem State.updOut_freeCtr (i : Nat) (f : TrigOut → TrigOut) : (s.updOut i f).freeCtr = s.freeCtr := rfl

/-! ### updRsv -/

@[simp] theorem State.updRsv_pending (f : Rsv → Rsv) : (s.updRsv f).pending = s.pending := rfl
@[simp] theorem State.updRsv_now (f : Rsv → Rsv) : (s.updRsv f).now = s.now := rfl
@[simp] theorem State.updRsv_cfg (f : Rsv → Rsv) : (s.updRsv f).cfg = s.cfg := rfl
@[simp] theorem State.updRsv_units (f : Rsv → Rsv) : (s.updRsv f).units = s.units := rfl
@[simp] theorem State.updRsv_past (f : Rsv → Rsv) : (s.updRsv f).past = s.past := rfl
@[simp] theorem State.updRsv_cp (f : Rsv → Rsv) : (s.updRsv f).cp = s.cp := rfl
@[simp] theorem State.updRsv_err (f : Rsv → Rsv) : (s.updRsv f).err = s.err := rfl
@[simp] theorem State.updRsv_pwr (f : Rsv → Rsv) : (s.updRsv f).pwr = s.pwr := rfl
@[simp] theorem State.updRsv_pcie (f : Rsv → Rsv) : (s.updRsv f).pcie = s.pcie := rfl
@[simp] theorem State.updRsv_spr (f : Rsv → Rsv) : (s.updRsv f).spr = s.spr := rfl
@[simp] theorem State.updRsv_tb (f : Rsv → Rsv) : (s.updRsv f).tb = s.tb := rfl
@[simp] theorem State.updRsv_bcn (f : Rsv → Rsv) : (s.updRsv f).bcn = s.bcn := rfl
@[simp] theorem State.updRsv_acq (f : Rsv → Rsv) : (s.updRsv f).acq = s.acq := rfl
@[simp] theorem State.updRsv_weir (f : Rsv → Rsv) : (s.updRsv f).weir = s.weir := rfl
@[simp] theorem State.updRsv_trg (f : Rsv → Rsv) : (s.updRsv f).trg = s.trg := rfl
@[simp] theorem State.updRsv_rsv (f : Rsv → Rsv) : (s.updRsv f).rsv = f s.rsv := rfl
@[simp] theorem State.updRsv_pond (f : Rsv → Rsv) : (s.updRsv f).pond = s.pond := rfl
@[simp] theorem State.updRsv_dma (f : Rsv → Rsv) : (s.updRsv f).dma = s.dma := rfl
@[simp] theorem State.updRsv_ltn (f : Rsv → Rsv) : (s.updRsv f).ltn = s.ltn := rfl
@[simp] theorem State.updRsv_lamp (f : Rsv → Rsv) : (s.updRsv f).lamp = s.lamp := rfl
@[simp] theorem State.updRsv_buoy (f : Rsv → Rsv) : (s.updRsv f).buoy = s.buoy := rfl
@[simp] theorem State.updRsv_kpr (f : Rsv → Rsv) : (s.updRsv f).kpr = s.kpr := rfl
@[simp] theorem State.updRsv_stby (f : Rsv → Rsv) : (s.updRsv f).stby = s.stby := rfl
@[simp] theorem State.updRsv_hostWrites (f : Rsv → Rsv) : (s.updRsv f).hostWrites = s.hostWrites := rfl
@[simp] theorem State.updRsv_msixSent (f : Rsv → Rsv) : (s.updRsv f).msixSent = s.msixSent := rfl
@[simp] theorem State.updRsv_msgSent (f : Rsv → Rsv) : (s.updRsv f).msgSent = s.msgSent := rfl
@[simp] theorem State.updRsv_lastRead (f : Rsv → Rsv) : (s.updRsv f).lastRead = s.lastRead := rfl
@[simp] theorem State.updRsv_released (f : Rsv → Rsv) : (s.updRsv f).released = s.released := rfl
@[simp] theorem State.updRsv_freeCtr (f : Rsv → Rsv) : (s.updRsv f).freeCtr = s.freeCtr := rfl

/-! ### updRec -/

@[simp] theorem State.updRec_pending (g : Nat) (f : RsvGrp → RsvGrp) : (s.updRec g f).pending = s.pending := rfl
@[simp] theorem State.updRec_now (g : Nat) (f : RsvGrp → RsvGrp) : (s.updRec g f).now = s.now := rfl
@[simp] theorem State.updRec_cfg (g : Nat) (f : RsvGrp → RsvGrp) : (s.updRec g f).cfg = s.cfg := rfl
@[simp] theorem State.updRec_units (g : Nat) (f : RsvGrp → RsvGrp) : (s.updRec g f).units = s.units := rfl
@[simp] theorem State.updRec_past (g : Nat) (f : RsvGrp → RsvGrp) : (s.updRec g f).past = s.past := rfl
@[simp] theorem State.updRec_cp (g : Nat) (f : RsvGrp → RsvGrp) : (s.updRec g f).cp = s.cp := rfl
@[simp] theorem State.updRec_err (g : Nat) (f : RsvGrp → RsvGrp) : (s.updRec g f).err = s.err := rfl
@[simp] theorem State.updRec_pwr (g : Nat) (f : RsvGrp → RsvGrp) : (s.updRec g f).pwr = s.pwr := rfl
@[simp] theorem State.updRec_pcie (g : Nat) (f : RsvGrp → RsvGrp) : (s.updRec g f).pcie = s.pcie := rfl
@[simp] theorem State.updRec_spr (g : Nat) (f : RsvGrp → RsvGrp) : (s.updRec g f).spr = s.spr := rfl
@[simp] theorem State.updRec_tb (g : Nat) (f : RsvGrp → RsvGrp) : (s.updRec g f).tb = s.tb := rfl
@[simp] theorem State.updRec_bcn (g : Nat) (f : RsvGrp → RsvGrp) : (s.updRec g f).bcn = s.bcn := rfl
@[simp] theorem State.updRec_acq (g : Nat) (f : RsvGrp → RsvGrp) : (s.updRec g f).acq = s.acq := rfl
@[simp] theorem State.updRec_weir (g : Nat) (f : RsvGrp → RsvGrp) : (s.updRec g f).weir = s.weir := rfl
@[simp] theorem State.updRec_trg (g : Nat) (f : RsvGrp → RsvGrp) : (s.updRec g f).trg = s.trg := rfl
@[simp] theorem State.updRec_rsv (g : Nat) (f : RsvGrp → RsvGrp) : (s.updRec g f).rsv = { s.rsv with grp := upd s.rsv.grp g f } := rfl
@[simp] theorem State.updRec_pond (g : Nat) (f : RsvGrp → RsvGrp) : (s.updRec g f).pond = s.pond := rfl
@[simp] theorem State.updRec_dma (g : Nat) (f : RsvGrp → RsvGrp) : (s.updRec g f).dma = s.dma := rfl
@[simp] theorem State.updRec_ltn (g : Nat) (f : RsvGrp → RsvGrp) : (s.updRec g f).ltn = s.ltn := rfl
@[simp] theorem State.updRec_lamp (g : Nat) (f : RsvGrp → RsvGrp) : (s.updRec g f).lamp = s.lamp := rfl
@[simp] theorem State.updRec_buoy (g : Nat) (f : RsvGrp → RsvGrp) : (s.updRec g f).buoy = s.buoy := rfl
@[simp] theorem State.updRec_kpr (g : Nat) (f : RsvGrp → RsvGrp) : (s.updRec g f).kpr = s.kpr := rfl
@[simp] theorem State.updRec_stby (g : Nat) (f : RsvGrp → RsvGrp) : (s.updRec g f).stby = s.stby := rfl
@[simp] theorem State.updRec_hostWrites (g : Nat) (f : RsvGrp → RsvGrp) : (s.updRec g f).hostWrites = s.hostWrites := rfl
@[simp] theorem State.updRec_msixSent (g : Nat) (f : RsvGrp → RsvGrp) : (s.updRec g f).msixSent = s.msixSent := rfl
@[simp] theorem State.updRec_msgSent (g : Nat) (f : RsvGrp → RsvGrp) : (s.updRec g f).msgSent = s.msgSent := rfl
@[simp] theorem State.updRec_lastRead (g : Nat) (f : RsvGrp → RsvGrp) : (s.updRec g f).lastRead = s.lastRead := rfl
@[simp] theorem State.updRec_released (g : Nat) (f : RsvGrp → RsvGrp) : (s.updRec g f).released = s.released := rfl
@[simp] theorem State.updRec_freeCtr (g : Nat) (f : RsvGrp → RsvGrp) : (s.updRec g f).freeCtr = s.freeCtr := rfl

/-! ### updRun -/

@[simp] theorem State.updRun_pending (g : Nat) (f : Run → Run) : (s.updRun g f).pending = s.pending := rfl
@[simp] theorem State.updRun_now (g : Nat) (f : Run → Run) : (s.updRun g f).now = s.now := rfl
@[simp] theorem State.updRun_cfg (g : Nat) (f : Run → Run) : (s.updRun g f).cfg = s.cfg := rfl
@[simp] theorem State.updRun_units (g : Nat) (f : Run → Run) : (s.updRun g f).units = s.units := rfl
@[simp] theorem State.updRun_past (g : Nat) (f : Run → Run) : (s.updRun g f).past = s.past := rfl
@[simp] theorem State.updRun_cp (g : Nat) (f : Run → Run) : (s.updRun g f).cp = s.cp := rfl
@[simp] theorem State.updRun_err (g : Nat) (f : Run → Run) : (s.updRun g f).err = s.err := rfl
@[simp] theorem State.updRun_pwr (g : Nat) (f : Run → Run) : (s.updRun g f).pwr = s.pwr := rfl
@[simp] theorem State.updRun_pcie (g : Nat) (f : Run → Run) : (s.updRun g f).pcie = s.pcie := rfl
@[simp] theorem State.updRun_spr (g : Nat) (f : Run → Run) : (s.updRun g f).spr = s.spr := rfl
@[simp] theorem State.updRun_tb (g : Nat) (f : Run → Run) : (s.updRun g f).tb = s.tb := rfl
@[simp] theorem State.updRun_bcn (g : Nat) (f : Run → Run) : (s.updRun g f).bcn = s.bcn := rfl
@[simp] theorem State.updRun_acq (g : Nat) (f : Run → Run) : (s.updRun g f).acq = s.acq := rfl
@[simp] theorem State.updRun_weir (g : Nat) (f : Run → Run) : (s.updRun g f).weir = s.weir := rfl
@[simp] theorem State.updRun_trg (g : Nat) (f : Run → Run) : (s.updRun g f).trg = s.trg := rfl
@[simp] theorem State.updRun_rsv (g : Nat) (f : Run → Run) : (s.updRun g f).rsv = { s.rsv with grp := upd s.rsv.grp g (fun r => { r with run := r.run.map f }) } := rfl
@[simp] theorem State.updRun_pond (g : Nat) (f : Run → Run) : (s.updRun g f).pond = s.pond := rfl
@[simp] theorem State.updRun_dma (g : Nat) (f : Run → Run) : (s.updRun g f).dma = s.dma := rfl
@[simp] theorem State.updRun_ltn (g : Nat) (f : Run → Run) : (s.updRun g f).ltn = s.ltn := rfl
@[simp] theorem State.updRun_lamp (g : Nat) (f : Run → Run) : (s.updRun g f).lamp = s.lamp := rfl
@[simp] theorem State.updRun_buoy (g : Nat) (f : Run → Run) : (s.updRun g f).buoy = s.buoy := rfl
@[simp] theorem State.updRun_kpr (g : Nat) (f : Run → Run) : (s.updRun g f).kpr = s.kpr := rfl
@[simp] theorem State.updRun_stby (g : Nat) (f : Run → Run) : (s.updRun g f).stby = s.stby := rfl
@[simp] theorem State.updRun_hostWrites (g : Nat) (f : Run → Run) : (s.updRun g f).hostWrites = s.hostWrites := rfl
@[simp] theorem State.updRun_msixSent (g : Nat) (f : Run → Run) : (s.updRun g f).msixSent = s.msixSent := rfl
@[simp] theorem State.updRun_msgSent (g : Nat) (f : Run → Run) : (s.updRun g f).msgSent = s.msgSent := rfl
@[simp] theorem State.updRun_lastRead (g : Nat) (f : Run → Run) : (s.updRun g f).lastRead = s.lastRead := rfl
@[simp] theorem State.updRun_released (g : Nat) (f : Run → Run) : (s.updRun g f).released = s.released := rfl
@[simp] theorem State.updRun_freeCtr (g : Nat) (f : Run → Run) : (s.updRun g f).freeCtr = s.freeCtr := rfl

/-! ### updPondCh -/

@[simp] theorem State.updPondCh_pending (n : Nat) (f : PondCh → PondCh) : (s.updPondCh n f).pending = s.pending := rfl
@[simp] theorem State.updPondCh_now (n : Nat) (f : PondCh → PondCh) : (s.updPondCh n f).now = s.now := rfl
@[simp] theorem State.updPondCh_cfg (n : Nat) (f : PondCh → PondCh) : (s.updPondCh n f).cfg = s.cfg := rfl
@[simp] theorem State.updPondCh_units (n : Nat) (f : PondCh → PondCh) : (s.updPondCh n f).units = s.units := rfl
@[simp] theorem State.updPondCh_past (n : Nat) (f : PondCh → PondCh) : (s.updPondCh n f).past = s.past := rfl
@[simp] theorem State.updPondCh_cp (n : Nat) (f : PondCh → PondCh) : (s.updPondCh n f).cp = s.cp := rfl
@[simp] theorem State.updPondCh_err (n : Nat) (f : PondCh → PondCh) : (s.updPondCh n f).err = s.err := rfl
@[simp] theorem State.updPondCh_pwr (n : Nat) (f : PondCh → PondCh) : (s.updPondCh n f).pwr = s.pwr := rfl
@[simp] theorem State.updPondCh_pcie (n : Nat) (f : PondCh → PondCh) : (s.updPondCh n f).pcie = s.pcie := rfl
@[simp] theorem State.updPondCh_spr (n : Nat) (f : PondCh → PondCh) : (s.updPondCh n f).spr = s.spr := rfl
@[simp] theorem State.updPondCh_tb (n : Nat) (f : PondCh → PondCh) : (s.updPondCh n f).tb = s.tb := rfl
@[simp] theorem State.updPondCh_bcn (n : Nat) (f : PondCh → PondCh) : (s.updPondCh n f).bcn = s.bcn := rfl
@[simp] theorem State.updPondCh_acq (n : Nat) (f : PondCh → PondCh) : (s.updPondCh n f).acq = s.acq := rfl
@[simp] theorem State.updPondCh_weir (n : Nat) (f : PondCh → PondCh) : (s.updPondCh n f).weir = s.weir := rfl
@[simp] theorem State.updPondCh_trg (n : Nat) (f : PondCh → PondCh) : (s.updPondCh n f).trg = s.trg := rfl
@[simp] theorem State.updPondCh_rsv (n : Nat) (f : PondCh → PondCh) : (s.updPondCh n f).rsv = s.rsv := rfl
@[simp] theorem State.updPondCh_pond (n : Nat) (f : PondCh → PondCh) : (s.updPondCh n f).pond = { s.pond with ch := upd s.pond.ch n f } := rfl
@[simp] theorem State.updPondCh_dma (n : Nat) (f : PondCh → PondCh) : (s.updPondCh n f).dma = s.dma := rfl
@[simp] theorem State.updPondCh_ltn (n : Nat) (f : PondCh → PondCh) : (s.updPondCh n f).ltn = s.ltn := rfl
@[simp] theorem State.updPondCh_lamp (n : Nat) (f : PondCh → PondCh) : (s.updPondCh n f).lamp = s.lamp := rfl
@[simp] theorem State.updPondCh_buoy (n : Nat) (f : PondCh → PondCh) : (s.updPondCh n f).buoy = s.buoy := rfl
@[simp] theorem State.updPondCh_kpr (n : Nat) (f : PondCh → PondCh) : (s.updPondCh n f).kpr = s.kpr := rfl
@[simp] theorem State.updPondCh_stby (n : Nat) (f : PondCh → PondCh) : (s.updPondCh n f).stby = s.stby := rfl
@[simp] theorem State.updPondCh_hostWrites (n : Nat) (f : PondCh → PondCh) : (s.updPondCh n f).hostWrites = s.hostWrites := rfl
@[simp] theorem State.updPondCh_msixSent (n : Nat) (f : PondCh → PondCh) : (s.updPondCh n f).msixSent = s.msixSent := rfl
@[simp] theorem State.updPondCh_msgSent (n : Nat) (f : PondCh → PondCh) : (s.updPondCh n f).msgSent = s.msgSent := rfl
@[simp] theorem State.updPondCh_lastRead (n : Nat) (f : PondCh → PondCh) : (s.updPondCh n f).lastRead = s.lastRead := rfl
@[simp] theorem State.updPondCh_released (n : Nat) (f : PondCh → PondCh) : (s.updPondCh n f).released = s.released := rfl
@[simp] theorem State.updPondCh_freeCtr (n : Nat) (f : PondCh → PondCh) : (s.updPondCh n f).freeCtr = s.freeCtr := rfl

/-! ### updSnd -/

@[simp] theorem State.updSnd_pending (g : Nat) (f : SndGrp → SndGrp) : (s.updSnd g f).pending = s.pending := rfl
@[simp] theorem State.updSnd_now (g : Nat) (f : SndGrp → SndGrp) : (s.updSnd g f).now = s.now := rfl
@[simp] theorem State.updSnd_cfg (g : Nat) (f : SndGrp → SndGrp) : (s.updSnd g f).cfg = s.cfg := rfl
@[simp] theorem State.updSnd_units (g : Nat) (f : SndGrp → SndGrp) : (s.updSnd g f).units = s.units := rfl
@[simp] theorem State.updSnd_past (g : Nat) (f : SndGrp → SndGrp) : (s.updSnd g f).past = s.past := rfl
@[simp] theorem State.updSnd_cp (g : Nat) (f : SndGrp → SndGrp) : (s.updSnd g f).cp = s.cp := rfl
@[simp] theorem State.updSnd_err (g : Nat) (f : SndGrp → SndGrp) : (s.updSnd g f).err = s.err := rfl
@[simp] theorem State.updSnd_pwr (g : Nat) (f : SndGrp → SndGrp) : (s.updSnd g f).pwr = s.pwr := rfl
@[simp] theorem State.updSnd_pcie (g : Nat) (f : SndGrp → SndGrp) : (s.updSnd g f).pcie = s.pcie := rfl
@[simp] theorem State.updSnd_spr (g : Nat) (f : SndGrp → SndGrp) : (s.updSnd g f).spr = s.spr := rfl
@[simp] theorem State.updSnd_tb (g : Nat) (f : SndGrp → SndGrp) : (s.updSnd g f).tb = s.tb := rfl
@[simp] theorem State.updSnd_bcn (g : Nat) (f : SndGrp → SndGrp) : (s.updSnd g f).bcn = s.bcn := rfl
@[simp] theorem State.updSnd_acq (g : Nat) (f : SndGrp → SndGrp) : (s.updSnd g f).acq = s.acq := rfl
@[simp] theorem State.updSnd_weir (g : Nat) (f : SndGrp → SndGrp) : (s.updSnd g f).weir = s.weir := rfl
@[simp] theorem State.updSnd_trg (g : Nat) (f : SndGrp → SndGrp) : (s.updSnd g f).trg = s.trg := rfl
@[simp] theorem State.updSnd_rsv (g : Nat) (f : SndGrp → SndGrp) : (s.updSnd g f).rsv = s.rsv := rfl
@[simp] theorem State.updSnd_pond (g : Nat) (f : SndGrp → SndGrp) : (s.updSnd g f).pond = { s.pond with grp := upd s.pond.grp g f } := rfl
@[simp] theorem State.updSnd_dma (g : Nat) (f : SndGrp → SndGrp) : (s.updSnd g f).dma = s.dma := rfl
@[simp] theorem State.updSnd_ltn (g : Nat) (f : SndGrp → SndGrp) : (s.updSnd g f).ltn = s.ltn := rfl
@[simp] theorem State.updSnd_lamp (g : Nat) (f : SndGrp → SndGrp) : (s.updSnd g f).lamp = s.lamp := rfl
@[simp] theorem State.updSnd_buoy (g : Nat) (f : SndGrp → SndGrp) : (s.updSnd g f).buoy = s.buoy := rfl
@[simp] theorem State.updSnd_kpr (g : Nat) (f : SndGrp → SndGrp) : (s.updSnd g f).kpr = s.kpr := rfl
@[simp] theorem State.updSnd_stby (g : Nat) (f : SndGrp → SndGrp) : (s.updSnd g f).stby = s.stby := rfl
@[simp] theorem State.updSnd_hostWrites (g : Nat) (f : SndGrp → SndGrp) : (s.updSnd g f).hostWrites = s.hostWrites := rfl
@[simp] theorem State.updSnd_msixSent (g : Nat) (f : SndGrp → SndGrp) : (s.updSnd g f).msixSent = s.msixSent := rfl
@[simp] theorem State.updSnd_msgSent (g : Nat) (f : SndGrp → SndGrp) : (s.updSnd g f).msgSent = s.msgSent := rfl
@[simp] theorem State.updSnd_lastRead (g : Nat) (f : SndGrp → SndGrp) : (s.updSnd g f).lastRead = s.lastRead := rfl
@[simp] theorem State.updSnd_released (g : Nat) (f : SndGrp → SndGrp) : (s.updSnd g f).released = s.released := rfl
@[simp] theorem State.updSnd_freeCtr (g : Nat) (f : SndGrp → SndGrp) : (s.updSnd g f).freeCtr = s.freeCtr := rfl

/-! ### updDma -/

@[simp] theorem State.updDma_pending (c : Nat) (f : DmaCh → DmaCh) : (s.updDma c f).pending = s.pending := rfl
@[simp] theorem State.updDma_now (c : Nat) (f : DmaCh → DmaCh) : (s.updDma c f).now = s.now := rfl
@[simp] theorem State.updDma_cfg (c : Nat) (f : DmaCh → DmaCh) : (s.updDma c f).cfg = s.cfg := rfl
@[simp] theorem State.updDma_units (c : Nat) (f : DmaCh → DmaCh) : (s.updDma c f).units = s.units := rfl
@[simp] theorem State.updDma_past (c : Nat) (f : DmaCh → DmaCh) : (s.updDma c f).past = s.past := rfl
@[simp] theorem State.updDma_cp (c : Nat) (f : DmaCh → DmaCh) : (s.updDma c f).cp = s.cp := rfl
@[simp] theorem State.updDma_err (c : Nat) (f : DmaCh → DmaCh) : (s.updDma c f).err = s.err := rfl
@[simp] theorem State.updDma_pwr (c : Nat) (f : DmaCh → DmaCh) : (s.updDma c f).pwr = s.pwr := rfl
@[simp] theorem State.updDma_pcie (c : Nat) (f : DmaCh → DmaCh) : (s.updDma c f).pcie = s.pcie := rfl
@[simp] theorem State.updDma_spr (c : Nat) (f : DmaCh → DmaCh) : (s.updDma c f).spr = s.spr := rfl
@[simp] theorem State.updDma_tb (c : Nat) (f : DmaCh → DmaCh) : (s.updDma c f).tb = s.tb := rfl
@[simp] theorem State.updDma_bcn (c : Nat) (f : DmaCh → DmaCh) : (s.updDma c f).bcn = s.bcn := rfl
@[simp] theorem State.updDma_acq (c : Nat) (f : DmaCh → DmaCh) : (s.updDma c f).acq = s.acq := rfl
@[simp] theorem State.updDma_weir (c : Nat) (f : DmaCh → DmaCh) : (s.updDma c f).weir = s.weir := rfl
@[simp] theorem State.updDma_trg (c : Nat) (f : DmaCh → DmaCh) : (s.updDma c f).trg = s.trg := rfl
@[simp] theorem State.updDma_rsv (c : Nat) (f : DmaCh → DmaCh) : (s.updDma c f).rsv = s.rsv := rfl
@[simp] theorem State.updDma_pond (c : Nat) (f : DmaCh → DmaCh) : (s.updDma c f).pond = s.pond := rfl
@[simp] theorem State.updDma_dma (c : Nat) (f : DmaCh → DmaCh) : (s.updDma c f).dma = { s.dma with ch := upd s.dma.ch c f } := rfl
@[simp] theorem State.updDma_ltn (c : Nat) (f : DmaCh → DmaCh) : (s.updDma c f).ltn = s.ltn := rfl
@[simp] theorem State.updDma_lamp (c : Nat) (f : DmaCh → DmaCh) : (s.updDma c f).lamp = s.lamp := rfl
@[simp] theorem State.updDma_buoy (c : Nat) (f : DmaCh → DmaCh) : (s.updDma c f).buoy = s.buoy := rfl
@[simp] theorem State.updDma_kpr (c : Nat) (f : DmaCh → DmaCh) : (s.updDma c f).kpr = s.kpr := rfl
@[simp] theorem State.updDma_stby (c : Nat) (f : DmaCh → DmaCh) : (s.updDma c f).stby = s.stby := rfl
@[simp] theorem State.updDma_hostWrites (c : Nat) (f : DmaCh → DmaCh) : (s.updDma c f).hostWrites = s.hostWrites := rfl
@[simp] theorem State.updDma_msixSent (c : Nat) (f : DmaCh → DmaCh) : (s.updDma c f).msixSent = s.msixSent := rfl
@[simp] theorem State.updDma_msgSent (c : Nat) (f : DmaCh → DmaCh) : (s.updDma c f).msgSent = s.msgSent := rfl
@[simp] theorem State.updDma_lastRead (c : Nat) (f : DmaCh → DmaCh) : (s.updDma c f).lastRead = s.lastRead := rfl
@[simp] theorem State.updDma_released (c : Nat) (f : DmaCh → DmaCh) : (s.updDma c f).released = s.released := rfl
@[simp] theorem State.updDma_freeCtr (c : Nat) (f : DmaCh → DmaCh) : (s.updDma c f).freeCtr = s.freeCtr := rfl

/-! ### updLtn -/

@[simp] theorem State.updLtn_pending (f : Ltn → Ltn) : (s.updLtn f).pending = s.pending := rfl
@[simp] theorem State.updLtn_now (f : Ltn → Ltn) : (s.updLtn f).now = s.now := rfl
@[simp] theorem State.updLtn_cfg (f : Ltn → Ltn) : (s.updLtn f).cfg = s.cfg := rfl
@[simp] theorem State.updLtn_units (f : Ltn → Ltn) : (s.updLtn f).units = s.units := rfl
@[simp] theorem State.updLtn_past (f : Ltn → Ltn) : (s.updLtn f).past = s.past := rfl
@[simp] theorem State.updLtn_cp (f : Ltn → Ltn) : (s.updLtn f).cp = s.cp := rfl
@[simp] theorem State.updLtn_err (f : Ltn → Ltn) : (s.updLtn f).err = s.err := rfl
@[simp] theorem State.updLtn_pwr (f : Ltn → Ltn) : (s.updLtn f).pwr = s.pwr := rfl
@[simp] theorem State.updLtn_pcie (f : Ltn → Ltn) : (s.updLtn f).pcie = s.pcie := rfl
@[simp] theorem State.updLtn_spr (f : Ltn → Ltn) : (s.updLtn f).spr = s.spr := rfl
@[simp] theorem State.updLtn_tb (f : Ltn → Ltn) : (s.updLtn f).tb = s.tb := rfl
@[simp] theorem State.updLtn_bcn (f : Ltn → Ltn) : (s.updLtn f).bcn = s.bcn := rfl
@[simp] theorem State.updLtn_acq (f : Ltn → Ltn) : (s.updLtn f).acq = s.acq := rfl
@[simp] theorem State.updLtn_weir (f : Ltn → Ltn) : (s.updLtn f).weir = s.weir := rfl
@[simp] theorem State.updLtn_trg (f : Ltn → Ltn) : (s.updLtn f).trg = s.trg := rfl
@[simp] theorem State.updLtn_rsv (f : Ltn → Ltn) : (s.updLtn f).rsv = s.rsv := rfl
@[simp] theorem State.updLtn_pond (f : Ltn → Ltn) : (s.updLtn f).pond = s.pond := rfl
@[simp] theorem State.updLtn_dma (f : Ltn → Ltn) : (s.updLtn f).dma = s.dma := rfl
@[simp] theorem State.updLtn_ltn (f : Ltn → Ltn) : (s.updLtn f).ltn = f s.ltn := rfl
@[simp] theorem State.updLtn_lamp (f : Ltn → Ltn) : (s.updLtn f).lamp = s.lamp := rfl
@[simp] theorem State.updLtn_buoy (f : Ltn → Ltn) : (s.updLtn f).buoy = s.buoy := rfl
@[simp] theorem State.updLtn_kpr (f : Ltn → Ltn) : (s.updLtn f).kpr = s.kpr := rfl
@[simp] theorem State.updLtn_stby (f : Ltn → Ltn) : (s.updLtn f).stby = s.stby := rfl
@[simp] theorem State.updLtn_hostWrites (f : Ltn → Ltn) : (s.updLtn f).hostWrites = s.hostWrites := rfl
@[simp] theorem State.updLtn_msixSent (f : Ltn → Ltn) : (s.updLtn f).msixSent = s.msixSent := rfl
@[simp] theorem State.updLtn_msgSent (f : Ltn → Ltn) : (s.updLtn f).msgSent = s.msgSent := rfl
@[simp] theorem State.updLtn_lastRead (f : Ltn → Ltn) : (s.updLtn f).lastRead = s.lastRead := rfl
@[simp] theorem State.updLtn_released (f : Ltn → Ltn) : (s.updLtn f).released = s.released := rfl
@[simp] theorem State.updLtn_freeCtr (f : Ltn → Ltn) : (s.updLtn f).freeCtr = s.freeCtr := rfl

/-! ### updDp -/

@[simp] theorem State.updDp_pending (k : Nat) (f : Dp → Dp) : (s.updDp k f).pending = s.pending := rfl
@[simp] theorem State.updDp_now (k : Nat) (f : Dp → Dp) : (s.updDp k f).now = s.now := rfl
@[simp] theorem State.updDp_cfg (k : Nat) (f : Dp → Dp) : (s.updDp k f).cfg = s.cfg := rfl
@[simp] theorem State.updDp_units (k : Nat) (f : Dp → Dp) : (s.updDp k f).units = s.units := rfl
@[simp] theorem State.updDp_past (k : Nat) (f : Dp → Dp) : (s.updDp k f).past = s.past := rfl
@[simp] theorem State.updDp_cp (k : Nat) (f : Dp → Dp) : (s.updDp k f).cp = s.cp := rfl
@[simp] theorem State.updDp_err (k : Nat) (f : Dp → Dp) : (s.updDp k f).err = s.err := rfl
@[simp] theorem State.updDp_pwr (k : Nat) (f : Dp → Dp) : (s.updDp k f).pwr = s.pwr := rfl
@[simp] theorem State.updDp_pcie (k : Nat) (f : Dp → Dp) : (s.updDp k f).pcie = s.pcie := rfl
@[simp] theorem State.updDp_spr (k : Nat) (f : Dp → Dp) : (s.updDp k f).spr = s.spr := rfl
@[simp] theorem State.updDp_tb (k : Nat) (f : Dp → Dp) : (s.updDp k f).tb = s.tb := rfl
@[simp] theorem State.updDp_bcn (k : Nat) (f : Dp → Dp) : (s.updDp k f).bcn = s.bcn := rfl
@[simp] theorem State.updDp_acq (k : Nat) (f : Dp → Dp) : (s.updDp k f).acq = s.acq := rfl
@[simp] theorem State.updDp_weir (k : Nat) (f : Dp → Dp) : (s.updDp k f).weir = s.weir := rfl
@[simp] theorem State.updDp_trg (k : Nat) (f : Dp → Dp) : (s.updDp k f).trg = s.trg := rfl
@[simp] theorem State.updDp_rsv (k : Nat) (f : Dp → Dp) : (s.updDp k f).rsv = s.rsv := rfl
@[simp] theorem State.updDp_pond (k : Nat) (f : Dp → Dp) : (s.updDp k f).pond = s.pond := rfl
@[simp] theorem State.updDp_dma (k : Nat) (f : Dp → Dp) : (s.updDp k f).dma = s.dma := rfl
@[simp] theorem State.updDp_ltn (k : Nat) (f : Dp → Dp) : (s.updDp k f).ltn = { s.ltn with dp := upd s.ltn.dp k f } := rfl
@[simp] theorem State.updDp_lamp (k : Nat) (f : Dp → Dp) : (s.updDp k f).lamp = s.lamp := rfl
@[simp] theorem State.updDp_buoy (k : Nat) (f : Dp → Dp) : (s.updDp k f).buoy = s.buoy := rfl
@[simp] theorem State.updDp_kpr (k : Nat) (f : Dp → Dp) : (s.updDp k f).kpr = s.kpr := rfl
@[simp] theorem State.updDp_stby (k : Nat) (f : Dp → Dp) : (s.updDp k f).stby = s.stby := rfl
@[simp] theorem State.updDp_hostWrites (k : Nat) (f : Dp → Dp) : (s.updDp k f).hostWrites = s.hostWrites := rfl
@[simp] theorem State.updDp_msixSent (k : Nat) (f : Dp → Dp) : (s.updDp k f).msixSent = s.msixSent := rfl
@[simp] theorem State.updDp_msgSent (k : Nat) (f : Dp → Dp) : (s.updDp k f).msgSent = s.msgSent := rfl
@[simp] theorem State.updDp_lastRead (k : Nat) (f : Dp → Dp) : (s.updDp k f).lastRead = s.lastRead := rfl
@[simp] theorem State.updDp_released (k : Nat) (f : Dp → Dp) : (s.updDp k f).released = s.released := rfl
@[simp] theorem State.updDp_freeCtr (k : Nat) (f : Dp → Dp) : (s.updDp k f).freeCtr = s.freeCtr := rfl

/-! ### updLamp -/

@[simp] theorem State.updLamp_pending (f : Lamp → Lamp) : (s.updLamp f).pending = s.pending := rfl
@[simp] theorem State.updLamp_now (f : Lamp → Lamp) : (s.updLamp f).now = s.now := rfl
@[simp] theorem State.updLamp_cfg (f : Lamp → Lamp) : (s.updLamp f).cfg = s.cfg := rfl
@[simp] theorem State.updLamp_units (f : Lamp → Lamp) : (s.updLamp f).units = s.units := rfl
@[simp] theorem State.updLamp_past (f : Lamp → Lamp) : (s.updLamp f).past = s.past := rfl
@[simp] theorem State.updLamp_cp (f : Lamp → Lamp) : (s.updLamp f).cp = s.cp := rfl
@[simp] theorem State.updLamp_err (f : Lamp → Lamp) : (s.updLamp f).err = s.err := rfl
@[simp] theorem State.updLamp_pwr (f : Lamp → Lamp) : (s.updLamp f).pwr = s.pwr := rfl
@[simp] theorem State.updLamp_pcie (f : Lamp → Lamp) : (s.updLamp f).pcie = s.pcie := rfl
@[simp] theorem State.updLamp_spr (f : Lamp → Lamp) : (s.updLamp f).spr = s.spr := rfl
@[simp] theorem State.updLamp_tb (f : Lamp → Lamp) : (s.updLamp f).tb = s.tb := rfl
@[simp] theorem State.updLamp_bcn (f : Lamp → Lamp) : (s.updLamp f).bcn = s.bcn := rfl
@[simp] theorem State.updLamp_acq (f : Lamp → Lamp) : (s.updLamp f).acq = s.acq := rfl
@[simp] theorem State.updLamp_weir (f : Lamp → Lamp) : (s.updLamp f).weir = s.weir := rfl
@[simp] theorem State.updLamp_trg (f : Lamp → Lamp) : (s.updLamp f).trg = s.trg := rfl
@[simp] theorem State.updLamp_rsv (f : Lamp → Lamp) : (s.updLamp f).rsv = s.rsv := rfl
@[simp] theorem State.updLamp_pond (f : Lamp → Lamp) : (s.updLamp f).pond = s.pond := rfl
@[simp] theorem State.updLamp_dma (f : Lamp → Lamp) : (s.updLamp f).dma = s.dma := rfl
@[simp] theorem State.updLamp_ltn (f : Lamp → Lamp) : (s.updLamp f).ltn = s.ltn := rfl
@[simp] theorem State.updLamp_lamp (f : Lamp → Lamp) : (s.updLamp f).lamp = f s.lamp := rfl
@[simp] theorem State.updLamp_buoy (f : Lamp → Lamp) : (s.updLamp f).buoy = s.buoy := rfl
@[simp] theorem State.updLamp_kpr (f : Lamp → Lamp) : (s.updLamp f).kpr = s.kpr := rfl
@[simp] theorem State.updLamp_stby (f : Lamp → Lamp) : (s.updLamp f).stby = s.stby := rfl
@[simp] theorem State.updLamp_hostWrites (f : Lamp → Lamp) : (s.updLamp f).hostWrites = s.hostWrites := rfl
@[simp] theorem State.updLamp_msixSent (f : Lamp → Lamp) : (s.updLamp f).msixSent = s.msixSent := rfl
@[simp] theorem State.updLamp_msgSent (f : Lamp → Lamp) : (s.updLamp f).msgSent = s.msgSent := rfl
@[simp] theorem State.updLamp_lastRead (f : Lamp → Lamp) : (s.updLamp f).lastRead = s.lastRead := rfl
@[simp] theorem State.updLamp_released (f : Lamp → Lamp) : (s.updLamp f).released = s.released := rfl
@[simp] theorem State.updLamp_freeCtr (f : Lamp → Lamp) : (s.updLamp f).freeCtr = s.freeCtr := rfl

/-! ### updBuoy -/

@[simp] theorem State.updBuoy_pending (f : Buoy → Buoy) : (s.updBuoy f).pending = s.pending := rfl
@[simp] theorem State.updBuoy_now (f : Buoy → Buoy) : (s.updBuoy f).now = s.now := rfl
@[simp] theorem State.updBuoy_cfg (f : Buoy → Buoy) : (s.updBuoy f).cfg = s.cfg := rfl
@[simp] theorem State.updBuoy_units (f : Buoy → Buoy) : (s.updBuoy f).units = s.units := rfl
@[simp] theorem State.updBuoy_past (f : Buoy → Buoy) : (s.updBuoy f).past = s.past := rfl
@[simp] theorem State.updBuoy_cp (f : Buoy → Buoy) : (s.updBuoy f).cp = s.cp := rfl
@[simp] theorem State.updBuoy_err (f : Buoy → Buoy) : (s.updBuoy f).err = s.err := rfl
@[simp] theorem State.updBuoy_pwr (f : Buoy → Buoy) : (s.updBuoy f).pwr = s.pwr := rfl
@[simp] theorem State.updBuoy_pcie (f : Buoy → Buoy) : (s.updBuoy f).pcie = s.pcie := rfl
@[simp] theorem State.updBuoy_spr (f : Buoy → Buoy) : (s.updBuoy f).spr = s.spr := rfl
@[simp] theorem State.updBuoy_tb (f : Buoy → Buoy) : (s.updBuoy f).tb = s.tb := rfl
@[simp] theorem State.updBuoy_bcn (f : Buoy → Buoy) : (s.updBuoy f).bcn = s.bcn := rfl
@[simp] theorem State.updBuoy_acq (f : Buoy → Buoy) : (s.updBuoy f).acq = s.acq := rfl
@[simp] theorem State.updBuoy_weir (f : Buoy → Buoy) : (s.updBuoy f).weir = s.weir := rfl
@[simp] theorem State.updBuoy_trg (f : Buoy → Buoy) : (s.updBuoy f).trg = s.trg := rfl
@[simp] theorem State.updBuoy_rsv (f : Buoy → Buoy) : (s.updBuoy f).rsv = s.rsv := rfl
@[simp] theorem State.updBuoy_pond (f : Buoy → Buoy) : (s.updBuoy f).pond = s.pond := rfl
@[simp] theorem State.updBuoy_dma (f : Buoy → Buoy) : (s.updBuoy f).dma = s.dma := rfl
@[simp] theorem State.updBuoy_ltn (f : Buoy → Buoy) : (s.updBuoy f).ltn = s.ltn := rfl
@[simp] theorem State.updBuoy_lamp (f : Buoy → Buoy) : (s.updBuoy f).lamp = s.lamp := rfl
@[simp] theorem State.updBuoy_buoy (f : Buoy → Buoy) : (s.updBuoy f).buoy = f s.buoy := rfl
@[simp] theorem State.updBuoy_kpr (f : Buoy → Buoy) : (s.updBuoy f).kpr = s.kpr := rfl
@[simp] theorem State.updBuoy_stby (f : Buoy → Buoy) : (s.updBuoy f).stby = s.stby := rfl
@[simp] theorem State.updBuoy_hostWrites (f : Buoy → Buoy) : (s.updBuoy f).hostWrites = s.hostWrites := rfl
@[simp] theorem State.updBuoy_msixSent (f : Buoy → Buoy) : (s.updBuoy f).msixSent = s.msixSent := rfl
@[simp] theorem State.updBuoy_msgSent (f : Buoy → Buoy) : (s.updBuoy f).msgSent = s.msgSent := rfl
@[simp] theorem State.updBuoy_lastRead (f : Buoy → Buoy) : (s.updBuoy f).lastRead = s.lastRead := rfl
@[simp] theorem State.updBuoy_released (f : Buoy → Buoy) : (s.updBuoy f).released = s.released := rfl
@[simp] theorem State.updBuoy_freeCtr (f : Buoy → Buoy) : (s.updBuoy f).freeCtr = s.freeCtr := rfl

/-! ### updKpr -/

@[simp] theorem State.updKpr_pending (f : Kpr → Kpr) : (s.updKpr f).pending = s.pending := rfl
@[simp] theorem State.updKpr_now (f : Kpr → Kpr) : (s.updKpr f).now = s.now := rfl
@[simp] theorem State.updKpr_cfg (f : Kpr → Kpr) : (s.updKpr f).cfg = s.cfg := rfl
@[simp] theorem State.updKpr_units (f : Kpr → Kpr) : (s.updKpr f).units = s.units := rfl
@[simp] theorem State.updKpr_past (f : Kpr → Kpr) : (s.updKpr f).past = s.past := rfl
@[simp] theorem State.updKpr_cp (f : Kpr → Kpr) : (s.updKpr f).cp = s.cp := rfl
@[simp] theorem State.updKpr_err (f : Kpr → Kpr) : (s.updKpr f).err = s.err := rfl
@[simp] theorem State.updKpr_pwr (f : Kpr → Kpr) : (s.updKpr f).pwr = s.pwr := rfl
@[simp] theorem State.updKpr_pcie (f : Kpr → Kpr) : (s.updKpr f).pcie = s.pcie := rfl
@[simp] theorem State.updKpr_spr (f : Kpr → Kpr) : (s.updKpr f).spr = s.spr := rfl
@[simp] theorem State.updKpr_tb (f : Kpr → Kpr) : (s.updKpr f).tb = s.tb := rfl
@[simp] theorem State.updKpr_bcn (f : Kpr → Kpr) : (s.updKpr f).bcn = s.bcn := rfl
@[simp] theorem State.updKpr_acq (f : Kpr → Kpr) : (s.updKpr f).acq = s.acq := rfl
@[simp] theorem State.updKpr_weir (f : Kpr → Kpr) : (s.updKpr f).weir = s.weir := rfl
@[simp] theorem State.updKpr_trg (f : Kpr → Kpr) : (s.updKpr f).trg = s.trg := rfl
@[simp] theorem State.updKpr_rsv (f : Kpr → Kpr) : (s.updKpr f).rsv = s.rsv := rfl
@[simp] theorem State.updKpr_pond (f : Kpr → Kpr) : (s.updKpr f).pond = s.pond := rfl
@[simp] theorem State.updKpr_dma (f : Kpr → Kpr) : (s.updKpr f).dma = s.dma := rfl
@[simp] theorem State.updKpr_ltn (f : Kpr → Kpr) : (s.updKpr f).ltn = s.ltn := rfl
@[simp] theorem State.updKpr_lamp (f : Kpr → Kpr) : (s.updKpr f).lamp = s.lamp := rfl
@[simp] theorem State.updKpr_buoy (f : Kpr → Kpr) : (s.updKpr f).buoy = s.buoy := rfl
@[simp] theorem State.updKpr_kpr (f : Kpr → Kpr) : (s.updKpr f).kpr = f s.kpr := rfl
@[simp] theorem State.updKpr_stby (f : Kpr → Kpr) : (s.updKpr f).stby = s.stby := rfl
@[simp] theorem State.updKpr_hostWrites (f : Kpr → Kpr) : (s.updKpr f).hostWrites = s.hostWrites := rfl
@[simp] theorem State.updKpr_msixSent (f : Kpr → Kpr) : (s.updKpr f).msixSent = s.msixSent := rfl
@[simp] theorem State.updKpr_msgSent (f : Kpr → Kpr) : (s.updKpr f).msgSent = s.msgSent := rfl
@[simp] theorem State.updKpr_lastRead (f : Kpr → Kpr) : (s.updKpr f).lastRead = s.lastRead := rfl
@[simp] theorem State.updKpr_released (f : Kpr → Kpr) : (s.updKpr f).released = s.released := rfl
@[simp] theorem State.updKpr_freeCtr (f : Kpr → Kpr) : (s.updKpr f).freeCtr = s.freeCtr := rfl

/-! ### updJ -/

@[simp] theorem State.updJ_pending (i : Nat) (f : JEntry → JEntry) : (s.updJ i f).pending = s.pending := rfl
@[simp] theorem State.updJ_now (i : Nat) (f : JEntry → JEntry) : (s.updJ i f).now = s.now := rfl
@[simp] theorem State.updJ_cfg (i : Nat) (f : JEntry → JEntry) : (s.updJ i f).cfg = s.cfg := rfl
@[simp] theorem State.updJ_units (i : Nat) (f : JEntry → JEntry) : (s.updJ i f).units = s.units := rfl
@[simp] theorem State.updJ_past (i : Nat) (f : JEntry → JEntry) : (s.updJ i f).past = s.past := rfl
@[simp] theorem State.updJ_cp (i : Nat) (f : JEntry → JEntry) : (s.updJ i f).cp = s.cp.mapJrn (List.map (fun e => if e.idx = i then f e else e)) := rfl
@[simp] theorem State.updJ_err (i : Nat) (f : JEntry → JEntry) : (s.updJ i f).err = s.err := rfl
@[simp] theorem State.updJ_pwr (i : Nat) (f : JEntry → JEntry) : (s.updJ i f).pwr = s.pwr := rfl
@[simp] theorem State.updJ_pcie (i : Nat) (f : JEntry → JEntry) : (s.updJ i f).pcie = s.pcie := rfl
@[simp] theorem State.updJ_spr (i : Nat) (f : JEntry → JEntry) : (s.updJ i f).spr = s.spr := rfl
@[simp] theorem State.updJ_tb (i : Nat) (f : JEntry → JEntry) : (s.updJ i f).tb = s.tb := rfl
@[simp] theorem State.updJ_bcn (i : Nat) (f : JEntry → JEntry) : (s.updJ i f).bcn = s.bcn := rfl
@[simp] theorem State.updJ_acq (i : Nat) (f : JEntry → JEntry) : (s.updJ i f).acq = s.acq := rfl
@[simp] theorem State.updJ_weir (i : Nat) (f : JEntry → JEntry) : (s.updJ i f).weir = s.weir := rfl
@[simp] theorem State.updJ_trg (i : Nat) (f : JEntry → JEntry) : (s.updJ i f).trg = s.trg := rfl
@[simp] theorem State.updJ_rsv (i : Nat) (f : JEntry → JEntry) : (s.updJ i f).rsv = s.rsv := rfl
@[simp] theorem State.updJ_pond (i : Nat) (f : JEntry → JEntry) : (s.updJ i f).pond = s.pond := rfl
@[simp] theorem State.updJ_dma (i : Nat) (f : JEntry → JEntry) : (s.updJ i f).dma = s.dma := rfl
@[simp] theorem State.updJ_ltn (i : Nat) (f : JEntry → JEntry) : (s.updJ i f).ltn = s.ltn := rfl
@[simp] theorem State.updJ_lamp (i : Nat) (f : JEntry → JEntry) : (s.updJ i f).lamp = s.lamp := rfl
@[simp] theorem State.updJ_buoy (i : Nat) (f : JEntry → JEntry) : (s.updJ i f).buoy = s.buoy := rfl
@[simp] theorem State.updJ_kpr (i : Nat) (f : JEntry → JEntry) : (s.updJ i f).kpr = s.kpr := rfl
@[simp] theorem State.updJ_stby (i : Nat) (f : JEntry → JEntry) : (s.updJ i f).stby = s.stby := rfl
@[simp] theorem State.updJ_hostWrites (i : Nat) (f : JEntry → JEntry) : (s.updJ i f).hostWrites = s.hostWrites := rfl
@[simp] theorem State.updJ_msixSent (i : Nat) (f : JEntry → JEntry) : (s.updJ i f).msixSent = s.msixSent := rfl
@[simp] theorem State.updJ_msgSent (i : Nat) (f : JEntry → JEntry) : (s.updJ i f).msgSent = s.msgSent := rfl
@[simp] theorem State.updJ_lastRead (i : Nat) (f : JEntry → JEntry) : (s.updJ i f).lastRead = s.lastRead := rfl
@[simp] theorem State.updJ_released (i : Nat) (f : JEntry → JEntry) : (s.updJ i f).released = s.released := rfl
@[simp] theorem State.updJ_freeCtr (i : Nat) (f : JEntry → JEntry) : (s.updJ i f).freeCtr = s.freeCtr := rfl

/-! ### setReg -/

@[simp] theorem State.setReg_pending (a : Nat) (v : Word) : (s.setReg a v).pending = s.pending := rfl
@[simp] theorem State.setReg_now (a : Nat) (v : Word) : (s.setReg a v).now = s.now := rfl
@[simp] theorem State.setReg_cfg (a : Nat) (v : Word) : (s.setReg a v).cfg = sput shReset s.cfg a v := rfl
@[simp] theorem State.setReg_units (a : Nat) (v : Word) : (s.setReg a v).units = s.units := rfl
@[simp] theorem State.setReg_past (a : Nat) (v : Word) : (s.setReg a v).past = s.past := rfl
@[simp] theorem State.setReg_cp (a : Nat) (v : Word) : (s.setReg a v).cp = s.cp := rfl
@[simp] theorem State.setReg_err (a : Nat) (v : Word) : (s.setReg a v).err = s.err := rfl
@[simp] theorem State.setReg_pwr (a : Nat) (v : Word) : (s.setReg a v).pwr = s.pwr := rfl
@[simp] theorem State.setReg_pcie (a : Nat) (v : Word) : (s.setReg a v).pcie = s.pcie := rfl
@[simp] theorem State.setReg_spr (a : Nat) (v : Word) : (s.setReg a v).spr = s.spr := rfl
@[simp] theorem State.setReg_tb (a : Nat) (v : Word) : (s.setReg a v).tb = s.tb := rfl
@[simp] theorem State.setReg_bcn (a : Nat) (v : Word) : (s.setReg a v).bcn = s.bcn := rfl
@[simp] theorem State.setReg_acq (a : Nat) (v : Word) : (s.setReg a v).acq = s.acq := rfl
@[simp] theorem State.setReg_weir (a : Nat) (v : Word) : (s.setReg a v).weir = s.weir := rfl
@[simp] theorem State.setReg_trg (a : Nat) (v : Word) : (s.setReg a v).trg = s.trg := rfl
@[simp] theorem State.setReg_rsv (a : Nat) (v : Word) : (s.setReg a v).rsv = s.rsv := rfl
@[simp] theorem State.setReg_pond (a : Nat) (v : Word) : (s.setReg a v).pond = s.pond := rfl
@[simp] theorem State.setReg_dma (a : Nat) (v : Word) : (s.setReg a v).dma = s.dma := rfl
@[simp] theorem State.setReg_ltn (a : Nat) (v : Word) : (s.setReg a v).ltn = s.ltn := rfl
@[simp] theorem State.setReg_lamp (a : Nat) (v : Word) : (s.setReg a v).lamp = s.lamp := rfl
@[simp] theorem State.setReg_buoy (a : Nat) (v : Word) : (s.setReg a v).buoy = s.buoy := rfl
@[simp] theorem State.setReg_kpr (a : Nat) (v : Word) : (s.setReg a v).kpr = s.kpr := rfl
@[simp] theorem State.setReg_stby (a : Nat) (v : Word) : (s.setReg a v).stby = s.stby := rfl
@[simp] theorem State.setReg_hostWrites (a : Nat) (v : Word) : (s.setReg a v).hostWrites = s.hostWrites := rfl
@[simp] theorem State.setReg_msixSent (a : Nat) (v : Word) : (s.setReg a v).msixSent = s.msixSent := rfl
@[simp] theorem State.setReg_msgSent (a : Nat) (v : Word) : (s.setReg a v).msgSent = s.msgSent := rfl
@[simp] theorem State.setReg_lastRead (a : Nat) (v : Word) : (s.setReg a v).lastRead = s.lastRead := rfl
@[simp] theorem State.setReg_released (a : Nat) (v : Word) : (s.setReg a v).released = s.released := rfl
@[simp] theorem State.setReg_freeCtr (a : Nat) (v : Word) : (s.setReg a v).freeCtr = s.freeCtr := rfl

/-! ### rsvWrite -/

@[simp] theorem State.rsvWrite_pending (a : Nat) (bs : List Byte) : (s.rsvWrite a bs).pending = s.pending := rfl
@[simp] theorem State.rsvWrite_now (a : Nat) (bs : List Byte) : (s.rsvWrite a bs).now = s.now := rfl
@[simp] theorem State.rsvWrite_cfg (a : Nat) (bs : List Byte) : (s.rsvWrite a bs).cfg = s.cfg := rfl
@[simp] theorem State.rsvWrite_units (a : Nat) (bs : List Byte) : (s.rsvWrite a bs).units = s.units := rfl
@[simp] theorem State.rsvWrite_past (a : Nat) (bs : List Byte) : (s.rsvWrite a bs).past = s.past := rfl
@[simp] theorem State.rsvWrite_cp (a : Nat) (bs : List Byte) : (s.rsvWrite a bs).cp = s.cp := rfl
@[simp] theorem State.rsvWrite_err (a : Nat) (bs : List Byte) : (s.rsvWrite a bs).err = s.err := rfl
@[simp] theorem State.rsvWrite_pwr (a : Nat) (bs : List Byte) : (s.rsvWrite a bs).pwr = s.pwr := rfl
@[simp] theorem State.rsvWrite_pcie (a : Nat) (bs : List Byte) : (s.rsvWrite a bs).pcie = s.pcie := rfl
@[simp] theorem State.rsvWrite_spr (a : Nat) (bs : List Byte) : (s.rsvWrite a bs).spr = s.spr := rfl
@[simp] theorem State.rsvWrite_tb (a : Nat) (bs : List Byte) : (s.rsvWrite a bs).tb = s.tb := rfl
@[simp] theorem State.rsvWrite_bcn (a : Nat) (bs : List Byte) : (s.rsvWrite a bs).bcn = s.bcn := rfl
@[simp] theorem State.rsvWrite_acq (a : Nat) (bs : List Byte) : (s.rsvWrite a bs).acq = s.acq := rfl
@[simp] theorem State.rsvWrite_weir (a : Nat) (bs : List Byte) : (s.rsvWrite a bs).weir = s.weir := rfl
@[simp] theorem State.rsvWrite_trg (a : Nat) (bs : List Byte) : (s.rsvWrite a bs).trg = s.trg := rfl
@[simp] theorem State.rsvWrite_rsv (a : Nat) (bs : List Byte) : (s.rsvWrite a bs).rsv = { s.rsv with mem := Mem.write s.rsv.mem a bs } := rfl
@[simp] theorem State.rsvWrite_pond (a : Nat) (bs : List Byte) : (s.rsvWrite a bs).pond = s.pond := rfl
@[simp] theorem State.rsvWrite_dma (a : Nat) (bs : List Byte) : (s.rsvWrite a bs).dma = s.dma := rfl
@[simp] theorem State.rsvWrite_ltn (a : Nat) (bs : List Byte) : (s.rsvWrite a bs).ltn = s.ltn := rfl
@[simp] theorem State.rsvWrite_lamp (a : Nat) (bs : List Byte) : (s.rsvWrite a bs).lamp = s.lamp := rfl
@[simp] theorem State.rsvWrite_buoy (a : Nat) (bs : List Byte) : (s.rsvWrite a bs).buoy = s.buoy := rfl
@[simp] theorem State.rsvWrite_kpr (a : Nat) (bs : List Byte) : (s.rsvWrite a bs).kpr = s.kpr := rfl
@[simp] theorem State.rsvWrite_stby (a : Nat) (bs : List Byte) : (s.rsvWrite a bs).stby = s.stby := rfl
@[simp] theorem State.rsvWrite_hostWrites (a : Nat) (bs : List Byte) : (s.rsvWrite a bs).hostWrites = s.hostWrites := rfl
@[simp] theorem State.rsvWrite_msixSent (a : Nat) (bs : List Byte) : (s.rsvWrite a bs).msixSent = s.msixSent := rfl
@[simp] theorem State.rsvWrite_msgSent (a : Nat) (bs : List Byte) : (s.rsvWrite a bs).msgSent = s.msgSent := rfl
@[simp] theorem State.rsvWrite_lastRead (a : Nat) (bs : List Byte) : (s.rsvWrite a bs).lastRead = s.lastRead := rfl
@[simp] theorem State.rsvWrite_released (a : Nat) (bs : List Byte) : (s.rsvWrite a bs).released = s.released := rfl
@[simp] theorem State.rsvWrite_freeCtr (a : Nat) (bs : List Byte) : (s.rsvWrite a bs).freeCtr = s.freeCtr := rfl

/-! ### pondWrite -/

@[simp] theorem State.pondWrite_pending (a : Nat) (bs : List Byte) : (s.pondWrite a bs).pending = s.pending := rfl
@[simp] theorem State.pondWrite_now (a : Nat) (bs : List Byte) : (s.pondWrite a bs).now = s.now := rfl
@[simp] theorem State.pondWrite_cfg (a : Nat) (bs : List Byte) : (s.pondWrite a bs).cfg = s.cfg := rfl
@[simp] theorem State.pondWrite_units (a : Nat) (bs : List Byte) : (s.pondWrite a bs).units = s.units := rfl
@[simp] theorem State.pondWrite_past (a : Nat) (bs : List Byte) : (s.pondWrite a bs).past = s.past := rfl
@[simp] theorem State.pondWrite_cp (a : Nat) (bs : List Byte) : (s.pondWrite a bs).cp = s.cp := rfl
@[simp] theorem State.pondWrite_err (a : Nat) (bs : List Byte) : (s.pondWrite a bs).err = s.err := rfl
@[simp] theorem State.pondWrite_pwr (a : Nat) (bs : List Byte) : (s.pondWrite a bs).pwr = s.pwr := rfl
@[simp] theorem State.pondWrite_pcie (a : Nat) (bs : List Byte) : (s.pondWrite a bs).pcie = s.pcie := rfl
@[simp] theorem State.pondWrite_spr (a : Nat) (bs : List Byte) : (s.pondWrite a bs).spr = s.spr := rfl
@[simp] theorem State.pondWrite_tb (a : Nat) (bs : List Byte) : (s.pondWrite a bs).tb = s.tb := rfl
@[simp] theorem State.pondWrite_bcn (a : Nat) (bs : List Byte) : (s.pondWrite a bs).bcn = s.bcn := rfl
@[simp] theorem State.pondWrite_acq (a : Nat) (bs : List Byte) : (s.pondWrite a bs).acq = s.acq := rfl
@[simp] theorem State.pondWrite_weir (a : Nat) (bs : List Byte) : (s.pondWrite a bs).weir = s.weir := rfl
@[simp] theorem State.pondWrite_trg (a : Nat) (bs : List Byte) : (s.pondWrite a bs).trg = s.trg := rfl
@[simp] theorem State.pondWrite_rsv (a : Nat) (bs : List Byte) : (s.pondWrite a bs).rsv = s.rsv := rfl
@[simp] theorem State.pondWrite_pond (a : Nat) (bs : List Byte) : (s.pondWrite a bs).pond = { s.pond with mem := Mem.write s.pond.mem a bs } := rfl
@[simp] theorem State.pondWrite_dma (a : Nat) (bs : List Byte) : (s.pondWrite a bs).dma = s.dma := rfl
@[simp] theorem State.pondWrite_ltn (a : Nat) (bs : List Byte) : (s.pondWrite a bs).ltn = s.ltn := rfl
@[simp] theorem State.pondWrite_lamp (a : Nat) (bs : List Byte) : (s.pondWrite a bs).lamp = s.lamp := rfl
@[simp] theorem State.pondWrite_buoy (a : Nat) (bs : List Byte) : (s.pondWrite a bs).buoy = s.buoy := rfl
@[simp] theorem State.pondWrite_kpr (a : Nat) (bs : List Byte) : (s.pondWrite a bs).kpr = s.kpr := rfl
@[simp] theorem State.pondWrite_stby (a : Nat) (bs : List Byte) : (s.pondWrite a bs).stby = s.stby := rfl
@[simp] theorem State.pondWrite_hostWrites (a : Nat) (bs : List Byte) : (s.pondWrite a bs).hostWrites = s.hostWrites := rfl
@[simp] theorem State.pondWrite_msixSent (a : Nat) (bs : List Byte) : (s.pondWrite a bs).msixSent = s.msixSent := rfl
@[simp] theorem State.pondWrite_msgSent (a : Nat) (bs : List Byte) : (s.pondWrite a bs).msgSent = s.msgSent := rfl
@[simp] theorem State.pondWrite_lastRead (a : Nat) (bs : List Byte) : (s.pondWrite a bs).lastRead = s.lastRead := rfl
@[simp] theorem State.pondWrite_released (a : Nat) (bs : List Byte) : (s.pondWrite a bs).released = s.released := rfl
@[simp] theorem State.pondWrite_freeCtr (a : Nat) (bs : List Byte) : (s.pondWrite a bs).freeCtr = s.freeCtr := rfl

/-! ### undefine -/

@[simp] theorem State.undefine_pending (a n : Nat) : (s.undefine a n).pending = s.pending := rfl
@[simp] theorem State.undefine_now (a n : Nat) : (s.undefine a n).now = s.now := rfl
@[simp] theorem State.undefine_cfg (a n : Nat) : (s.undefine a n).cfg = s.cfg := rfl
@[simp] theorem State.undefine_units (a n : Nat) : (s.undefine a n).units = s.units := rfl
@[simp] theorem State.undefine_past (a n : Nat) : (s.undefine a n).past = s.past := rfl
@[simp] theorem State.undefine_cp (a n : Nat) : (s.undefine a n).cp = s.cp := rfl
@[simp] theorem State.undefine_err (a n : Nat) : (s.undefine a n).err = s.err := rfl
@[simp] theorem State.undefine_pwr (a n : Nat) : (s.undefine a n).pwr = s.pwr := rfl
@[simp] theorem State.undefine_pcie (a n : Nat) : (s.undefine a n).pcie = s.pcie := rfl
@[simp] theorem State.undefine_spr (a n : Nat) : (s.undefine a n).spr = s.spr := rfl
@[simp] theorem State.undefine_tb (a n : Nat) : (s.undefine a n).tb = s.tb := rfl
@[simp] theorem State.undefine_bcn (a n : Nat) : (s.undefine a n).bcn = s.bcn := rfl
@[simp] theorem State.undefine_acq (a n : Nat) : (s.undefine a n).acq = s.acq := rfl
@[simp] theorem State.undefine_weir (a n : Nat) : (s.undefine a n).weir = s.weir := rfl
@[simp] theorem State.undefine_trg (a n : Nat) : (s.undefine a n).trg = s.trg := rfl
@[simp] theorem State.undefine_rsv (a n : Nat) : (s.undefine a n).rsv = { s.rsv with undef := (a, n) :: subRange a n s.rsv.undef } := rfl
@[simp] theorem State.undefine_pond (a n : Nat) : (s.undefine a n).pond = s.pond := rfl
@[simp] theorem State.undefine_dma (a n : Nat) : (s.undefine a n).dma = s.dma := rfl
@[simp] theorem State.undefine_ltn (a n : Nat) : (s.undefine a n).ltn = s.ltn := rfl
@[simp] theorem State.undefine_lamp (a n : Nat) : (s.undefine a n).lamp = s.lamp := rfl
@[simp] theorem State.undefine_buoy (a n : Nat) : (s.undefine a n).buoy = s.buoy := rfl
@[simp] theorem State.undefine_kpr (a n : Nat) : (s.undefine a n).kpr = s.kpr := rfl
@[simp] theorem State.undefine_stby (a n : Nat) : (s.undefine a n).stby = s.stby := rfl
@[simp] theorem State.undefine_hostWrites (a n : Nat) : (s.undefine a n).hostWrites = s.hostWrites := rfl
@[simp] theorem State.undefine_msixSent (a n : Nat) : (s.undefine a n).msixSent = s.msixSent := rfl
@[simp] theorem State.undefine_msgSent (a n : Nat) : (s.undefine a n).msgSent = s.msgSent := rfl
@[simp] theorem State.undefine_lastRead (a n : Nat) : (s.undefine a n).lastRead = s.lastRead := rfl
@[simp] theorem State.undefine_released (a n : Nat) : (s.undefine a n).released = s.released := rfl
@[simp] theorem State.undefine_freeCtr (a n : Nat) : (s.undefine a n).freeCtr = s.freeCtr := rfl

/-! ### stage1 -/

@[simp] theorem State.stage1_pending (a v : Nat) : (s.stage1 a v).pending = s.pending := rfl
@[simp] theorem State.stage1_now (a v : Nat) : (s.stage1 a v).now = s.now := rfl
@[simp] theorem State.stage1_cfg (a v : Nat) : (s.stage1 a v).cfg = s.cfg := rfl
@[simp] theorem State.stage1_units (a v : Nat) : (s.stage1 a v).units = upd s.units (s.unitOf a) (fun u => { u with staged := kput u.staged a (BitVec.ofNat 32 v) }) := rfl
@[simp] theorem State.stage1_past (a v : Nat) : (s.stage1 a v).past = s.past := rfl
@[simp] theorem State.stage1_cp (a v : Nat) : (s.stage1 a v).cp = { s.cp with stageOrd := (a, s.unitOf a) :: s.cp.stageOrd.filter (fun p => p != (a, s.unitOf a)) } := rfl
@[simp] theorem State.stage1_err (a v : Nat) : (s.stage1 a v).err = s.err := rfl
@[simp] theorem State.stage1_pwr (a v : Nat) : (s.stage1 a v).pwr = s.pwr := rfl
@[simp] theorem State.stage1_pcie (a v : Nat) : (s.stage1 a v).pcie = s.pcie := rfl
@[simp] theorem State.stage1_spr (a v : Nat) : (s.stage1 a v).spr = s.spr := rfl
@[simp] theorem State.stage1_tb (a v : Nat) : (s.stage1 a v).tb = s.tb := rfl
@[simp] theorem State.stage1_bcn (a v : Nat) : (s.stage1 a v).bcn = s.bcn := rfl
@[simp] theorem State.stage1_acq (a v : Nat) : (s.stage1 a v).acq = s.acq := rfl
@[simp] theorem State.stage1_weir (a v : Nat) : (s.stage1 a v).weir = s.weir := rfl
@[simp] theorem State.stage1_trg (a v : Nat) : (s.stage1 a v).trg = s.trg := rfl
@[simp] theorem State.stage1_rsv (a v : Nat) : (s.stage1 a v).rsv = s.rsv := rfl
@[simp] theorem State.stage1_pond (a v : Nat) : (s.stage1 a v).pond = s.pond := rfl
@[simp] theorem State.stage1_dma (a v : Nat) : (s.stage1 a v).dma = s.dma := rfl
@[simp] theorem State.stage1_ltn (a v : Nat) : (s.stage1 a v).ltn = s.ltn := rfl
@[simp] theorem State.stage1_lamp (a v : Nat) : (s.stage1 a v).lamp = s.lamp := rfl
@[simp] theorem State.stage1_buoy (a v : Nat) : (s.stage1 a v).buoy = s.buoy := rfl
@[simp] theorem State.stage1_kpr (a v : Nat) : (s.stage1 a v).kpr = s.kpr := rfl
@[simp] theorem State.stage1_stby (a v : Nat) : (s.stage1 a v).stby = s.stby := rfl
@[simp] theorem State.stage1_hostWrites (a v : Nat) : (s.stage1 a v).hostWrites = s.hostWrites := rfl
@[simp] theorem State.stage1_msixSent (a v : Nat) : (s.stage1 a v).msixSent = s.msixSent := rfl
@[simp] theorem State.stage1_msgSent (a v : Nat) : (s.stage1 a v).msgSent = s.msgSent := rfl
@[simp] theorem State.stage1_lastRead (a v : Nat) : (s.stage1 a v).lastRead = s.lastRead := rfl
@[simp] theorem State.stage1_released (a v : Nat) : (s.stage1 a v).released = s.released := rfl
@[simp] theorem State.stage1_freeCtr (a v : Nat) : (s.stage1 a v).freeCtr = s.freeCtr := rfl

/-! ### latch -/

@[simp] theorem State.latch_pending (a : Nat) (v : Word) : (s.latch a v).pending = s.pending := rfl
@[simp] theorem State.latch_now (a : Nat) (v : Word) : (s.latch a v).now = s.now := rfl
@[simp] theorem State.latch_cfg (a : Nat) (v : Word) : (s.latch a v).cfg = s.cfg := rfl
@[simp] theorem State.latch_units (a : Nat) (v : Word) : (s.latch a v).units = s.units := rfl
@[simp] theorem State.latch_past (a : Nat) (v : Word) : (s.latch a v).past = s.past := rfl
@[simp] theorem State.latch_cp (a : Nat) (v : Word) : (s.latch a v).cp = s.cp := rfl
@[simp] theorem State.latch_err (a : Nat) (v : Word) : (s.latch a v).err = s.err := rfl
@[simp] theorem State.latch_pwr (a : Nat) (v : Word) : (s.latch a v).pwr = { s.pwr with latched := s.pwr.latched ++ [{ addr := a, val := v }] } := rfl
@[simp] theorem State.latch_pcie (a : Nat) (v : Word) : (s.latch a v).pcie = s.pcie := rfl
@[simp] theorem State.latch_spr (a : Nat) (v : Word) : (s.latch a v).spr = s.spr := rfl
@[simp] theorem State.latch_tb (a : Nat) (v : Word) : (s.latch a v).tb = s.tb := rfl
@[simp] theorem State.latch_bcn (a : Nat) (v : Word) : (s.latch a v).bcn = s.bcn := rfl
@[simp] theorem State.latch_acq (a : Nat) (v : Word) : (s.latch a v).acq = s.acq := rfl
@[simp] theorem State.latch_weir (a : Nat) (v : Word) : (s.latch a v).weir = s.weir := rfl
@[simp] theorem State.latch_trg (a : Nat) (v : Word) : (s.latch a v).trg = s.trg := rfl
@[simp] theorem State.latch_rsv (a : Nat) (v : Word) : (s.latch a v).rsv = s.rsv := rfl
@[simp] theorem State.latch_pond (a : Nat) (v : Word) : (s.latch a v).pond = s.pond := rfl
@[simp] theorem State.latch_dma (a : Nat) (v : Word) : (s.latch a v).dma = s.dma := rfl
@[simp] theorem State.latch_ltn (a : Nat) (v : Word) : (s.latch a v).ltn = s.ltn := rfl
@[simp] theorem State.latch_lamp (a : Nat) (v : Word) : (s.latch a v).lamp = s.lamp := rfl
@[simp] theorem State.latch_buoy (a : Nat) (v : Word) : (s.latch a v).buoy = s.buoy := rfl
@[simp] theorem State.latch_kpr (a : Nat) (v : Word) : (s.latch a v).kpr = s.kpr := rfl
@[simp] theorem State.latch_stby (a : Nat) (v : Word) : (s.latch a v).stby = s.stby := rfl
@[simp] theorem State.latch_hostWrites (a : Nat) (v : Word) : (s.latch a v).hostWrites = s.hostWrites := rfl
@[simp] theorem State.latch_msixSent (a : Nat) (v : Word) : (s.latch a v).msixSent = s.msixSent := rfl
@[simp] theorem State.latch_msgSent (a : Nat) (v : Word) : (s.latch a v).msgSent = s.msgSent := rfl
@[simp] theorem State.latch_lastRead (a : Nat) (v : Word) : (s.latch a v).lastRead = s.lastRead := rfl
@[simp] theorem State.latch_released (a : Nat) (v : Word) : (s.latch a v).released = s.released := rfl
@[simp] theorem State.latch_freeCtr (a : Nat) (v : Word) : (s.latch a v).freeCtr = s.freeCtr := rfl

end Sys2Proof.Machine
end

