-- ==== Sys2Proof/Laws/Run.lean ====
section
/-! SUPPORT. What the shared operations do, said once: the run of a command, a DMA instruction, interrupts and the log. -/

namespace Sys2Proof.Machine

/-! ### Running a command -/

/-- A command whose packet is good runs its body, Keeper allowing it. -/
theorem runCmdSel_next {s : State} {q op : Nat} {e : JEntry} {mine pre : Packet → Bool} {spans : List (Nat × Nat)} {body : State → JEntry → CmdOut}
    (h : CmdReady s q op e) (hm : mine e.pkt = true) (hp : PktGood e spans pre) (hk : keeperRefuses op = false ∨ s.kpr.alarm = .clear) :
    runCmdSel s q op mine spans pre body = .next (s.conclude e (awaitStart s e body)) := by
  obtain ⟨h1, h2, h3, h4, _⟩ := h
  obtain ⟨h5, h6⟩ := hp
  unfold runCmdSel
  rw [h1]
  simp only [h2, h3, h4, hm, h5, h6]
  rcases hk with hk | hk <;> simp [hk]

theorem awaitStart_of_not_state {s : State} {e : JEntry} {body : State → JEntry → CmdOut} (h : (body s e).isState = false) :
    awaitStart s e body = body s e := by unfold awaitStart; simp [h]

theorem awaitStart_of_started {s : State} {e : JEntry} {body : State → JEntry → CmdOut} (h : s.pwr.starting = false) :
    awaitStart s e body = body s e := by unfold awaitStart; simp [h]

/-- A command whose change list fits ends with its micro-commit (R288). -/
theorem State.conclude_done {s t : State} {e : JEntry} {st : Nat} {r : List Byte} (h : s.logRoom e = true) :
    s.conclude e (.done t st r) = t.finish e.idx st r := by simp [State.conclude, h]

/-- A command that ends with a status other than OK changes nothing, so no room is asked (R288). -/
theorem State.conclude_refused {s t : State} {e : JEntry} {st : Nat} {r : List Byte} (h : st ≠ OK) :
    s.conclude e (.done t st r) = t.finish e.idx st r := by simp [State.conclude, h]

/-- A body that ends the command ends it. -/
theorem runCmdSel_done {s t : State} {q op st : Nat} {e : JEntry} {mine pre : Packet → Bool} {spans : List (Nat × Nat)}
    {body : State → JEntry → CmdOut} {r : List Byte}
    (h : CmdReady s q op e) (hm : mine e.pkt = true) (hp : PktGood e spans pre) (hk : keeperRefuses op = false ∨ s.kpr.alarm = .clear)
    (hb : body s e = .done t st r) (hs : st ≠ STATE ∨ s.pwr.starting = false) :
    runCmdSel s q op mine spans pre body = .next (t.finish e.idx st r) := by
  rw [runCmdSel_next h hm hp hk]
  rcases hs with hs | hs
  · rw [awaitStart_of_not_state (by rw [hb]; simp [CmdOut.isState, hs]), hb, State.conclude_done h.room]
  · rw [awaitStart_of_started hs, hb, State.conclude_done h.room]

/-- A body that waits leaves the command waiting. -/
theorem runCmdSel_wait {s t : State} {q op : Nat} {e : JEntry} {mine pre : Packet → Bool} {spans : List (Nat × Nat)}
    {body : State → JEntry → CmdOut} {w : Wait} {acc : Option (List Byte)}
    (h : CmdReady s q op e) (hm : mine e.pkt = true) (hp : PktGood e spans pre) (hk : keeperRefuses op = false ∨ s.kpr.alarm = .clear)
    (hb : body s e = .wait t w acc) : runCmdSel s q op mine spans pre body = .next (t.waitsFor e w acc) := by
  rw [runCmdSel_next h hm hp hk, awaitStart_of_not_state (by rw [hb]; rfl), hb]; rfl

theorem runCmd_done {s t : State} {q op st : Nat} {e : JEntry} {pre : Packet → Bool} {spans : List (Nat × Nat)} {body : State → JEntry → CmdOut}
    {r : List Byte} (h : CmdReady s q op e) (hp : PktGood e spans pre) (hk : keeperRefuses op = false ∨ s.kpr.alarm = .clear)
    (hb : body s e = .done t st r) (hs : st ≠ STATE ∨ s.pwr.starting = false) :
    runCmd s q op spans pre body = .next (t.finish e.idx st r) := runCmdSel_done h rfl hp hk hb hs

theorem runCmd_wait {s t : State} {q op : Nat} {e : JEntry} {pre : Packet → Bool} {spans : List (Nat × Nat)} {body : State → JEntry → CmdOut}
    {w : Wait} {acc : Option (List Byte)} (h : CmdReady s q op e) (hp : PktGood e spans pre)
    (hk : keeperRefuses op = false ∨ s.kpr.alarm = .clear) (hb : body s e = .wait t w acc) :
    runCmd s q op spans pre body = .next (t.waitsFor e w acc) := runCmdSel_wait h rfl hp hk hb

/-- A packet that is not good ends its command with PARAM_RANGE (R300). -/
theorem runCmdSel_bad {s : State} {q op : Nat} {e : JEntry} {mine pre : Packet → Bool} {spans : List (Nat × Nat)} {body : State → JEntry → CmdOut}
    (h : CmdReady s q op e) (hm : mine e.pkt = true) (hp : ¬ PktGood e spans pre) :
    runCmdSel s q op mine spans pre body = .next (s.finish e.idx PARAM_RANGE []) := by
  obtain ⟨h1, h2, h3, h4, h5⟩ := h
  have : (pktOk e.pkt spans && pre e.pkt) = false := by
    unfold PktGood at hp
    cases ha : pktOk e.pkt spans <;> cases hb : pre e.pkt <;> simp_all
  unfold runCmdSel
  rw [h1]
  simp only [h2, h3, h4, hm, this]
  simp [refuse, State.conclude_done h5]

theorem runCmd_bad {s : State} {q op : Nat} {e : JEntry} {pre : Packet → Bool} {spans : List (Nat × Nat)} {body : State → JEntry → CmdOut}
    (h : CmdReady s q op e) (hp : ¬ PktGood e spans pre) : runCmd s q op spans pre body = .next (s.finish e.idx PARAM_RANGE []) :=
  runCmdSel_bad h rfl hp

/-! ### A DMA instruction -/

/-- The row whose instruction is at PC runs it. -/
theorem dmaRow_ready {s : State} {c : Nat} {x : DmaCh} {i : DmaIns} {p : DmaIns → Bool} {f : State → DmaCh → DmaIns → State}
    (h : DmaReady s c x i) (hp : p i = true) : dmaRow s c p f = .next (f s x i).dmaPump := by
  obtain ⟨h1, h2, h3⟩ := h
  simp [dmaRow, h1, h2, h3, hp]

/-- Changing an element of a bank depends on the element alone. -/
theorem upd_congr {α : Type} {f g : α → α} : ∀ (l : List α) (n : Nat), (∀ y, l[n]? = some y → f y = g y) → upd l n f = upd l n g
  | [], n, _ => by simp [upd]
  | a :: l, 0, hn => by simp [upd]; exact hn a rfl
  | a :: l, n + 1, hn => by
    have := upd_congr l n (fun y hy => hn y (by simpa using hy))
    simpa [upd] using this

/-- A change of a DMA channel depends on the channel alone. -/
theorem State.updDma_congr {s : State} {c : Nat} {x : DmaCh} {f g : DmaCh → DmaCh} (hx : nth s.dma.ch c = x) (hfg : f x = g x) :
    s.updDma c f = s.updDma c g := by
  simp only [State.updDma]
  rw [upd_congr]
  intro y hy
  have : y = x := by rw [← hx]; simp [nth, List.getD, hy]
  rw [this, hfg]

/-! ### Interrupts and the log -/

/-- A wake of the link touches its state and the count of retrainings alone (R364, R382). -/
theorem Pcie.wake_frame (p : Pcie) : p.wake = { p with link := p.wake.link, retrainCnt := p.wake.retrainCnt } := by
  unfold Pcie.wake; split <;> rfl

/-- A signal touches the pending bits, the link that its message wakes, and the messages sent alone. -/
theorem State.signal_frame (s : State) (v : Nat) :
    s.signal v = { s with pcie := { s.pcie with pba := (s.signal v).pcie.pba, link := (s.signal v).pcie.link,
                                                retrainCnt := (s.signal v).pcie.retrainCnt },
                          msixSent := (s.signal v).msixSent } := by
  unfold State.signal; split
  · rfl
  · split
    · unfold State.sendMsix State.tlp; rw [Pcie.wake_frame]
    · rfl

/-- Raising a global interrupt bit sets it and may signal its vector. -/
theorem State.raiseGlb_frame (s : State) (b : Nat) :
    s.raiseGlb b = { s with pcie := { s.pcie with irqStat := (s.raiseGlb b).pcie.irqStat, pba := (s.raiseGlb b).pcie.pba,
                                                  link := (s.raiseGlb b).pcie.link, retrainCnt := (s.raiseGlb b).pcie.retrainCnt },
                            msixSent := (s.raiseGlb b).msixSent } ∧ bit (s.raiseGlb b).pcie.irqStat b = true := by
  have key : bit (s.pcie.irqStat ||| 2 ^ b) b = true := by simp [bit, Nat.testBit_or, Nat.testBit_two_pow_self]
  unfold State.raiseGlb
  split
  · rename_i h; exact ⟨rfl, h⟩
  · dsimp only
    split
    · rw [State.signal_frame]; exact ⟨rfl, key⟩
    · exact ⟨rfl, key⟩

/-- A message touches the link it wakes and the messages sent alone. -/
theorem State.message_frame (s : State) (k : MsgKind) : s.message k = { s with pcie := (s.message k).pcie, msgSent := (s.message k).msgSent } := by
  unfold State.message; split <;> rfl

/-- The report of an uncorrectable error touches the function's status and the messages sent alone (R374). -/
theorem State.uncReport_frame (s : State) (b : Nat) :
    s.uncReport b false = { s with pcie := (s.uncReport b false).pcie, msgSent := (s.uncReport b false).msgSent } := by
  have h := fun k => State.message_frame (s.updPcie (fun p => { p with cfg := { p.cfg with aerStatus := p.cfg.aerStatus ||| 2 ^ b } })) k
  simp only [State.uncReport, Bool.false_and, Bool.false_eq_true, if_false]
  repeat' split
  all_goals first | rfl | (rw [h]; rfl)

/-- A detection touches the log, the function's interrupt, error and link state, and the messages sent alone. -/
theorem State.logK_frame (s : State) (cls blk code inst detail : Nat) (kpr : Option Nat) :
    s.logK cls blk code inst detail kpr =
      { s with err := s.err.detect cls blk code inst detail s.tb.count kpr, pcie := (s.logK cls blk code inst detail kpr).pcie,
               msixSent := (s.logK cls blk code inst detail kpr).msixSent, msgSent := (s.logK cls blk code inst detail kpr).msgSent } := by
  obtain ⟨p, m, h⟩ : ∃ p m, ({ s with err := s.err.detect cls blk code inst detail s.tb.count kpr } : State).raiseGlb 0 =
      { s with err := s.err.detect cls blk code inst detail s.tb.count kpr, pcie := p, msixSent := m } :=
    ⟨_, _, (State.raiseGlb_frame _ 0).1⟩
  have hu := fun t : State => State.uncReport_frame t 22
  unfold State.logK
  dsimp only
  rw [h]
  split <;> split
  all_goals first | rfl | (rw [hu])

end Sys2Proof.Machine
end

