-- ==== Sys2Proof/Machine/ConfigSpace.lean ====
section
/-! DEFINITION. PCI configuration space: what the header reads, and where the capability structures lie (R361 to R363). -/

namespace Sys2Proof.Machine

/-- A BAR's pair of dwords: its address with the attribute bits of a 64-bit memory BAR (PRESUMED: the PCI header's own bits,
notes/assumptions/101.md). -/
def barWord (addr : BitVec 64) (prefetch high : Bool) : Nat :=
  if high then hi32 addr.toNat else lo32 addr.toNat - lo32 addr.toNat % 16 + 4 + 8 * b2n prefetch

/-- The dword at an offset of the configuration header (R361); what the manual does not name reads 0. -/
def State.cfgHeader (s : State) (o : Nat) : Nat :=
  let c := s.pcie.cfg
  if o = 0x00 then 0x1F4B + 2 ^ 16 * 0xA128
  else if o = 0x04 then 2 * b2n c.memSpace + 4 * b2n c.busMaster + 2 ^ 20
  else if o = 0x08 then 2 ^ 8 * 0x118000
  else if o = 0x10 then barWord c.bar0 false false
  else if o = 0x14 then barWord c.bar0 false true
  else if o = 0x18 then barWord c.bar2 true false
  else if o = 0x1C then barWord c.bar2 true true
  else if o = 0x2C then s.pcie.subsysVid + 2 ^ 16 * s.pcie.subsysId
  else if o = 0x34 then 0x40
  else 0

/-- Capability structures (R362). -/
inductive Cap where
  | power | msix | pcie | aer | serial | secondary | dataLink | phy16 | phy32 | phy64 | margining | ptm | l1sub | device3 | flitLog
  deriving DecidableEq, Repr

/-- Offset and size of a capability structure (R362). -/
def Cap.place : Cap → Nat × Nat
  | .power => (0x040, 8) | .msix => (0x050, 12) | .pcie => (0x070, 60) | .aer => (0x100, 72) | .serial => (0x148, 12)
  | .secondary => (0x158, 20) | .dataLink => (0x170, 12) | .phy16 => (0x180, 36) | .phy32 => (0x1B0, 48) | .phy64 => (0x1E0, 16)
  | .margining => (0x1F0, 24) | .ptm => (0x210, 12) | .l1sub => (0x220, 20) | .device3 => (0x240, 16) | .flitLog => (0x250, 24)

/-- A capability's ID in its list; those from 0x100 on are extended ones. -/
def Cap.id : Cap → Nat
  | .power => 0x01 | .msix => 0x11 | .pcie => 0x10 | .aer => 0x0001 | .serial => 0x0003 | .secondary => 0x0019 | .dataLink => 0x0025
  | .phy16 => 0x0026 | .phy32 => 0x002A | .phy64 => 0x0031 | .margining => 0x0027 | .ptm => 0x001F | .l1sub => 0x001E | .device3 => 0x002F
  | .flitLog => 0x0032

/-- The structures in the order of their offsets. -/
def Cap.all : List Cap :=
  [.power, .msix, .pcie, .aer, .serial, .secondary, .dataLink, .phy16, .phy32, .phy64, .margining, .ptm, .l1sub, .device3, .flitLog]

/-- The structure that holds an offset. -/
def Cap.holding (o : Nat) : Option Cap := Cap.all.find? (fun c => decide (c.place.1 ≤ o ∧ o < c.place.1 + c.place.2))

/-- The first offset of the next structure of the same list, 0 for the last. -/
def Cap.next (c : Cap) : Nat :=
  ((Cap.all.map (fun d => d.place.1)).find? (fun a => decide (c.place.1 < a) && decide (a < 0x100) == decide (c.place.1 < 0x100))).getD 0

/-- What the PCI Express capability and its neighbours report (R357, R359, R362, R363). -/
structure PcieCaps where
  mpsSupported : Nat := 512
  /-- Read Completion Boundary in bytes. -/
  rcb : Nat := 64
  /-- Exit latency of L1 in microseconds: from, and less than. -/
  l1ExitUs : Nat × Nat := (8, 16)
  /-- Completion Timeout Ranges A to D, and its disabling. -/
  cplRanges : Nat := 15
  cplDisable : Bool := true
  pmVersion : Nat := 3
  scaledFlowControl : Bool := true
  /-- Lanes that margin at the receiver. -/
  marginLanes : Nat := 4
  ptmGranularity : Nat := 0
  /-- L1.1 entered by software, and by ASPM; L1.2 in neither way. -/
  l11 : Bool := true
  aspmL11 : Bool := true
  l12 : Bool := false
  maxSpeed : Nat := 6
  maxWidth : Nat := 4
  l1AcceptableUs : Nat := 64
  flrCapable : Bool := true
  extTag : Bool := true
  tag10 : Bool := true
  flitMode : Bool := true
  /-- ASPM: L1 alone. -/
  aspmL0s : Bool := false
  aspmL1 : Bool := true
  surpriseDown : Bool := false
  linkActiveReporting : Bool := false
  msixVectors : Nat := 64
  msixTable : Nat := 0x800
  msixPba : Nat := 0xC00
  ptmRequester : Bool := true
  ptmResponder : Bool := false
  ptmRoot : Bool := false
  /-- The function supports D0 and D3hot, with No_Soft_Reset and PME from D3hot. -/
  noSoftReset : Bool := true
  pmeFromD3hot : Bool := true
  deriving DecidableEq, Repr

/-- The part's own report (R362, R363). -/
def pcieCaps : PcieCaps := {}

/-! ### Capability dwords (R357 to R365, R374, R375)

The manual gives the values; their places are those of the PCI Express Base Specification (PRESUMED, notes/assumptions/101.md). What the
manual does not name reads 0. -/

/-- log2 of a size in bytes over 128. -/
def sizeCode (n : Nat) : Nat := [128, 256, 512, 1024, 2048, 4096].findIdx (· == n)

/-- The code of a completion timeout in microseconds: the shortest range whose upper end reaches it. -/
def timeoutCode (us : Nat) : Nat :=
  if us = 0 || us = 50000 then 0
  else match [(100, 1), (10000, 2), (55000, 5), (210000, 6), (900000, 9), (3500000, 10), (13000000, 13)].find? (fun r => decide (us ≤ r.1)) with
    | some r => r.2
    | none => 14

/-- Power Management's two dwords. -/
def State.powerCap (s : State) (o : Nat) : Nat :=
  let c := s.pcie.cfg
  if o = 0 then bf [(18, 16, pcieCaps.pmVersion), (30, 30, b2n pcieCaps.pmeFromD3hot)]
  else bf [(1, 0, if c.d3hot then 3 else 0), (3, 3, b2n pcieCaps.noSoftReset), (8, 8, b2n c.pmeEn), (15, 15, b2n c.pmeStatus)]

/-- MSI-X's three dwords: Table Size 63, the table and the PBA in BAR0. -/
def State.msixCap (s : State) (o : Nat) : Nat :=
  if o = 0 then bf [(26, 16, pcieCaps.msixVectors - 1), (30, 30, b2n s.pcie.cfg.funcMask), (31, 31, b2n s.pcie.cfg.msixEnable)]
  else if o = 4 then pcieCaps.msixTable
  else pcieCaps.msixPba

/-- The PCI Express capability (R363): Version 2, an endpoint. -/
def State.expressCap (s : State) (o : Nat) : Nat :=
  let c := s.pcie.cfg
  let p := s.pcie
  if o = 0 then bf [(19, 16, 2), (31, 31, b2n pcieCaps.flitMode)]
  else if o = 4 then bf [(2, 0, sizeCode pcieCaps.mpsSupported), (5, 5, b2n pcieCaps.extTag), (11, 9, 6), (15, 15, 1), (28, 28, b2n pcieCaps.flrCapable)]
  else if o = 8 then bf [(3, 0, c.errEn), (7, 5, sizeCode c.mps), (8, 8, b2n c.extTag), (14, 12, sizeCode c.mrrs)]
  else if o = 0xC then
    bf [(3, 0, pcieCaps.maxSpeed), (9, 4, pcieCaps.maxWidth), (11, 10, b2n pcieCaps.aspmL0s + 2 * b2n pcieCaps.aspmL1), (17, 15, 4),
        (19, 19, b2n pcieCaps.surpriseDown), (20, 20, b2n pcieCaps.linkActiveReporting)]
  else if o = 0x10 then bf [(1, 0, c.aspm), (19, 16, p.gen), (25, 20, 2 ^ p.width)]
  else if o = 0x24 then bf [(3, 0, pcieCaps.cplRanges), (4, 4, b2n pcieCaps.cplDisable), (16, 16, b2n pcieCaps.tag10), (17, 17, b2n pcieCaps.tag10)]
  else if o = 0x28 then bf [(3, 0, timeoutCode c.cplTimeout), (4, 4, b2n (c.cplTimeout == 0)), (12, 12, b2n c.tag10)]
  else if o = 0x2C then bf [(7, 1, 2 ^ pcieCaps.maxSpeed - 1)]
  else 0

/-- AER: status, mask and severity, and ECRC (R374, R375). -/
def State.aerCap (s : State) (o : Nat) : Nat :=
  let c := s.pcie.cfg
  if o = 4 then c.aerStatus else if o = 8 then c.aerMask else if o = 0xC then c.aerSev else if o = 0x10 then c.aerCor else if o = 0x14 then c.corMask
  else if o = 0x18 then bf [(5, 5, 1), (6, 6, b2n c.ecrcGen), (7, 7, 1), (8, 8, b2n c.ecrcChk)]
  else 0

/-- What a structure holds past its header, o bytes from its start. -/
def State.capBody (s : State) (k : Cap) (o : Nat) : Nat :=
  match k with
  | .power => s.powerCap o
  | .msix => s.msixCap o
  | .pcie => s.expressCap o
  | .aer => s.aerCap o
  | .serial => if o = 4 then lo32 Config.dieId.toNat else if o = 8 then hi32 Config.dieId.toNat else 0
  | .dataLink => if o = 4 then b2n pcieCaps.scaledFlowControl else 0
  | .ptm =>
    if o = 4 then bf [(0, 0, b2n pcieCaps.ptmRequester), (1, 1, b2n pcieCaps.ptmResponder), (2, 2, b2n pcieCaps.ptmRoot), (15, 8, pcieCaps.ptmGranularity)]
    else if o = 8 then b2n s.pcie.cfg.ptmEn
    else 0
  | .l1sub =>
    if o = 4 then bf [(0, 0, b2n pcieCaps.l12), (1, 1, b2n pcieCaps.l11), (2, 2, b2n pcieCaps.l12), (3, 3, b2n pcieCaps.aspmL11), (4, 4, 1)]
    else if o = 8 then bf [(1, 1, fld s.pcie.cfg.l1sub 0 0), (3, 3, fld s.pcie.cfg.l1sub 1 1)]
    else 0
  | .secondary | .phy16 | .phy32 | .phy64 | .margining | .device3 | .flitLog => 0

/-- The dword at an offset of configuration space (R361, R362). -/
def State.cfgDword (s : State) (o : Nat) : Nat :=
  if o < 0x40 then s.cfgHeader o
  else match Cap.holding o with
    | none => 0
    | some k =>
      let rel := o - k.place.1
      let head := if rel ≠ 0 then 0 else if o < 0x100 then k.id + 2 ^ 8 * k.next else k.id + 2 ^ 16 + 2 ^ 20 * k.next
      head + s.capBody k rel

end Sys2Proof.Machine
end

