-- ==== Sys2Proof/Machine/Package.lean ====
section
/-! DEFINITION. The ball array (R478 to R481): what each of the 52 × 52 balls carries. -/

namespace Sys2Proof.Machine

/-- Differential pairs (R480). -/
inductive BallPair where
  | input (n : Nat)
  | pcieTx (k : Nat) | pcieRx (k : Nat) | pcieRefclk
  | dpTx (d k : Nat) | dpAux (d : Nat)
  | refIn | ppsIn | ppsOut | trigIn (i : Nat) | trigOut (i : Nat) | clkOut (k : Nat) | bcnTx (p : Nat) | bcnRx (p : Nat)
  deriving DecidableEq, Repr

/-- Single-ended signals (R480). -/
inductive BallPin where
  | perstN | wakeN | dpHpd (d : Nat)
  | lampRowN (r : Nat) | lampCol (c : Nat) | lampSync | auxIn (i : Nat) | ntcIn (i : Nat)
  | resetN | ready | alarmN | lidSense | tck | tms | tdi | tdo | trstN
  | flashSck | flashCsN | flashIo (i : Nat)
  deriving DecidableEq, Repr

/-- Supplies with balls (R479). -/
inductive Supply where
  | core | hbm | afe | phy | pll | io | aon
  deriving DecidableEq, Repr

/-- What a ball carries: one leg of a pair (`neg` the N leg), a single signal, ground, a supply, or nothing that is used. -/
inductive Ball where
  | leg (p : BallPair) (neg : Bool)
  | pin (p : BallPin)
  | gnd
  | supply (s : Supply)
  | reserved
  deriving DecidableEq, Repr

/-- First channel of an analogue input row; none for a ground row (R480). -/
def inputRow (r : Nat) : Option Nat :=
  if r = 1 then some 0 else if r = 3 then some 16 else if r = 4 then some 32 else if r = 6 then some 48
  else if r = 52 then some 64 else if r = 50 then some 80 else if r = 49 then some 96 else if r = 47 then some 112 else none

/-- Analogue input fields, rows 01–06 and 47–52 (R480). -/
def inputBall (r c : Nat) : Ball :=
  match inputRow r with
  | none => .gnd
  | some n => if 49 ≤ c || c % 3 = 1 then .gnd else .leg (.input (n + (c - 1) / 3)) (c % 3 == 0)

/-- PCI Express group, rows 07–26, columns 01–04 (R480). -/
def pcieBall (r c : Nat) : Ball :=
  if c = 1 || (c = 4 && 19 ≤ r) then .gnd
  else if c = 4 then .supply .phy
  else if r = 26 then .pin (if c = 2 then .perstN else .wakeN)
  else if r % 2 = 1 then .gnd
  else
    let p : BallPair := if r ≤ 14 then .pcieTx ((r - 8) / 2) else if r ≤ 22 then .pcieRx ((r - 16) / 2) else .pcieRefclk
    .leg p (c == 3)

/-- DisplayPort group, rows 27–46, columns 01–04 (R480). -/
def dpBall (r c : Nat) : Ball :=
  if c = 1 || (c = 4 && 39 ≤ r) then .gnd
  else if c = 4 then .supply .phy
  else if r = 46 then .pin (.dpHpd (c - 2))
  else if r % 2 = 0 then .gnd
  else
    let k := (r - 27) / 2
    .leg (if k % 5 = 4 then .dpAux (k / 5) else .dpTx (k / 5) (k % 5)) (c == 3)

/-- Timing group, rows 07–26, columns 49–52 (R480). -/
def timingBall (r c : Nat) : Ball :=
  if c = 52 || (c = 49 && 15 ≤ r) || r = 8 && c ≠ 49 then .gnd
  else if c = 49 then .supply .io
  else
    let p : BallPair :=
      if r = 7 then .refIn else if r = 9 then .ppsIn else if r = 10 then .ppsOut
      else if r ≤ 12 then .trigIn (r - 11) else if r ≤ 14 then .trigOut (r - 13) else if r ≤ 18 then .clkOut (r - 15)
      else if r % 2 = 1 then .bcnTx ((r - 19) / 2) else .bcnRx ((r - 19) / 2)
    .leg p (c == 51)

/-- Column 51 of the control group from row 31 on, and the flash pins (R480). -/
def controlPin (k : Nat) : BallPin :=
  ([.lampSync, .ntcIn 0, .ntcIn 1, .resetN, .ready, .alarmN, .lidSense, .tck, .tms, .tdi, .tdo, .trstN, .flashSck, .flashCsN,
    .flashIo 0, .flashIo 1] : List BallPin).getD k .lampSync

/-- Control group, rows 27–46, columns 49–52 (R480). -/
def controlBall (r c : Nat) : Ball :=
  let k := r - 27
  if c = 49 then .pin (if k < 16 then .lampRowN k else .auxIn (k - 16))
  else if c = 50 then .pin (.lampCol k)
  else if c = 51 then .pin (if k < 4 then .lampCol (20 + k) else controlPin (k - 4))
  else if k < 6 then .supply .io
  else if k < 18 then .gnd
  else .pin (.flashIo (k - 16))

/-- Supply field, rows 07–46, columns 05–48 (R480). -/
def supplyBall (r c : Nat) : Ball :=
  if r = 7 || r = 9 || r = 44 || r = 46 then .supply .afe
  else if r = 8 || r = 45 then (if c = 5 || c = 48 then .supply .afe else .gnd)
  else if c = 5 then (if r ≤ 15 then .supply .phy else .gnd)
  else if c = 6 then .supply .phy
  else if c = 47 then (if r ≤ 25 then .supply .io else if r ≤ 33 then .supply .aon else .gnd)
  else if c = 48 then (if r ≤ 33 then .supply .pll else .gnd)
  else if c ≤ 14 then (if c % 2 = 1 then .gnd else .supply .hbm)
  else if 39 ≤ c then (if c % 2 = 0 then .gnd else .supply .hbm)
  else if c % 2 = 1 then .supply .core
  else if c = 26 || c = 28 then
    (if r ≤ 25 then .supply .core else if r ≤ 35 then .reserved else if c = 26 then .gnd else .supply .hbm)
  else .gnd

/-- The ball at row r, column c, both from 1 to 52 (R7, R478 to R480). -/
def ballAt (r c : Nat) : Option Ball :=
  if r = 0 || 52 < r || c = 0 || 52 < c then none
  else if r ≤ 6 || 47 ≤ r then some (inputBall r c)
  else if c ≤ 4 then some (if r ≤ 26 then pcieBall r c else dpBall r c)
  else if 49 ≤ c then some (if r ≤ 26 then timingBall r c else controlBall r c)
  else some (supplyBall r c)

/-- Balls of rows r to r2 and columns c to c2 that p holds of. -/
def ballCount (r r2 c c2 : Nat) (p : Ball → Bool) : Nat :=
  ((List.range (r2 + 1 - r)).map (fun i => (List.range (c2 + 1 - c)).countP (fun j => (ballAt (r + i) (c + j)).any p))).sum

def Ball.isSignal : Ball → Bool | .leg _ _ | .pin _ => true | _ => false
def Ball.isSupply : Ball → Bool | .supply _ | .reserved => true | _ => false

/-- Signal, ground and supply balls of a group (R479). -/
def ballCounts (r r2 c c2 : Nat) : Nat × Nat × Nat :=
  (ballCount r r2 c c2 Ball.isSignal, ballCount r r2 c c2 (· == .gnd), ballCount r r2 c c2 Ball.isSupply)

end Sys2Proof.Machine
end

