-- ==== Sys2Proof/WellFormed.lean ====
section
/-! DEFINITION. Well-formed commands: every operand names a resource the part has (R2: queues 0 to 7, event queues 0 to 3,
groups 0 to 31, channels 0 to 127, DMA channels 0 to 31, Beacon ports 0 to 3, domains 0 to 49, stacks 0 to 4, units 0 to 35). -/

namespace Sys2Proof

/-- A received table or report is a whole number of bytes in R299's bound. -/
def tableOk : Table → Bool
  | none => true
  | some b => b.length ≤ 1048576

/-- Every feed names a channel that exists. -/
def feedsOk (fs : List Feed) : Bool := fs.all (fun f => f.ch < 128)

/-- The request a response answers belongs to a channel that exists. -/
def timeoutOk : TimeoutReq → Bool
  | .dma c _ => c < 32
  | .fetch q | .table q => q < 8

/-- The operands of a command are in the ranges of the part's resources (R2). -/
def wellFormed : Instr → Bool
  | .nop q | .identify q | .getStatus q | .recoverReport q _ | .commitApply q | .commitDiscard q | .readConfig q _
  | .setSampleRate q | .setReference q _ | .clockOutputConfig q | .phaseStep q | .channelConfig q | .arm q | .forceTrigger q
  | .stop q | .abort q | .streamStart q | .streamStop q | .recordRelease q | .recordQuery q _ | .pondConfig q | .calControl q
  | .calReport q _ | .skewMeasure q | .beaconMeasure q | .timeSetMap q | .timeSetLoad q | .timeSetManual q | .edidRead q _ _
  | .monitorReadLast q | .monitorReadUrgent q | .powerState q | .domainControl q | .keyProvisionErase q | .alarmPolicy q
  | .attestDevice q _ | .attestRecord q _ | .errorRead q _ | .errorAck q | .controlStoreInfo q | .badOpcode q
  | .duplicateCommand q | .sqTailWrite q _ | .cqHeadWrite q _ | .qEnable q _ | .qDisable q _ | .qResume q _ | .clearErr q _
  | .cqPost q | .blockReplyTimeout q | .requeuedExecute q | .timeSetTimeout q => q < 8
  | .stageWrite q t | .delayTableLoad q t | .filterBankLoad q t | .triggerProgram q t | .soundingConfig q t | .beaconConfig q t
  | .displayConfig q t | .lampFrameWrite q t | .lampConfig q t | .monitorScanConfig q t | .keyProvisionWrite q t
  | .debugResponse q t => q < 8 && tableOk t
  | .debugChallenge q nonce => q < 8 && nonce.length == 16
  | .sqFetch reads => reads.all (fun r => r.1 < 8 && (match r.2 with | none => true | some ps => ps.all (fun p => p.length == 64)))
  | .eqEnable e _ | .eqDisable e _ | .eqResume e _ | .eqHeadWrite e _ | .eventPost e => e < 4
  | .latchedWritesApply | .abortAll _ | .lockstepMismatch | .sequencerSelfTestDone _ _ | .journalBRebuild | .tbNowLoRead
  | .glbIrqMaskWrite _ | .imgBell _ | .flr | .hotReset | .d3hotEnter | .d0Return | .ptmDialog _ _ | .coldReset | .resetNAssert
  | .perstNAssert | .domainRampDone | .springGate | .lossOfLock _ | .refReturn _ | .slewDone | .freeRunRelock | .dividerBoundary
  | .tbWrap | .ppsInEdge _ _ | .ppsMissing | .ppsOutPulse | .beaconMeasureDone _ | .rebuildDone | .frameBoundary
  | .line0Flip | .rasterPassDone | .lineUnderrun | .trimTick | .fetchUrgent _ | .lampFrameBoundary | .lampSyncEdge | .buoyScanStart
  | .tempComparatorCheck _ | .lidSenseHigh | .zeroiseEraseDone | .vendorUnlockEraseDone | .challengeExpiry | .vddAonReturn
  | .tapAccess _ => true
  | .microTrap k _ => k < 8
  | .journalCopyFail copy cause => copy < 2 && cause < 2
  | .errEntryRepeatRead i => i < 64
  | .registerWrite (.bar0 a) _ _ => a < 0x100000 && a % 4 == 0
  | .registerWrite (.cfg _) _ _ | .registerWrite .turnOff _ _ => true
  | .irqMaskWrite c _ | .dmaEnable c _ | .dmaDisable c _ | .dmaStoppingEnd c | .dmaPause c _ | .dmaUnpause c _ | .creditAdd c _
  | .dmaMove c | .dmaLoop c | .dmaWaitSeg c | .dmaWaitCredit c | .dmaWaitTb c | .dmaWaitResume c | .dmaSignalHalf c
  | .dmaSignalFull c | .dmaSignalRelease c | .dmaLoadImm c | .dmaLoadAdd c | .dmaLoadMem c | .dmaLoadShl c | .dmaFence c
  | .dmaEnd c | .dmaBadInstr c | .dmaBurstResponse c _ _ => c < 32
  | .msixUnmask v => v < 64
  | .bar2Read _ len _ => 0 < len && len ≤ 4096
  | .bar2Write _ => true
  | .completionTimeout r => timeoutOk r
  | .laneFault lane cause => lane < 4 && cause < 2
  | .resetRelease _ _ c => c.1.length == 256 && c.2.length == 256
  | .imageVerified t => tableOk t
  | .startupPhaseDone _ | .startupPhaseOverrun _ => true
  | .heartbeatTimeout d | .domainRestartOn d | .railComparatorTrip d | .uncorrectableStateError d => d < 50
  | .lockDeclared _ => true
  | .refLost cause => cause < 2
  | .clockMonitorAlarm what => what < 3
  | .beaconFrameSend p | .portDown p | .portSelfTest p _ _ | .arrMeasured p | .receiverLosesAlignment p => p < 4
  | .beaconFrameReceive p frame _ => p < 4 && frame.length == 32
  | .trigInTransition i _ _ | .trigOutTimedEdge i => i < 2
  | .sequenceTimeout g | .segmentComplete g | .waitFullEnd g | .avgWriteoutDone g | .acceptanceOpens g => g < 32
  | .acqBoundary u => u < 33
  | .fadeEnd n | .mapClearDone n | .decayPassStart n => n < 128
  | .estimatorWindowEnd n w =>
    n < 128 && feedsOk w.feeds && w.spares.all (fun x => x.conv < 4 && (x.spare == 64 || x.spare == 65) && 0 ≤ x.rms)
  | .triggerDecision g feeds _ => g < 32 && feedsOk feeds
  | .postFillEnd g feeds | .streamFrameEnd g feeds | .acquisitionEnded g feeds => g < 32 && feedsOk feeds
  | .stackFailure k cause => k < 5 && cause < 7
  | .foregroundCalDone q found =>
    q < 32 && found.fails.all (fun f => f.1 < 4 && f.2 < 66) && found.results.all (fun f => f.i < 4 && f.sub < 66 && f.gain.length == 4 && f.offset.length == 4)
  | .quadStart q => q < 32
  | .skewMeasureDone res _ => res.all (fun r => r.1 < 128)
  | .dpTrain k | .hpdLow k | .hpdIrq k | .dpRetry k | .dpSelfTest k _ _ => k < 2
  | .dpTrainEnd k sink _ => k < 2 && sink.lanes ≤ 2 && sink.rate ≤ 3
  | .lampRowSlot f => f.length == 24 && f.all (· < 4)
  | .lampDiagSubframe f => f.length == 24 && f.all (· < 4)
  | .buoyConversionDone code => code < 4096
  | .ageingGate i _ => i == 62 || i == 63
  | .keystoreError slot => slot < 3
  | .receivedTlpError _ => true
  | .pcieLinkUp gen width _ => 1 ≤ gen && gen ≤ 6 && width ≤ 2

end Sys2Proof
end

