-- ==== Sys2Proof/Tests/Slice0.lean ====
section
/-! SUPPORT. The model's own tests: ill-formed commands refused, commands run on small states with the results the manual gives, and one
witness for each statement of Certificates/Slice0/Obligations.lean, a state and operands that meet the hypotheses of each of its clauses. -/

namespace Sys2Proof.Tests

set_option Elab.async false

open Sys2Proof Sys2Proof.Machine

/-! ### Helpers -/

/-- Write a field of a packet or table. -/
def put (bs : List Byte) (f : Nat × Nat × Nat) : List Byte := bs.take f.1 ++ leBytes f.2.1 f.2.2 ++ bs.drop (f.1 + f.2.1)

/-- n zero bytes with fields (offset, size, value). -/
def image (n : Nat) (fs : List (Nat × Nat × Nat)) : List Byte := fs.foldl put (zeros n)

/-- A packet with SEQUENCE 1 (R266): opcode, INDEX, and PARAMS fields by their packet offsets. -/
def pk (op idx : Nat) (fs : List (Nat × Nat × Nat)) : Packet := image 64 ([(0, 1, op), (4, 8, 1), (12, 1, idx)] ++ fs)

/-- A packet's journal entry. -/
def ent (p : Packet) : JEntry := { pkt := p }

/-- A part that has started: every domain on, the command processor running, the link in L0, Spring locked. -/
def live : State :=
  { State.reset with
    pwr := { doms := List.replicate 50 { st := .on }, resetN := true, perstN := true, ready := true, phase := .done },
    cp := { st := .running, lockstep := true, queues := List.replicate 8 { st := .running, enable := true },
            eqs := List.replicate 4 { st := .running, enable := true }, image := some { version := 3, words := 4, digest := [1, 2, 3, 4] }, pendRec := none },
    pcie := { link := .l0, gen := 5, width := 2, cfg := { memSpace := true, busMaster := true } },
    spr := { st := .locked, refOk := true, lock := true }, tb := { counting := true },
    acq := { quads := List.replicate 32 { ready := true } },
    kpr := { img := .verified } }

/-- A state with one entry in both journal copies. -/
def jr (s : State) (e : JEntry) : State := { s with cp := { s.cp with jrnA := [e], jrnB := [e], nextIdx := 1 } }

/-- The live part with one command accepted on queue 0. -/
def on (p : Packet) : State := jr live (ent p)

theorem cmd {s : State} {q op : Nat} {e : JEntry}
    (h : (decide (s.cp.current q = some e) && (opcode e.pkt == op) && !e.dup && s.ready q e && s.logRoom e) = true) : CmdReady s q op e := by
  simp only [Bool.and_eq_true, decide_eq_true_eq, beq_iff_eq, Bool.not_eq_true'] at h
  exact ⟨h.1.1.1.1, h.1.1.1.2, h.1.1.2, h.1.2, h.2⟩

theorem good {e : JEntry} {spans : List (Nat × Nat)} {pre : Packet → Bool} (h : (pktOk e.pkt spans && pre e.pkt) = true) :
    PktGood e spans pre := by
  simpa [PktGood] using h

theorem bad {e : JEntry} {spans : List (Nat × Nat)} {pre : Packet → Bool} (h : (pktOk e.pkt spans && pre e.pkt) = false) :
    ¬ PktGood e spans pre := by
  intro g
  simp [PktGood] at g
  simp [g.1, g.2] at h

theorem stages {s : State} {ps : List (Nat × Nat)}
    (h : (ps.all (fun (a, v) => 0x1000000 ≤ a || shValueOk a v) && ps.all (fun (a, _) => (stagePairs s ps).1.shadowOk a) &&
      !(stagePairs s ps).2.2 && ps.all (fun (a, _) => s.domOn (regDom a))) = true) : StagesOk s ps := by
  simp only [Bool.and_eq_true, Bool.not_eq_true'] at h
  exact ⟨h.1.1.1, h.1.1.2, h.1.2, h.2⟩

theorem dma {s : State} {c : Nat} {x : DmaCh} {i : DmaIns}
    (h : (decide (nth s.dma.ch c = x) && decide (s.dmaIns c = some i) && i.ok) = true) : DmaReady s c x i := by
  simp only [Bool.and_eq_true, decide_eq_true_eq] at h
  exact ⟨h.1.1, h.1.2, h.2⟩

/-! ### Ill-formed commands (one for each check of WellFormed.lean) -/

theorem test_wellFormed_refuses :
    [Instr.nop 8, .stageWrite 8 none, .debugChallenge 8 (zeros 16), .debugChallenge 0 (zeros 15), .sqFetch [(8, none)], .sqFetch [(0, some [zeros 63])],
     .eqEnable 4 0, .microTrap 8 .handlerEnd, .journalCopyFail 2 0, .journalCopyFail 0 2, .errEntryRepeatRead 64, .registerWrite (.bar0 0x100000) 0 15,
     .registerWrite (.bar0 2) 0 15, .irqMaskWrite 32 0, .msixUnmask 64, .bar2Read 0 0 default, .bar2Read 0 4097 default, .completionTimeout (.dma 32 .load),
     .completionTimeout (.fetch 8), .laneFault 4 0, .laneFault 0 2, .resetRelease true none (zeros 255, zeros 256), .resetRelease true none (zeros 256, []),
     .heartbeatTimeout 50, .refLost 2, .clockMonitorAlarm 3, .beaconFrameSend 4, .beaconFrameReceive 4 (zeros 32) 0, .beaconFrameReceive 0 (zeros 31) 0,
     .trigInTransition 2 0 true, .triggerDecision 32 [] 0, .triggerDecision 0 [{ ch := 128, start := 0, samples := [] }] 0, .sequenceTimeout 32, .acqBoundary 33, .fadeEnd 128,
     .postFillEnd 32 [], .postFillEnd 0 [{ ch := 128, start := 0, samples := [] }], .stackFailure 5 0, .stackFailure 0 7, .foregroundCalDone 32 {},
     .foregroundCalDone 0 { fails := [(4, 0)] }, .foregroundCalDone 0 { fails := [(0, 66)] }, .foregroundCalDone 0 { results := [{ i := 0, sub := 66 }] },
     .estimatorWindowEnd 128 {}, .estimatorWindowEnd 0 { spares := [{ conv := 0, spare := 63 }] },
     .estimatorWindowEnd 0 { feeds := [{ ch := 128, start := 0, samples := [] }] }, .quadStart 32, .skewMeasureDone [(128, [])] true,
     .dpTrain 2, .dpTrainEnd 2 {} [], .dpTrainEnd 0 { lanes := 3 } [], .dpTrainEnd 0 { rate := 4 } [], .lampRowSlot (List.replicate 23 0),
     .lampRowSlot (List.replicate 24 4), .lampDiagSubframe [], .lampDiagSubframe (List.replicate 24 4), .buoyConversionDone 4096, .ageingGate 61 0,
     .keystoreError 3, .pcieLinkUp 0 0 false, .pcieLinkUp 7 0 false, .pcieLinkUp 1 3 false].all (fun i => !wellFormed i) = true := by decide +kernel

theorem test_wellFormed_refuses_long_table : wellFormed (.stageWrite 0 (some (List.replicate 1048577 0))) = false ∧
    wellFormed (.imageVerified (some (List.replicate 1048577 0))) = false := by
  simp only [wellFormed, tableOk, List.length_replicate]; decide

theorem test_wellFormed_admits :
    [Instr.nop 7, .stageWrite 7 none, .debugChallenge 7 (zeros 16), .sqFetch [(7, none), (0, some [zeros 64])], .eqEnable 3 0, .bar2Read 0 4096 default,
     .registerWrite (.bar0 0xFFFFC) 0 0, .stackFailure 4 6, .lampRowSlot (List.replicate 24 3), .pcieLinkUp 6 2 true].all wellFormed = true := by decide +kernel

/-- No row of the opcode table gives bits, so no word spells a command. -/
theorem test_no_word_spells_a_command : decodeTableWord 32 0x00000000 = none ∧ decodeTableWord 32 0xFFFFFFFF = none := ⟨rfl, rfl⟩

/-! ### Addresses the manual works out (chapters 2, 3, 5, 6, 13, 15, 16) -/

theorem test_addresses :
    chCfgA 29 = 0x27140 ∧ weirA 13 8 = 0x51A08 ∧ memberA 13 = 0x41B84 ∧ lampDutyA 83 = 0xF54C ∧
      shadowOfs 0x27140 = 0x800 ∧ shadowOfs 0x51A08 = 0x100 ∧ shadowOfs 0x41B84 = 0x400 ∧ shadowOfs 0x1981C = 0x4000 ∧ shadowOfs 0xF54C = 0x800 := by decide

/-! ### Single commands, with results from the manual -/

/-- The state one command leaves. -/
def after (c : Instr) (s : State) : State :=
  match exec c s with
  | .next t => t
  | _ => s

/-- Status and RESULT of the entry with journal index 0. -/
def outcome (s : State) : Option (Nat × List Byte) := (s.jget 0).map (fun e => (e.status, e.result))

theorem test_nop : outcome (after (.nop 0) (on (pk 0 0 []))) = some (0x00, zeros 16) := by decide +kernel

theorem test_unlisted_opcode : outcome (after (.badOpcode 0) (on (pk 0x04 0 []))) = some (0x10, zeros 16) := by decide +kernel

/-- Chapter 12's worked example: CH013 belongs to TG03 and its delay becomes INT 8,704; REGS 1 and UNIT_MASK 0x08. -/
def chapter12 (p : Packet) : State := (on p).setReg (memberA 13) 0x23

theorem test_stage_delay :
    outcome (after (.stageWrite 0 none) (chapter12 (pk 0x08 1 [(2, 2, 0x11), (4, 8, 0x40), (16, 4, 0x51A08), (20, 4, 0x02200000)]))) =
      some (0, [1, 0, 0, 0, 8, 0, 0, 0, 0, 0, 0, 0, 0, 0, 0, 0]) := by decide +kernel

/-- The same chapter: the COMMIT of unit 3 that makes generation 9 owes ACCEPTED with GENERATION 9 and UNIT 3. -/
theorem test_commit_accepted :
    ((after (.commitApply 0) ((on (pk 0x09 3 [(1, 1, 2)])).updUnit 3 (fun u => { u with nextGen := 9 }))).jget 0).bind JEntry.acceptedDue =
      some [9, 0, 0, 3, 0, 0, 0, 0, 0, 0, 0, 0, 0, 0, 0, 0] := by decide +kernel

/-- Chapter 9's worked example: the gate at TB_COUNT 100,000,001,024, N_INT 1,600, and the release 38,024 reference periods later. -/
theorem test_release_count :
    (live.updSpr (fun x => { x with gateTb := 100000001024, nInt := 1600 })).releaseCount 38024 = 100030420224 := by decide +kernel

/-- Chapter 17's worked example: CODE 1,752 of the die input is 45.5 °C, inside its window. -/
theorem test_die_temperature :
    let s := after (.buoyConversionDone 1752) (live.updBuoy (fun b => { b with st := .scanning, input := 50, scan := [50], scanLim := b.lim }))
    (nth s.buoy.res 50).value = 455 ∧ s.buoy.limNow = 0 := by decide +kernel

/-- The check value of CRC-32 (IEEE 802.3, reflected), which R111 names. -/
theorem test_crc32 : crc32 ("123456789".toList.map (fun c => BitVec.ofNat 8 c.toNat)) = 0xCBF43926 := by decide +kernel

/-- R271: a doorbell 17 past a ring of 16 puts the queue into OVERRUN and counts once. -/
theorem test_doorbell_overrun :
    let x := nth (after (.sqTailWrite 0 17) live).cp.queues 0
    x.st = .overrun ∧ x.overrunCnt = 1 ∧ x.overrunDue = [17] := by decide +kernel

/-- R339: LOOP with COUNT 2 branches once, then falls through. -/
theorem test_loop :
    let go (s : State) : State := after (.dmaLoop 0) s
    let s := live.updDma 0 (fun x => { x with st := .running, enable := true, pc := 1, pre := [{ index := 1, bytes := some (image 16 [(0, 1, 2), (4, 4, 0), (8, 8, 2)]) }] })
    (nth (go s).dma.ch 0).pc = 0 ∧ (nth (nth (go s).dma.ch 0).lc 0).left = 1 := by decide +kernel

/-- R333: a MOVE whose source ends one byte past Reservoir's 96 GiB halts with RANGE (code 3). -/
theorem test_move_range :
    let p : Pre := { index := 0, bytes := some (image 16 [(0, 1, 1), (1, 1, 1), (2, 1, 8), (4, 4, 4)]) }
    let s := live.updDma 0 (fun x => { x with st := .running, enable := true, g := x.g.set 0 103079215101, pre := [p] })
    (nth (after (.dmaMove 0) s).dma.ch 0).st = .halted ∧ (nth (after (.dmaMove 0) s).dma.ch 0).failCode = 3 := by decide +kernel

/-- R296: any other KEY changes nothing. -/
theorem test_abort_all_key : after (.abortAll 0xAB08) live = live ∧ (after (.abortAll 0xAB07) live).cp.abortCnt = 1 := by decide +kernel

/-- R464: with the reset policy LID (source 6) raises a NOTICE, and KEYSTORE (source 7) locks down. -/
theorem test_alarm_levels :
    (after .lidSenseHigh live).kpr.alarm = .clear ∧ (after (.keystoreError 0) live).kpr.alarm ≠ .clear := by decide +kernel

/-- R12: an idle step is a core cycle of 16 Ts. -/
theorem test_idle_step : (match step live with | .next t => t.tb.count | _ => 0) = 16 := by decide +kernel

/-! ### Witnesses: steps, ends of commands, queries -/

theorem wit_StepRunsTheFrontCommand : ({ live with pending := [.nop 0, .identify 7] } : State).pending = .nop 0 :: [.identify 7] := rfl

theorem wit_IdleStepIsOneCoreCycle :
    (State.reset.pending = [] ∧ State.reset.tb.counting = false) ∧
    (live.pending = [] ∧ live.tb.counting = true ∧ live.tb.count.toNat + 16 < 2 ^ 64) ∧
    (let s := live.updTb (fun t => { t with count := BitVec.ofNat 64 (2 ^ 64 - 16) })
     s.pending = [] ∧ s.tb.counting = true ∧ 2 ^ 64 ≤ s.tb.count.toNat + 16) := by decide +kernel

theorem wit_StepKeeps : State.reset.memOk ∧ State.reset.cfgOk ∧ State.reset.pendOk ∧ State.reset.eventsOk ∧ step State.reset = .next { State.reset with now := 16 } := by
  refine ⟨⟨?_, ?_⟩, ?_, ?_, ⟨?_, ?_⟩, rfl⟩
  · decide +kernel
  · decide +kernel
  · exact (by decide +kernel : swf shReset State.reset.cfg = true)
  · exact (by decide +kernel : ∀ u ∈ State.reset.units, u.pend.length ≤ 2)
  · decide +kernel
  · decide +kernel

theorem wit_EndOfACommand :
    (on (pk 0x00 0 [])).jget 0 = some (ent (pk 0x00 0 [])) ∧ ((on (pk 0x00 0 [])).cp.aOk || (on (pk 0x00 0 [])).cp.bOk) = true ∧
    (let s := (on (pk 0x00 0 [])).updCp (fun c => { c with aOk := false })
     s.jget 0 = some (ent (pk 0x00 0 [])) ∧ (s.cp.aOk || s.cp.bOk) = true ∧ s.cp.aOk = false) ∧
    (let s := (on (pk 0x00 0 [])).updCp (fun c => { c with bOk := false })
     s.jget 0 = some (ent (pk 0x00 0 [])) ∧ (s.cp.aOk || s.cp.bOk) = true ∧ s.cp.bOk = false) := by decide +kernel

/-- Each command with a byte no rule gives it, or outside its range; ARM's INDEX 32 is the first past the groups. -/
theorem wit_PacketErrorsComeFirst :
    (CmdReady (on (pk 0x00 1 [])) 0 0x00 (ent (pk 0x00 1 [])) ∧ ¬ PktGood (ent (pk 0x00 1 [])) [] (fun p => pktIndex p == 0)) ∧
    (CmdReady (on (pk 0x01 0 [(63, 1, 1)])) 0 0x01 (ent (pk 0x01 0 [(63, 1, 1)])) ∧
      ¬ PktGood (ent (pk 0x01 0 [(63, 1, 1)])) [] (fun p => pktIndex p == 0)) ∧
    (CmdReady (on (pk 0x02 255 [])) 0 0x02 (ent (pk 0x02 255 [])) ∧ ¬ PktGood (ent (pk 0x02 255 [])) [] (fun p => pktIndex p == 0)) ∧
    (CmdReady (on (pk 0x78 1 [])) 0 0x78 (ent (pk 0x78 1 [])) ∧ ¬ PktGood (ent (pk 0x78 1 [])) [] (fun p => pktIndex p == 0)) ∧
    (CmdReady (on (pk 0x18 0 [(48, 1, 1)])) 0 0x18 (ent (pk 0x18 0 [(48, 1, 1)])) ∧
      ¬ PktGood (ent (pk 0x18 0 [(48, 1, 1)])) [(16, 16), (32, 16), (48, 1)]
        (fun p => pktIndex p == 0 && rd p 16 16 ≠ 0 && 1 ≤ rd p 48 1 && rd p 48 1 ≤ 15)) ∧
    (CmdReady (on (pk 0x20 32 [])) 0 0x20 (ent (pk 0x20 32 [])) ∧ ¬ PktGood (ent (pk 0x20 32 [])) [] (fun p => pktIndex p ≤ 31)) ∧
    (CmdReady (on (pk 0x69 0 [(16, 1, 3)])) 0 0x69 (ent (pk 0x69 0 [(16, 1, 3)])) ∧
      ¬ PktGood (ent (pk 0x69 0 [(16, 1, 3)])) [(16, 1)] (fun p => pktIndex p == 0 && (rd p 16 1 == 1 || rd p 16 1 == 2))) ∧
    (CmdReady (on (pk 0x71 0 [(24, 1, 1)])) 0 0x71 (ent (pk 0x71 0 [(24, 1, 1)])) ∧
      ¬ PktGood (ent (pk 0x71 0 [(24, 1, 1)])) [(16, 8)] (fun p => pktIndex p == 0)) := by
  refine ⟨⟨cmd ?_, bad ?_⟩, ⟨cmd ?_, bad ?_⟩, ⟨cmd ?_, bad ?_⟩, ⟨cmd ?_, bad ?_⟩, ⟨cmd ?_, bad ?_⟩, ⟨cmd ?_, bad ?_⟩, ⟨cmd ?_, bad ?_⟩, cmd ?_, bad ?_⟩ <;>
    decide +kernel

/-- A report of no entry, and of one. -/
def reported (p : Packet) : State := (on p).updCp (fun c => { c with report := some { num := 2, entries := [{ seq := 9 }] } })

theorem wit_QueriesComplete :
    (CmdReady (on (pk 0x00 0 [])) 0 0x00 (ent (pk 0x00 0 [])) ∧ PktGood (ent (pk 0x00 0 [])) [] (fun p => pktIndex p == 0)) ∧
    (CmdReady (on (pk 0x01 0 [])) 0 0x01 (ent (pk 0x01 0 [])) ∧ PktGood (ent (pk 0x01 0 [])) [] (fun p => pktIndex p == 0)) ∧
    (CmdReady (on (pk 0x02 0 [])) 0 0x02 (ent (pk 0x02 0 [])) ∧ PktGood (ent (pk 0x02 0 [])) [] (fun p => pktIndex p == 0)) ∧
    ((on (pk 0x78 0 [])).cp.image.isSome = true ∧ CmdReady (on (pk 0x78 0 [])) 0 0x78 (ent (pk 0x78 0 [])) ∧
      PktGood (ent (pk 0x78 0 [])) [] (fun p => pktIndex p == 0)) ∧
    (∃ r, (reported (pk 0x03 0 [])).cp.report = some r ∧ CmdReady (reported (pk 0x03 0 [])) 0 0x03 (ent (pk 0x03 0 [])) ∧
      PktGood (ent (pk 0x03 0 [])) [(48, 16)] (fun p => pktIndex p == 0 && bulkOk p && !(1 ≤ bulkLen p && bulkLen p ≤ 28)) ∧
      bulkLen (ent (pk 0x03 0 [])).pkt = 0) ∧
    (∃ r, (reported (pk 0x03 0 [(48, 8, 0x1000), (56, 4, 64)])).cp.report = some r ∧
      CmdReady (reported (pk 0x03 0 [(48, 8, 0x1000), (56, 4, 64)])) 0 0x03 (ent (pk 0x03 0 [(48, 8, 0x1000), (56, 4, 64)])) ∧
      PktGood (ent (pk 0x03 0 [(48, 8, 0x1000), (56, 4, 64)])) [(48, 16)]
        (fun p => pktIndex p == 0 && bulkOk p && !(1 ≤ bulkLen p && bulkLen p ≤ 28)) ∧
      bulkLen (ent (pk 0x03 0 [(48, 8, 0x1000), (56, 4, 64)])).pkt ≠ 0 ∧ (reported (pk 0x03 0 [(48, 8, 0x1000), (56, 4, 64)])).busOk = true) ∧
    (0x04 ∉ listedOpcodes ∧ CmdReady (on (pk 0x04 0 [])) 0 0x04 (ent (pk 0x04 0 []))) ∧
    (let e := { ent (pk 0x00 0 []) with dup := true }
     (jr live e).cp.current 0 = some e ∧ e.dup = true ∧ (jr live e).ready 0 e = true) := by
  refine ⟨⟨cmd ?_, good ?_⟩, ⟨cmd ?_, good ?_⟩, ⟨cmd ?_, good ?_⟩, ⟨?_, cmd ?_, good ?_⟩, ⟨_, rfl, cmd ?_, good ?_, ?_⟩,
    ⟨_, rfl, cmd ?_, good ?_, ?_, ?_⟩, ⟨?_, cmd ?_⟩, ?_⟩ <;> decide +kernel

/-- One register in the RESULT, and the five of the reset view's first words in a buffer; view 1 of a unit with no pending generation is missing. -/
theorem wit_ReadConfigCompletes :
    (let p := pk 0x0A 0 [(16, 1, 0), (20, 4, ltnA 0), (24, 4, 4)]
     CmdReady (on p) 0 0x0A (ent p) ∧
     PktGood (ent p) [(16, 1), (20, 4), (24, 4), (48, 16)]
        (fun p => pktIndex p == 0 && rd p 16 1 ≤ 3 && rangeOk (rd p 20 4) (rd p 24 4) && bulkOk p && (4 < rd p 24 4 || bulkLen p == 0)) ∧
     (on p).viewMissing (rd p 16 1) (rd p 20 4) (rd p 24 4) = false ∧ rd p 24 4 ≤ 4) ∧
    (let p := pk 0x0A 0 [(16, 1, 0), (20, 4, ltnA 0), (24, 4, 5), (48, 8, 64), (56, 4, 4)]
     CmdReady (on p) 0 0x0A (ent p) ∧
     PktGood (ent p) [(16, 1), (20, 4), (24, 4), (48, 16)]
        (fun p => pktIndex p == 0 && rd p 16 1 ≤ 3 && rangeOk (rd p 20 4) (rd p 24 4) && bulkOk p && (4 < rd p 24 4 || bulkLen p == 0)) ∧
     (on p).viewMissing (rd p 16 1) (rd p 20 4) (rd p 24 4) = false ∧ 4 < rd p 24 4 ∧ 4 ≤ bulkLen p ∧ (on p).busOk = true) ∧
    (let p := pk 0x0A 0 [(16, 1, 2), (20, 4, ltnA 0), (24, 4, 1)]
     CmdReady (on p) 0 0x0A (ent p) ∧
     PktGood (ent p) [(16, 1), (20, 4), (24, 4), (48, 16)]
        (fun p => pktIndex p == 0 && rd p 16 1 ≤ 3 && rangeOk (rd p 20 4) (rd p 24 4) && bulkOk p && (4 < rd p 24 4 || bulkLen p == 0)) ∧
     (on p).viewMissing (rd p 16 1) (rd p 20 4) (rd p 24 4) = true ∧ (on p).pwr.starting = false) := by
  refine ⟨⟨cmd ?_, good ?_, ?_, ?_⟩, ⟨cmd ?_, good ?_, ?_, ?_, ?_, ?_⟩, cmd ?_, good ?_, ?_, ?_⟩ <;> decide +kernel

/-! ### Witnesses: staging and COMMIT -/

/-- The reset values of the n registers from address a on. -/
def resets (a n : Nat) : List Byte := (List.range n).flatMap (fun i => leBytes 4 (if (shReg (a + 4 * i)).isSome then (shReset (a + 4 * i)).toNat else 0))

/-- One inline pair, and four, the most a packet holds. -/
theorem wit_StagePairs_inline :
    (let p := pk 0x08 1 [(16, 4, outPhaseA 0), (20, 4, 5)]
     CmdReady (on p) 0 0x08 (ent p) ∧ pktOk p [(16, 48)] = true ∧ (∀ i, i < 48 → 8 ≤ i → p.getD (16 + i) 0 = 0) ∧
     (∀ x ∈ pairsOf ((p.drop 16).take 8), bankReg x.1 = false ∧ x.1 < 0x100000) ∧ StagesOk (on p) (pairsOf ((p.drop 16).take 8))) ∧
    (let p := pk 0x08 4 [(16, 4, outPhaseA 0), (20, 4, 5), (24, 4, outPhaseA 1), (28, 4, 5), (32, 4, outPhaseA 2), (36, 4, 5), (40, 4, outPhaseA 3), (44, 4, 5)]
     CmdReady (on p) 0 0x08 (ent p) ∧ pktOk p [(16, 48)] = true ∧ (∀ i, i < 48 → 32 ≤ i → p.getD (16 + i) 0 = 0) ∧
     (∀ x ∈ pairsOf ((p.drop 16).take 32), bankReg x.1 = false ∧ x.1 < 0x100000) ∧ StagesOk (on p) (pairsOf ((p.drop 16).take 32))) := by
  refine ⟨⟨cmd ?_, ?_, ?_, ?_, stages ?_⟩, cmd ?_, ?_, ?_, ?_, stages ?_⟩ <;> decide +kernel

/-- A table of one pair; each WHICH of CLOCK_OUTPUT_CONFIG; a step of PHASE_STEP. -/
theorem wit_StagePairs_tables :
    (let p := pk 0x08 0 [(48, 8, 64), (56, 4, 8)]
     CmdReady (on p) 0 0x08 (ent p) ∧ pktOk p [(16, 48)] = true ∧ rd p 16 32 = 0 ∧ bulkOk p = true ∧ bulkLen p % 8 = 0 ∧ 8 ≤ bulkLen p ∧
     bulkLen p ≤ 32768 ∧ (on p).busOk = true ∧
     (∀ x ∈ pairsOf (padTo (bulkLen p) (leBytes 4 (outPhaseA 3) ++ leBytes 4 9)), bankReg x.1 = false ∧ x.1 < 0x100000) ∧
     StagesOk (on p) (pairsOf (padTo (bulkLen p) (leBytes 4 (outPhaseA 3) ++ leBytes 4 9)))) ∧
    (∀ w ∈ [1, 2, 3], let p := pk 0x12 3 [(16, 4, (shReset (outCfgA 3)).toNat), (20, 4, 7), (24, 1, w)]
     CmdReady (on p) 0 0x12 (ent p) ∧ PktGood (ent p) [(16, 4), (20, 4), (24, 1)] (fun p => pktIndex p ≤ 3 && 1 ≤ rd p 24 1 && rd p 24 1 ≤ 3) ∧
     rd p 24 1 = w ∧ StagesOk (on p) [(outCfgA 3, (shReset (outCfgA 3)).toNat)] ∧ StagesOk (on p) [(outPhaseA 3, 7)] ∧
     StagesOk (on p) [(outCfgA 3, (shReset (outCfgA 3)).toNat), (outPhaseA 3, 7)]) ∧
    (let p := pk 0x13 0 [(16, 2, 0xFFFF)]
     CmdReady (on p) 0 0x13 (ent p) ∧ PktGood (ent p) [(16, 2)] (fun p => pktIndex p ≤ 3) ∧
     StagesOk (on p) [(outPhaseA 0, stepPhase ((on p).shadow (outPhaseA 0)) (fld ((on p).shadow (outCfgA 0)) 19 4) (sgn 16 (rd p 16 2)))]) := by
  refine ⟨⟨cmd ?_, ?_, ?_, ?_, ?_, ?_, ?_, ?_, ?_, stages ?_⟩, ?_, cmd ?_, good ?_, stages ?_⟩
  rotate_left 10
  · intro w h
    rcases (by simpa using h : w = 1 ∨ w = 2 ∨ w = 3) with rfl | rfl | rfl <;>
      refine ⟨cmd ?_, good ?_, ?_, stages ?_, stages ?_, stages ?_⟩ <;> decide +kernel
  all_goals decide +kernel

/-- Lead channel 124 with every WHICH bit; a map; a channel's CAL register. -/
theorem wit_StageChannels :
    (let p := pk 0x18 0 [(31, 1, 0x10), (32, 4, (shReset (chCfgA 124)).toNat), (36, 4, 0), (40, 4, (shReset (quadCfgA 31)).toNat),
       (44, 4, (shReset (memberA 124)).toNat), (48, 1, 15)]
     CmdReady (on p) 0 0x18 (ent p) ∧
     PktGood (ent p) [(16, 16), (32, 16), (48, 1)] (fun p => pktIndex p == 0 && rd p 16 16 ≠ 0 && 1 ≤ rd p 48 1 && rd p 48 1 ≤ 15) ∧
     pktMask p = [124] ∧
     StagesOk (on p) [(chCfgA 124, rd p 32 4), (chOffsetA 124, rd p 36 4), (quadCfgA 31, rd p 40 4), (memberA 124, rd p 44 4)]) ∧
    (let p := pk 0x2A 0 [(16, 1, 1), (32, 4, (shReset (pondA 0 0)).toNat), (36, 4, (shReset (pondA 0 4)).toNat), (48, 1, 3)]
     CmdReady (on p) 0 0x2A (ent p) ∧
     PktGood (ent p) [(16, 16), (32, 16), (48, 1)] (fun p => pktIndex p == 0 && rd p 16 16 ≠ 0 && 1 ≤ rd p 48 1 && rd p 48 1 ≤ 15) ∧
     StagesOk (on p) ((pktMask p).flatMap (fun n => ((List.range 4).filter (bit 3)).map (fun j => (pondA n (4 * j), rd p (32 + 4 * j) 4))))) ∧
    (let p := pk 0x30 0 [(31, 1, 0x80), (32, 4, (shReset (weirA 127 0xC0)).toNat)]
     CmdReady (on p) 0 0x30 (ent p) ∧ PktGood (ent p) [(16, 16), (32, 4)] (fun p => pktIndex p == 0 && rd p 16 16 ≠ 0) ∧
     StagesOk (on p) ((pktMask p).map (fun n => (weirA n 0xC0, rd p 32 4)))) := by
  refine ⟨⟨cmd ?_, good ?_, ?_, stages ?_⟩, ⟨cmd ?_, good ?_, stages ?_⟩, cmd ?_, good ?_, stages ?_⟩ <;> decide +kernel

theorem wit_TableStaging_weir :
    (let p := pk 0x19 0 [(31, 1, 0x80), (48, 8, 64), (56, 4, 512)]
     let b := padTo (bulkLen p) []
     (on p).busOk = true ∧ CmdReady (on p) 0 0x19 (ent p) ∧
     PktGood (ent p) [(16, 16), (48, 16)] (fun p => pktIndex p == 0 && rd p 16 16 ≠ 0 && bulkOk p && bulkLen p == 512) ∧
     StagesOk (on p) ((pktMask p).map (fun n => (weirA n 8, rd b (4 * n) 4)))) ∧
    (let p := pk 0x1A 0 [(16, 1, 1), (32, 1, 1), (34, 2, 1), (36, 1, 0), (48, 8, 64), (56, 4, 4)]
     let b := padTo (bulkLen p) [0xFF, 0xFF, 3, 0]
     CmdReady (on p) 0 0x1A (ent p) ∧
     PktGood (ent p) [(16, 16), (32, 1), (34, 2), (36, 1), (48, 16)]
        (fun p => pktIndex p == 0 && rd p 16 16 ≠ 0 && rd p 32 1 ≤ 1 && 1 ≤ rd p 34 2 && rd p 34 2 ≤ 1536 && rd p 36 1 ≤ 15 &&
          bulkOk p && bulkLen p == 4 * rd p 34 2) ∧
     (∀ w ∈ wordsOf b, w < 2 ^ 18) ∧
     StagesOk (on p) ((pktMask p).flatMap (fun n => bankPairs n (rd p 32 1) (rd p 34 2) (rd p 36 1) (crc32 b) (wordsOf b)))) := by
  refine ⟨⟨?_, cmd ?_, good ?_, stages ?_⟩, cmd ?_, good ?_, ?_, stages ?_⟩ <;> decide +kernel

/-- The trigger program and the Sounding image of group 31, the last registers of the display and of the lamp matrix, and the last lamp. -/
theorem wit_TableStaging_images :
    (let p := pk 0x1B 31 [(48, 8, 64), (56, 4, 160)]
     ∃ ps, imagePairs (trgA 31 0) (padTo (bulkLen p) (resets (trgA 31 0) 40)) = some ps ∧ CmdReady (on p) 0 0x1B (ent p) ∧
       PktGood (ent p) [(48, 16)] (fun p => pktIndex p ≤ 31 && bulkOk p && bulkLen p == 160) ∧ StagesOk (on p) ps) ∧
    (let p := pk 0x2B 31 [(48, 8, 64), (56, 4, 512)]
     ∃ ps, imagePairs (sndA 31 0) (padTo (bulkLen p) (resets (sndA 31 0) 128)) = some ps ∧ CmdReady (on p) 0 0x2B (ent p) ∧
       PktGood (ent p) [(48, 16)] (fun p => pktIndex p ≤ 31 && bulkOk p && bulkLen p == 512) ∧ StagesOk (on p) ps) ∧
    (let p := pk 0x48 0 [(16, 4, 0), (48, 8, 64), (56, 4, 16)]
     ∃ ps, imagePairs (ltnA 0) (padTo (bulkLen p) (resets (ltnA 0) 4)) = some ps ∧ CmdReady (on p) 0 0x48 (ent p) ∧
       PktGood (ent p) [(16, 4), (48, 16)] (fun p => pktIndex p == 0 && bulkOk p && rd p 16 4 % 4 == 0 && rd p 16 4 + bulkLen p ≤ 0x4000) ∧
       StagesOk (on p) ps) ∧
    (let p := pk 0x50 0 [(16, 1, 127), (17, 1, 1), (48, 8, 64), (56, 4, 4)]
     CmdReady (on p) 0 0x50 (ent p) ∧
     PktGood (ent p) [(16, 1), (17, 1), (48, 16)]
       (fun p => pktIndex p == 0 && 1 ≤ rd p 17 1 && rd p 16 1 + rd p 17 1 ≤ 128 && bulkOk p && bulkLen p == 4 * rd p 17 1) ∧
     StagesOk (on p) ((wordsOf (padTo (bulkLen p) [])).zipIdx.map (fun (v, i) => (lampDutyA (rd p 16 1 + i), v)))) ∧
    (let p := pk 0x51 0 [(16, 4, 0), (48, 8, 64), (56, 4, 4)]
     ∃ ps, imagePairs (lampA 0) (padTo (bulkLen p) (resets (lampA 0) 1)) = some ps ∧ CmdReady (on p) 0 0x51 (ent p) ∧
       PktGood (ent p) [(16, 4), (48, 16)] (fun p => pktIndex p == 0 && bulkOk p && rd p 16 4 % 4 == 0 && rd p 16 4 + bulkLen p ≤ 0x800) ∧
       StagesOk (on p) ps) := by
  refine ⟨⟨_, rfl, cmd ?_, good ?_, stages ?_⟩, ⟨_, rfl, cmd ?_, good ?_, stages ?_⟩, ⟨_, rfl, cmd ?_, good ?_, stages ?_⟩,
    ⟨cmd ?_, good ?_, stages ?_⟩, ⟨_, rfl, cmd ?_, good ?_, stages ?_⟩⟩ <;> decide +kernel

/-- The part with group 0 running nothing but armed. -/
def armedLive : State := live.updRec 0 (fun r => { r with run := some {} })

/-- A value outside its register's range; a shadow set R27 refuses (a lamp tick of 0); a register of a dark domain; a move out of an armed group. -/
theorem wit_StagingIsConfined :
    (∃ p ∈ [(outPhaseA 0, 2 ^ 24)], p.1 < 0x1000000 ∧ shValueOk p.1 p.2 = false) ∧
    (let ps := [(outCfgA 0, (shReset (outCfgA 0)).toNat), (outPhaseA 0, 2 ^ 22)]
     (ps.all (fun (a, v) => 0x1000000 ≤ a || shValueOk a v)) = true ∧ (∃ p ∈ ps, (stagePairs live ps).1.shadowOk p.1 = false)) ∧
    (let s := live.updDom 42 (fun d => { d with st := .off })
     let ps := [(outPhaseA 0, 1)]
     (ps.all (fun (a, v) => 0x1000000 ≤ a || shValueOk a v)) = true ∧ (ps.all (fun (a, _) => (stagePairs s ps).1.shadowOk a)) = true ∧
       ∃ p ∈ ps, s.domOn (regDom p.1) = false) ∧
    (let s := armedLive
     let ps := [(memberA 0, 0x20)]
     (ps.all (fun (a, v) => 0x1000000 ≤ a || shValueOk a v)) = true ∧ (ps.all (fun (a, _) => (stagePairs s ps).1.shadowOk a)) = true ∧
       (stagePairs s ps).2.2 = true) := by
  decide +kernel

theorem wit_ShadowReadsTheStagedValue :
    live.units.length = 36 ∧ (∃ r, shReg (ltnA 0) = some r ∧ r.owner = .unit 33) ∧ (∃ r, shReg (outPhaseA 3) = some r ∧ r.owner = .unit 35) ∧
      33 < 36 ∧ 35 < 36 ∧ 2 ^ 32 - 1 < 2 ^ 32 := by
  refine ⟨rfl, ⟨_, rfl, rfl⟩, ⟨_, rfl, rfl⟩, ?_⟩; decide

/-- The staging set of unit 35 made a generation; a ganged quad split over units; a move of a channel of an armed group. -/
theorem wit_CommitApplyCompletes :
    (let p := pk 0x09 35 []
     PktGood (ent p) [(16, 1)] (fun p => pktIndex p ≤ 35 && rd p 16 1 ≤ 1) ∧ CmdReady (on p) 0 0x09 (ent p) ∧ rd p 16 1 = 0 ∧
     (on p).gangSplit (fun k => k = 35) = false ∧ (on p).stagedMoveArmed 35 = false ∧ (nth (on p).units 35).pend.length < 2) ∧
    (let p := pk 0x09 32 []
     let s := ((on p).stage1 (quadCfgA 0) ((shReset (quadCfgA 0)).toNat + 1)).stage1 (memberA 1) 0x20
     PktGood (ent p) [(16, 1)] (fun p => pktIndex p ≤ 35 && rd p 16 1 == 0) ∧ CmdReady s 0 0x09 (ent p) ∧ s.gangSplit (fun k => k = 32) = true) ∧
    (let p := pk 0x09 0 []
     let s := (((on p).setReg (memberA 0) 0x20).stage1 (memberA 0) 0x21).updRec 0 (fun r => { r with run := some {} })
     PktGood (ent p) [(16, 1)] (fun p => pktIndex p ≤ 35 && rd p 16 1 == 0) ∧ CmdReady s 0 0x09 (ent p) ∧ s.pwr.starting = false ∧
       s.gangSplit (fun k => k = 0) = false ∧ s.stagedMoveArmed 0 = true) := by
  refine ⟨⟨good ?_, cmd ?_, ?_, ?_, ?_, ?_⟩, ⟨good ?_, cmd ?_, ?_⟩, good ?_, cmd ?_, ?_, ?_, ?_⟩ <;> decide +kernel

/-! ### Witnesses: queues, completions, events and the engine -/

/-- Queue 0 at a full ring's reach (16 entries); one past it, in each state; suspended; a DRAINING queue whose last completion is consumed; PD45 off. -/
theorem wit_DoorbellsAndHeadWrites :
    (live.domOn 45 = true ∧ (nth live.cp.queues 0).st = .running ∧ (16 - (nth live.cp.queues 0).sqHead).toNat ≤ 2 ^ (nth live.cp.queues 0).sqSize ∧
      2 ^ (nth live.cp.queues 0).sqSize < ((17 : Word) - (nth live.cp.queues 0).sqHead).toNat) ∧
    (let s := live.updQ 7 (fun x => { x with st := .suspended })
     s.domOn 45 = true ∧ (nth s.cp.queues 7).st = .suspended) ∧
    (∀ st ∈ [QState.overrun, .fetchError, .draining, .disabled], let x := nth (live.updQ 7 (fun x => { x with st := st })).cp.queues 7
     x.st = st ∧ 2 ^ x.sqSize < ((17 : Word) - x.sqHead).toNat) ∧
    (let s := (jr live { ent (pk 0 0 []) with queue := 7, posted := true }).updQ 7 (fun x => { x with st := .draining })
     (nth s.cp.queues 7).st = .draining ∧ s.cp.jrn.filter (fun e => !(e.queue == 7 && e.posted && (e.cqPos - 0).toNat < ((1 : Word) - 0).toNat)) = []) ∧
    (live.updDom 45 (fun d => { d with st := .off })).domOn 45 = false ∧
    (nth live.cp.queues 0).st ≠ .draining ∧
    (let s := live.updPwr (fun p => { p with latched := [{ addr := 0x8000 + 0x80 * 7 + 0x14, val := 16 }] })
     7 < 8 ∧ s.domOn 45 = true ∧ s.cp.st = .running ∧ s.pwr.latched = [{ addr := 0x8000 + 0x80 * 7 + 0x14, val := 16 }] ∧
       (nth s.cp.queues 7).st = .running ∧ ((16 : Word) - (nth s.cp.queues 7).sqHead).toNat ≤ 2 ^ (nth s.cp.queues 7).sqSize) := by
  decide +kernel

theorem wit_FetchAcceptsIntoTheJournal :
    let s := live.updQ 7 (fun x => { x with sqTail := 1 })
    7 < 8 ∧ s.cp.st = .running ∧ s.busOk = true ∧ s.domOn 45 = true ∧ (nth s.cp.queues 7).st = .running ∧
      (nth s.cp.queues 7).sqHead ≠ (nth s.cp.queues 7).sqTail ∧ (s.cp.jrn.filter (fun e => e.queue == 7)).length < 32 ∧
      (s.cp.aOk || s.cp.bOk) = true := by decide +kernel

/-- Queue 7 in each state of the statement; a held doorbell within the ring of 16. -/
theorem wit_QueueControl :
    let q (st : QState) : State := live.updQ 7 (fun x => { x with st := st })
    (7 < 8 ∧ live.cp.queues.length = 8 ∧ live.domOn 45 = true ∧ live.cp.eqs.length = 4) ∧
    (nth (q .disabled).cp.queues 7).st = .disabled ∧
    ((nth (jr live { ent (pk 0 0 []) with queue := 7 }).cp.queues 7).st = .running ∧
      (jr live { ent (pk 0 0 []) with queue := 7 }).cp.jrn.filter (fun e => e.queue == 7) ≠ []) ∧
    ((nth (q .fetchError).cp.queues 7).st = .fetchError ∧ (q .fetchError).cp.jrn.filter (fun e => e.queue == 7) = []) ∧
    ((nth (q .suspended).cp.queues 7).st = .suspended ∧ bit (1 : Word).toNat 0 = true ∧ (nth (q .suspended).cp.queues 7).heldTail = none) ∧
    (let s := live.updQ 7 (fun x => { x with st := .suspended, heldTail := some 16 })
     (nth s.cp.queues 7).st = .suspended ∧ (nth s.cp.queues 7).heldTail = some 16 ∧ ((16 : Word) - (nth s.cp.queues 7).sqHead).toNat ≤ 2 ^ 4) ∧
    ((nth (q .suspended).cp.queues 7).heldTail = none ∧ bit (2 : Word).toNat 0 = false ∧ bit (2 : Word).toNat 2 = false) ∧
    (let s := live.updQ 7 (fun x => { x with st := .suspended, heldTail := some 17 })
     (nth s.cp.queues 7).heldTail = some 17 ∧ 2 ^ 4 < ((17 : Word) - (nth s.cp.queues 7).sqHead).toNat ∧ bit (3 : Word).toNat 2 = false) ∧
    ((nth (q .draining).cp.queues 7).st = .draining ∧ (q .disabled).domOn 45 = true) ∧
    (live.updDom 45 (fun d => { d with st := .off })).domOn 45 = false ∧
    (let x := nth (live.updEq 3 (fun x => { x with st := .suspended, held := [{}] })).cp.eqs 3
     x.st = .suspended ∧ x.held ≠ [] ∧ bit (0 : Word).toNat 0 = false ∧ bit (0 : Word).toNat 1 = false) ∧
    ((nth (q .overrun).cp.queues 7).st = .overrun) ∧
    (nth (live.updEq 3 (fun x => { x with st := .disabled })).cp.eqs 3).st = .disabled ∧
    ((nth live.cp.eqs 3).st = .running ∧ (nth live.cp.eqs 3).held = []) ∧
    ((nth (live.updEq 3 (fun x => { x with held := [{}] })).cp.eqs 3).st = .running ∧
      (nth (live.updEq 3 (fun x => { x with held := [{}] })).cp.eqs 3).held ≠ []) ∧
    (nth (live.updEq 3 (fun x => { x with st := .suspended })).cp.eqs 3).st = .suspended := by decide +kernel

/-- A final completion, an interim one, a rolled-back command's, an overrun with nothing else owed, and an event with and without its interrupt; the rings' last free entry. -/
theorem wit_Posting :
    let x (s : State) : Queue := nth s.cp.queues 0
    let postable (s : State) : Bool := (x s).st == .running && decide (((x s).cqTail - (x s).cqHead).toNat < 2 ^ (x s).cqSize) && s.busOk &&
      s.domOn 45 && !(x s).irqEn
    (let e := { ent (pk 0 0 []) with st := .done, finalDue := true }
     let s := (jr live e).updQ 0 (fun x => { x with cqTail := 31 })
     postable s = true ∧ s.cp.current 0 = some e ∧ e.rollbackDue = false ∧ e.acceptedDue = none ∧ e.finalDue = true) ∧
    (let e := { ent (pk 0 0 []) with acceptedDue := some (zeros 16) }
     postable (jr live e) = true ∧ (jr live e).cp.current 0 = some e ∧ e.rollbackDue = false ∧ e.acceptedDue = some (zeros 16)) ∧
    (let e := { ent (pk 0 0 []) with rollbackDue := true, st := .requeued }
     postable (jr live e) = true ∧ (jr live e).cp.current 0 = some e ∧ e.rollbackDue = true) ∧
    (let s := live.updQ 0 (fun x => { x with overrunDue := [17] })
     postable s = true ∧ s.cp.current 0 = none ∧ (x s).overrunDue = [17]) ∧
    (∀ p ∈ [(false, false), (false, true), (true, false), (true, true)], let s := live.updEq 3 (fun x => { x with held := [{}], tail := 31, irqEn := p.1, enable := p.2 })
     3 < s.cp.eqs.length ∧ (nth s.cp.eqs 3).st = .running ∧ (nth s.cp.eqs 3).enable = p.2 ∧
      ((nth s.cp.eqs 3).tail - (nth s.cp.eqs 3).head).toNat < 2 ^ (nth s.cp.eqs 3).size ∧ s.busOk = true ∧ s.domOn 45 = true ∧
      (nth s.cp.eqs 3).held = [{}] ∧ (nth s.cp.eqs 3).irqEn = p.1) := by decide +kernel

theorem wit_EventsAreHeldOrCounted :
    (eqOf 0x21 < live.cp.eqs.length ∧ live.domOn 45 = true ∧ live.pcie.cfg.d3hot = false ∧ (nth live.cp.eqs (eqOf 0x21)).held.length < 256) ∧
    (let s := live.updEq (eqOf 0x21) (fun x => { x with held := List.replicate 256 {} })
     eqOf 0x21 < s.cp.eqs.length ∧ s.domOn 45 = true ∧ s.pcie.cfg.d3hot = false ∧ 256 ≤ (nth s.cp.eqs (eqOf 0x21)).held.length) := by
  decide +kernel

theorem wit_Lockstep :
    (live.cp.st = .running ∧ live.cp.lockstep = true ∧ live.cp.mismatchTb.length < 15) ∧
    (let s := live.updCp (fun c => { c with mismatchTb := List.replicate 15 0 })
     s.cp.st = .running ∧ s.cp.lockstep = true ∧ 15 ≤ s.cp.mismatchTb.length ∧ (∀ x ∈ s.cp.mismatchTb, (s.tb.count - x).toNat < s.fs) ∧ 0 < s.fs) ∧
    (let r : Restart := { kind := 4, mismatch := true }
     let s := live.updCp (fun c => { c with st := .restarting, restart := some r })
     s.cp.restart = some r ∧ s.cp.st = .restarting ∧ s.cp.retiredA = false ∧ s.cp.retiredB = false ∧ r.mismatch = true) := by
  refine ⟨by decide +kernel, ⟨by decide +kernel, by decide +kernel, by decide +kernel, ?_, by decide +kernel⟩, by decide +kernel⟩
  intro x hx
  obtain rfl := List.eq_of_mem_replicate hx
  decide +kernel

theorem wit_EngineEvents :
    let e := ent (pk 0 0 [])
    let s := jr live e
    let t (fs : List Frame) : State := s.updThread 0 (fun x => { x with frames := fs })
    (s.cp.st = .running ∧ s.cp.current 0 = some e ∧ (nth s.cp.threads 0).st ≠ .locked ∧ (nth s.cp.threads 0).frames.length < 2 ∧
      e.finalDue = false ∧ e.wait = none) ∧
    ((t [{}]).cp.current 0 = some e ∧ (nth (t [{}]).cp.threads 0).frames = [{}] ∧ (nth (t [{}]).cp.threads 0).st ≠ .locked) ∧
    ((t [{}, {}]).cp.current 0 = some e ∧ 2 ≤ (nth (t [{}, {}]).cp.threads 0).frames.length ∧ e.lockedOnce = false) ∧
    (let r := { e with st := .requeued }
     let s := jr live r
     s.cp.current 0 = some r ∧ r.st = .requeued ∧ s.cp.st = .running ∧ s.pwr.starting = false ∧ (nth s.cp.queues 0).st ≠ .suspended ∧
       (∀ f ∈ s.cp.jrn, f.st = .requeued → r.idx ≤ f.idx) ∧ fence r.pkt = false) ∧
    (s.cp.aOk = true ∧ s.cp.bOk = true) ∧
    (let s := live.updCp (fun c => { c with bOk := false, bRebuild := true })
     s.cp.aOk = true ∧ s.cp.bOk = false ∧ s.cp.bRebuild = true ∧ s.domOn 43 = true) := by decide +kernel

/-! ### Witnesses: acquisition -/

/-- Group 0 with channel 0 as its member, set for an acquisition of one slot of 16 blocks (or, with mode 3, for a stream of 16-block frames). -/
def rec0 (mode : Word) (s : State) : State :=
  let base : Word := if mode = 3 then 67108864 else 134217728
  [(memberA 0, (0x20 : Word)), (chCfgA 0, BitVec.ofNat 32 ((shReset (chCfgA 0)).toNat ||| 1)), (recA 0 0, mode), (recA 0 4, 0), (recA 0 8, 16),
    (recA 0 0x10, base), (recA 0 0x14, 64), (recA 0 0x18, 0), (recA 0 0x1C, 2), (recA 0 0x20, 16)].foldl (fun s x => s.setReg x.1 x.2) s

theorem wit_ArmAndStreamStart :
    (let s := rec0 0 (on (pk 0x20 0 []))
     pktOk (pk 0x20 0 []) [] = true ∧ s.kpr.alarm = .clear ∧ s.armed 0 = false ∧ s.movePending 0 = false ∧ CmdReady s 0 0x20 (ent (pk 0x20 0 [])) ∧
      (s.acqBoundaryAt 0).armChecks 0 false ((s.acqBoundaryAt 0).layout 0) = OK) ∧
    (let s := rec0 3 (on (pk 0x24 0 []))
     pktOk (pk 0x24 0 []) [] = true ∧ s.kpr.alarm = .clear ∧ s.armed 0 = false ∧ s.movePending 0 = false ∧ CmdReady s 0 0x24 (ent (pk 0x24 0 [])) ∧
      (s.acqBoundaryAt 0).armChecks 0 true ((s.acqBoundaryAt 0).layout 0) = OK) := by
  refine ⟨⟨?_, ?_, ?_, ?_, cmd ?_, ?_⟩, ?_, ?_, ?_, ?_, cmd ?_, ?_⟩ <;> decide +kernel

/-- Group 31 armed; group 31 without members; LOCKDOWN. -/
theorem wit_ArmRefused :
    (∀ op ∈ [0x20, 0x24], let p := pk op 31 []
      (let s := (on p).updRec 31 (fun r => { r with run := some {} })
       pktIndex p = 31 ∧ pktOk p [] = true ∧ s.kpr.alarm = .clear ∧ s.armed 31 = true ∧ CmdReady s 0 op (ent p)) ∧
      (let s := (on p).updKpr (fun k => { k with alarm := .lockdown })
       s.kpr.alarm ≠ .clear ∧ CmdReady s 0 op (ent p))) ∧
    (let s := on (pk 0x20 31 [])
     s.kpr.alarm = .clear ∧ s.armed 31 = false ∧ s.movePending 31 = false ∧
      (s.acqBoundaryAt 31).armChecks 31 false ((s.acqBoundaryAt 31).layout 31) = PARAM_RANGE ∧ PARAM_RANGE ≠ OK ∧ PARAM_RANGE ≠ STATE ∧
      CmdReady s 0 0x20 (ent (pk 0x20 31 []))) := by
  refine ⟨?_, ?_, ?_, ?_, ?_, ?_, ?_, cmd ?_⟩
  · intro op h
    rcases (by simpa using h : op = 0x20 ∨ op = 0x24) with rfl | rfl <;>
      refine ⟨⟨?_, ?_, ?_, ?_, cmd ?_⟩, ?_, cmd ?_⟩ <;> decide +kernel
  all_goals decide +kernel

theorem wit_StartOpensTheAcquisition : 31 < live.rsv.grp.length := by decide +kernel

/-- Group 0 accepting from time 0, before its period, with WAIT 0 and 1, and idle. -/
theorem wit_ForceTrigger :
    let run (w : Nat) (o : Option Nat) : State := ((rec0 0 { on (pk 0x21 0 [(16, 1, w)]) with now := 4096 }).updRec 0 (fun r => { r with run := some { members := [0] } })).updTrg 0
      (fun x => { x with st := .accepting, openAt := o })
    let judged (s : State) : State := (s.updTrg 0 (fun x => { x with qualCnt := satAdd 0xFFFFFFFF x.qualCnt 1 })).outPulse 0 1 (s.forceTime 0) (s.forceTime 0 / 4096 + s.logicBack 0)
    (∀ w ∈ [0, 1], (run w none).closeDue 0 = run w none ∧ (run w (some 0)).closeDue 0 = run w (some 0) ∧ CmdReady (run w none) 0 0x21 (ent (pk 0x21 0 [(16, 1, w)])) ∧ CmdReady (run w (some 0)) 0 0x21 (ent (pk 0x21 0 [(16, 1, w)])) ∧
      PktGood (ent (pk 0x21 0 [(16, 1, w)])) [(16, 1)] (fun p => pktIndex p ≤ 31 && rd p 16 1 < 2) ∧ (run w none).judging 0 = true ∧
      (judged (run w (some 0))).accepting 0 ((run w (some 0)).forceTime 0) = true ∧ (judged (run w none)).accepting 0 ((run w none).forceTime 0) = false ∧
      rd (pk 0x21 0 [(16, 1, w)]) 16 1 = w) ∧
    (let p := pk 0x21 31 []
     CmdReady (on p) 0 0x21 (ent p) ∧ PktGood (ent p) [(16, 1)] (fun p => pktIndex p ≤ 31 && rd p 16 1 < 2) ∧ (on p).judging 31 = false ∧
       (on p).pwr.starting = false) := by
  refine ⟨?_, cmd ?_, good ?_, ?_, ?_⟩
  · intro w h
    rcases (by simpa using h : w = 0 ∨ w = 1) with rfl | rfl <;>
      refine ⟨?_, ?_, cmd ?_, cmd ?_, good ?_, ?_, ?_, ?_, ?_⟩ <;> decide +kernel
  all_goals decide +kernel

/-- Hold-off by time up to its last instant, by count, none, and accepted or not. -/
theorem wit_TriggersAreJudgedOnce :
    let s (f : TrgGrp → TrgGrp) : State := (live.updRec 31 (fun r => { r with run := some { members := [0] } })).updTrg 31 f
    let s' (f : TrgGrp → TrgGrp) : State := ((s f).updTrg 31 (fun x => { x with qualCnt := satAdd 0xFFFFFFFF x.qualCnt 1 })).outPulse 31 1 8 500
    let acc (o : Option Nat) (x : TrgGrp) : TrgGrp := { x with st := .accepting, openAt := o }
    (31 < (s (acc (some 8))).trg.grp.length ∧ 31 < (s (acc (some 8))).rsv.grp.length ∧ (nth (s (acc (some 8))).rsv.grp 31).run = some { members := [0] } ∧
      (nth (s (acc (some 8))).trg.grp 31).st ≠ .streaming) ∧
    (∀ f ∈ [fun x => { x with hoMode := 1, hoEnd := some 9 }, fun x => { x with hoMode := 2, hoLeft := 1 }, acc (some 8), acc none],
      nth (s' f).trg.grp 31 = { nth (s f).trg.grp 31 with qualCnt := satAdd 0xFFFFFFFF (nth (s f).trg.grp 31).qualCnt 1 }) ∧
    ((nth (s (fun x => { x with hoMode := 1, hoEnd := some 9 })).trg.grp 31).hoMode % 2 = 1 ∧ 8 < 9) ∧
    (2 ≤ (nth (s (fun x => { x with hoMode := 2, hoLeft := 1 })).trg.grp 31).hoMode) ∧
    ((nth (s (acc none)).trg.grp 31).hoMode = 0 ∧ (s' (acc none)).accepting 31 8 = false ∧ (s (acc none)).regB (trgA 31 0) 4 = false ∧
      (s' (acc none)).regB (trgA 31 0) 4 = false) ∧
    ((nth (s (acc (some 8))).trg.grp 31).hoMode = 0 ∧ (s' (acc (some 8))).accepting 31 8 = true) := by
  decide +kernel

/-- Commands on an idle group, on one that ends already, on a fill that has ended, in a fill, before one and between the sweeps of a record, and on a stream. -/
theorem wit_StopAndAbort :
    let s (op : Nat) (r : Option Run) (st : TrgSt) (now : Nat) : State :=
      ({ on (pk op 31 []) with now := now }.updRec 31 (fun x => { x with run := r })).updTrg 31 (fun x => { x with st := st })
    let runs (op : Nat) (r : Run) (st : TrgSt) (now : Nat) (ended : Bool) : Bool :=
      let t := (s op (some r) st now).closeDue 31
      decide ((s op (some r) st now).cp.current 0 = some (ent (pk op 31 []))) && (s op (some r) st now).ready 0 (ent (pk op 31 [])) &&
        decide ((nth t.rsv.grp 31).run = some r) && (t.abortForces 31).fillEnded 31 == ended && (nth t.trg.grp 31).st == st
    let filled : Run := { mode := 1, trig := some { t := 0, src := 8 } }
    (∀ op ∈ [0x22, 0x23, 0x25], CmdReady (s op none .idle 0) 0 op (ent (pk op 31 [])) ∧ PktGood (ent (pk op 31 [])) [] (fun p => pktIndex p ≤ 31) ∧
      (nth (s op none .idle 0).rsv.grp 31).run = none) ∧
    (∀ op ∈ [0x22, 0x23], runs op { ending := some .stop } .accepting 0 false = true ∧ runs op { filled with after := some (.abort, 0) } .postFill 1 true = true ∧
      runs op filled .postFill 1 true = true ∧ runs op { mode := 1 } .postFill 1 false = true ∧ runs op { mode := 4, sweeps := 1 } .accepting 1 false = true ∧
      runs op { mode := 0 } .accepting 1 false = true) ∧
    (runs 0x25 { mode := 3 } .streaming 0 false && runs 0x25 { mode := 3, after := some (.stop, 0) } .streaming 1 true &&
      runs 0x25 { mode := 3 } .streaming 1 true && runs 0x22 { mode := 3 } .streaming 0 false && runs 0x25 {} .accepting 0 false &&
      runs 0x23 { mode := 3 } .streaming 0 false) = true ∧
    live.pwr.starting = false ∧
    (live.domOn 45 = true ∧ fld (0xFFFFAB07 : Word).toNat 15 0 = 0xAB07 ∧ fld (0xAB08 : Word).toNat 15 0 ≠ 0xAB07) ∧
    (live.updDom 45 (fun d => { d with st := .off })).domOn 45 = false := by
  refine ⟨?_, ?_, ?_, ?_, ?_, ?_⟩
  · intro op h
    rcases (by simpa using h : op = 0x22 ∨ op = 0x23 ∨ op = 0x25) with rfl | rfl | rfl <;> refine ⟨cmd ?_, good ?_, ?_⟩ <;> decide +kernel
  all_goals decide +kernel

/-- An ended acquisition 1 of group 31 with one complete segment, and a running one whose segment 1 is open. -/
def kept : AcqRec := { group := 31, acqNum := 1, slots := 1, active := false, done := 1, segs := [{ num := 0, st := .complete }] }

theorem wit_RecordCommands :
    (let p := pk 0x28 31 [(16, 4, 1), (20, 4, 0), (24, 4, 16777216)]
     let s := (on p).updRsv (fun r => { r with dir := [kept] })
     CmdReady s 0 0x28 (ent p) ∧ PktGood (ent p) [(16, 4), (20, 4), (24, 4)] (fun p => pktIndex p ≤ 31 && 1 ≤ rd p 24 4 && rd p 24 4 ≤ 16777216) ∧
       s.rsv.find 31 1 = some kept ∧ kept.active = false ∧ (on p).rsv.find 31 1 = none) ∧
    (let p := pk 0x28 31 [(16, 4, 1), (20, 4, 0), (24, 4, 2)]
     let s := ((on p).updRsv (fun r => { r with dir := [{ kept with active := true }] })).updRec 31 (fun r => { r with run := some { acqNum := 1, seg := 1 } })
     CmdReady s 0 0x28 (ent p) ∧ s.rsv.find 31 1 = some { kept with active := true } ∧ s.reached { kept with active := true } = some 1 ∧ 1 < 0 + 2 ∧
       s.pwr.starting = false) ∧
    (let p := pk 0x29 255 []
     CmdReady (on p) 0 0x29 (ent p) ∧ pktOk p [(16, 4), (20, 4), (24, 4), (48, 16)] = true ∧ bulkOk p = true ∧ rd p 16 4 = 0 ∧ rd p 20 8 = 0 ∧
       pktIndex p = 255 ∧ bulkLen p = 0) ∧
    (let p := pk 0x29 31 [(48, 8, 64), (56, 4, 32)]
     let s := (on p).updRsv (fun r => { r with dir := [kept] })
     CmdReady s 0 0x29 (ent p) ∧ pktOk p [(16, 4), (20, 4), (24, 4), (48, 16)] = true ∧ bulkOk p = true ∧ rd p 16 4 = 0 ∧ rd p 20 8 = 0 ∧
       s.busOk = true ∧ (s.rsv.dir.filter (fun a => 31 == 255 || a.group == 31)).take (bulkLen p / 32) ≠ []) ∧
    (let p := pk 0x29 31 [(16, 4, 1), (24, 4, 16777215), (48, 8, 64), (56, 4, 4)]
     let s := (on p).updRsv (fun r => { r with dir := [kept] })
     CmdReady s 0 0x29 (ent p) ∧ pktOk p [(16, 4), (20, 4), (24, 4), (48, 16)] = true ∧ bulkOk p = true ∧ rd p 16 4 ≠ 0 ∧ s.busOk = true ∧
       packCodes ((List.range (min (rd p 24 4) (4 * bulkLen p))).map (fun j => s.segCode (s.rsv.find 31 1) (0 + j))) ≠ []) := by
  refine ⟨⟨cmd ?_, good ?_, ?_, ?_, ?_⟩, ⟨cmd ?_, ?_, ?_, ?_, ?_⟩, ⟨cmd ?_, ?_, ?_, ?_, ?_, ?_, ?_⟩, ⟨cmd ?_, ?_, ?_, ?_, ?_, ?_, ?_⟩,
    cmd ?_, ?_, ?_, ?_, ?_, ?_⟩ <;> decide +kernel

/-! ### Witnesses: boundaries, segments, maps and stacks -/

/-- A unit with these pending generations. -/
def pendingGen (u : Nat) (gens : List Gen) : State := live.updUnit u (fun x => { x with pend := gens })

theorem wit_GenerationAppliesAsOne :
    let g1 : Gen := { num := 1, regs := [(ltnA 0, 5), (ltnA 4, 6)] }
    let s := pendingGen 33 [g1, { num := 2 }]
    s.cfgOk ∧ 33 < s.units.length ∧ (nth s.units 33).pend = g1 :: [{ num := 2 }] ∧ (g1.regs.map Prod.fst).Nodup ∧
      (ltnA 0, (5 : Word)) ∈ g1.regs ∧ ltnA 8 ∉ g1.regs.map Prod.fst := by
  refine ⟨(by decide +kernel : swf shReset _ = true), ?_⟩
  decide +kernel

/-- An idle unit, a pending generation, the next segment, AVERAGE, a boundary after a fill or frame that has ended, one of a frame stored at this instant, and modes
that have none. -/
theorem wit_AcquisitionBoundary :
    let s (now : Nat) (r : Run) (st : TrgSt) : State :=
      ({ live with now := now }.updRec 31 (fun x => { x with run := some r })).updTrg 31 (fun x => { x with st := st })
    let is (now : Nat) (r : Run) (st : TrgSt) (due : Bool) : Bool :=
      decide ((nth (s now r st).rsv.grp 31).run = some r) && (nth (s now r st).trg.grp 31).st == st && (s now r st).boundaryDue 31 r == due
    (32 ≤ 32 ∧ (nth live.rsv.grp 32).run = none) ∧
    (32 < (pendingGen 32 [{ num := 1 }, { num := 2 }]).units.length ∧
      (nth (pendingGen 32 [{ num := 1 }, { num := 2 }]).units 32).pend = { num := 1 } :: [{ num := 2 }]) ∧
    (is 7 { mode := 1, openT := 4096 * 7 } .rearm false && is 0 { mode := 4 } .accepting false && is 1 { mode := 3 } .streaming true &&
      is 200 { mode := 1, segCount := 2, trig := some { t := 0, src := 8 } } .postFill true && is 0 { mode := 3, bndAt := some 0 } .streaming false &&
      is 1 { mode := 0 } .accepting false && is 1 { mode := 2 } .rolling false) = true ∧
    (let s := (pendingGen 31 [{ num := 1 }]).updRec 31 (fun x => { x with run := some { mode := 3, bndAt := some 0 } })
     (nth s.rsv.grp 31).run = some { mode := 3, bndAt := some 0 } ∧ some 0 = some s.now ∧ (nth s.units 31).pend ≠ []) ∧
    (nth live.units 31).pend = [] := by decide +kernel

theorem wit_AcceptanceAndTimeouts :
    let s (now : Nat) (st : TrgSt) (fs : List Nat) : State := ({ live with now := now }.updRec 31 (fun x => { x with run := some { members := [0] } })).updTrg 31
      (fun x => { x with st := st, openAt := some 4096, forces := fs })
    (∀ st ∈ [TrgSt.preFill, .rearm, .accepting], let t := s 1 st []
      t.closeDue 31 = t ∧ 31 < t.trg.grp.length ∧ (nth t.trg.grp 31).st = st ∧ (nth t.trg.grp 31).openAt = some 4096 ∧ 4096 ≤ 4096 * t.now ∧
      (nth t.trg.grp 31).forces = []) ∧
    (let t := s 4096 .preFill [0]
     let t2 := t.updTrg 31 (fun x => { x with st := .accepting })
     t.closeDue 31 = t ∧ t.usedSlots 31 = [] ∧ (nth t.trg.grp 31).forces = 0 :: [] ∧ t2.ceil16 31 4096 < 4096 * (t.now - t.logicBack 31) + 1 ∧
       t2.accepting 31 (t2.ceil16 31 4096) = true) ∧
    (let t := s 4096 .streaming [0]
     t.closeDue 31 = t ∧ (nth t.trg.grp 31).st = .streaming ∧ (nth t.trg.grp 31).forces = 0 :: [] ∧ t.accepting 31 (t.forceTime 31) = true ∧ t.usedSlots 31 = []) ∧
    (∀ o ∈ [0, 1], let s := ((live.updRec 31 (fun x => { x with run := some { slots := 1, openT := o } })).updTrg 31 (fun x => { x with st := .waitFull }))
     (nth s.rsv.grp 31).run = some { slots := 1, openT := o } ∧ (nth s.trg.grp 31).st = .waitFull ∧ s.slotFree 31 { slots := 1, openT := o } = true ∧
       4096 * s.now = 0) ∧
    (let s := ({ live with now := 3 }.setReg (trgA 31 0x14) 2).updTrg 31 (fun x => { x with seqWaitB := true, pos := 8193 })
     (nth s.trg.grp 31).seqWaitB = true ∧ s.reg (trgA 31 0x14) ≠ 0 ∧ (nth s.trg.grp 31).seqStart + 4096 * s.reg (trgA 31 0x14) < (nth s.trg.grp 31).pos) := by
  decide +kernel

/-- TRIG_IN 1 enabled; a group that judges and one that does not; event A of group 31 an edge of slot 0, fed by TRIG_IN 0; a pulse due on TRIG_OUT 1. -/
theorem wit_TriggerEvents :
    (let s := live.setReg (trgA 0 0x394) 1
     s.domOn 43 = true ∧ s.regB (trgA 0 (0x390 + 4 * 1)) 0 = true) ∧
    (live.take []).judging 31 = false ∧
    (let i : InboxItem := { src := 0x80, t := 5 }
     let s := (((((((live.setReg (trgA 31 0x20) 0x80).setReg (trgA 31 0x30) 0xFF).setReg (trgA 31 0x40) 0xFF).setReg (trgA 31 0x50) 0xFF).setReg (trgA 31 0x60) 1).updRec 31
       (fun x => { x with run := some {} })).updTrg 31 (fun x => { x with st := .accepting, inbox := [i] }))
     (s.take []).judging 31 = true ∧ s.judging 31 = true ∧ 31 < s.trg.grp.length ∧ i.program = none ∧ i.ignored = false ∧ i.sets = false ∧
       i.lvlB = false ∧ i.slot = none ∧ i.src = 0x80 ∧ (s.evCfg 31 false).type = 1 ∧ (s.evCfg 31 false).slot = 0 ∧ s.slotSrc 31 0 = i.src ∧
       (s.evCfg 31 false).pol = (if i.rise then 0 else 1) ∧ (s.evCfg 31 true).type = 0 ∧ s.seqMode 31 = 0) ∧
    (nth (live.updOut 1 (fun o => { o with due := [9] })).trg.out 1).due = 9 :: [] := by decide +kernel

/-- One block of channel 0 from a trigger at time 0, in an acquisition, an accumulated record's sweep and a stream, stored and dropped; a queued segment; a
write-out with another behind it; an acquisition that STOP ended with nothing queued, and a ROLL record of no whole block. -/
theorem wit_FillsAndFrames :
    let run (m : Nat) : Run := { acqNum := 1, mode := m, members := [0], slots := 2, area := 4, post := 1, trig := some { t := 0, src := 8 } }
    let a (xs : List Seg) : AcqRec := { group := 0, acqNum := 1, slots := 2, segs := xs }
    let s (r : Run) (xs : List Seg) : State :=
      ((({ (rec0 0 live).updAcqCh 0 (fun c => { c with deadAt := none }) with now := 500 }.updRec 0 (fun x => { x with run := some r })).updRsv (fun x => { x with dir := [a xs] })).updTrg 0
        (fun x => { x with st := .postFill })).take [{ ch := 0, start := 0, samples := List.replicate 41 0 }]
    (∀ m ∈ [0, 4], let t := s (run m) []
      let v := t.asOf 0
      (nth t.rsv.grp 0).run = some (run m) ∧ t.rsv.find 0 1 = some (a []) ∧ (nth t.trg.grp 0).st = .postFill ∧ t.fillEnded 0 = true ∧ t.fillJudged 0 = true ∧
      (v.parts ((run m).members.filter v.produces) (fun n => (v.trigSample n 0 - 0 * v.perBlock n, (0 + 1) * v.perBlock n))).isSome = true) ∧
    (let t := s (run 3) []
     let v := t.asOf 0
     (t.fillLast 0).any (fun last => decide (last < 4096 * t.now)) = true ∧ t.fillJudged 0 = true ∧ (run 3).ending = none ∧ (run 3).dropping = false ∧
       (v.parts ((run 3).members.filter v.produces) (fun n => (v.countLt n 0, 1 * v.perBlock n))).isSome = true) ∧
    (let w : List WriteOut := [{ num := 0 }, { num := 1 }]
     (∀ k ∈ [0, 1], (s { run 4 with writeout := w.drop k } []).closeDue 0 = s { run 4 with writeout := w.drop k } []) ∧ w.drop 1 ≠ []) ∧
    (let r := { run 0 with ending := some .stop }
     (nth ((s r []).closeDue 0).rsv.grp 0).run = some r ∧ (s r []).rsv.find 0 1 = some (a []) ∧ EndReason.stop ≠ .complete ∧ r.mode ≠ 2 ∧ (s r []).drainedAcq 0 r = true) ∧
    (let r := { run 2 with ending := some .stop, endNow := 41 }
     (nth ((s r []).closeDue 0).rsv.grp 0).run = some r ∧ ((s r []).rollParts r).isSome = true) ∧
    (0 < (s (run 0) [{ num := 0 }]).rsv.grp.length ∧ (s (run 0) [{ num := 0 }]).rsv.find 0 1 = some (a [{ num := 0 }]) ∧
      (a [{ num := 0 }]).segs.find? (fun x => x.st == .queued) = some { num := 0 }) := by
  decide +kernel

/-- A fade over; a clear at its end and before it; density mapping with a decay pass due after no sweep, while no pass and while another runs. -/
theorem wit_FadesAndMaps :
    (let s := { live with now := 8 }.updWeir 127 (fun x => { x with fade := some { len := 8 } })
     (nth s.weir 127).fade = some { len := 8 } ∧ s.fading 127 = false) ∧
    (nth live.pond.ch 127).clearEnd ≤ live.now ∧ live.now < (nth (live.updPondCh 127 (fun x => { x with clearEnd := 1 })).pond.ch 127).clearEnd ∧
    (∀ e ∈ [0, 1], let s := (live.setReg (pondA 127 0) 0x1003).updPondCh 127 (fun x => { x with decayEnd := e })
     fld (s.reg (pondA 127 0)) 1 0 = 3 ∧ fld (s.reg (pondA 127 0)) 15 12 ≠ 0 ∧ fld (s.reg (pondA 127 0)) 31 16 ≤ (nth s.pond.ch 127).sweepsSince ∧
       (nth s.pond.ch 127).decayEnd = e ∧ s.now = 0) := by decide +kernel

/-- The first fault with its domain off and on; a second stack; a rebuild that ends. -/
theorem wit_StackFaults :
    (4 < 5 ∧ live.rsv.missing = none ∧ 4 < live.rsv.stk.length ∧ (nth live.rsv.stk 4).st ≠ .failed ∧ live.domOn 41 = true ∧ live.rsv.rebuildRun = false ∧
      live.rsv.secondFault = false) ∧
    (live.updDom 41 (fun d => { d with st := .off })).domOn 41 = false ∧
    (let s := live.updRsv (fun r => { r with missing := some 0 })
     s.rsv.missing = some 0 ∧ 0 ≠ 4 ∧ s.rsv.secondFault = false) ∧
    (let s := live.updRsv (fun r => { r with missing := some 4, rebuildRun := true })
     s.rsv.missing = some 4 ∧ s.rsv.rebuildRun = true ∧ s.domOn (37 + 4) = true) := by decide +kernel

/-! ### Witnesses: calibration, Spring, the timebase, site time and Beacon -/

/-- Lead channel 0 at the end of its first estimator window of n samples, with these spans left out. -/
def windowed (n : Nat) (ws : List (Nat × Nat)) : State :=
  ({ rec0 0 live with now := n }.updTb (fun t => { t with count := 2 ^ 22 })).updAcqCh 0 (fun c =>
    { c with stream := { xs := List.replicate n {} }, windows := ws })

theorem windowed_samples (n : Nat) (hn : n = 2 ^ 22) (ws : List (Nat × Nat)) :
    ∃ l, (windowed n ws).windowSamples 0 n = some l ∧ l.length = n ∧
      ∀ w ∈ l, ∃ i, i < n ∧ w.out = ws.any (fun p => p.1 ≤ i && i < p.2) := by
  have hr : (windowed n ws).rate 0 = 1 := by
    show (rec0 0 live).rate 0 = 1
    decide +kernel
  have hc : nth (windowed n ws).acq.ch 0 = { nth (rec0 0 live).acq.ch 0 with stream := { xs := List.replicate n {} }, windows := ws } := rfl
  have h0 : (nth (rec0 0 live).acq.ch 0).liveAt = 0 := by decide +kernel
  unfold State.windowSamples
  rw [hr, hc]
  simp only [h0, Stream.end_, List.length_replicate]
  have hg : ¬((decide (n < 2 ^ 22) || decide (n - 2 ^ 22 < 0) || decide ((n - 2 ^ 22) * 1 < 0) || decide (0 + n < n * 1)) = true) := by
    simp only [Bool.or_eq_true, decide_eq_true_eq]; omega
  refine ⟨_, if_neg hg, ?_, ?_⟩
  · rw [List.length_map, List.length_range, Nat.mul_one]; exact hn.symm
  intro w hw
  simp only [List.mem_map, List.mem_range] at hw
  obtain ⟨k, hk, rfl⟩ := hw
  refine ⟨(n - 2 ^ 22) * 1 + k, by omega, ?_⟩
  have hx : ∀ j, ((List.replicate n ({} : Conv)).toArray.getD j {}).ovr = false := by
    intro j
    by_cases hj : j < n <;> simp [hj]
  have ho : (nth (rec0 0 live).acq.ch 0).ovrEnd = 0 := by decide +kernel
  simp only [hx, ho]
  simp

theorem take_nothing {s : State} (h : ∀ n, n < 128 → (nth s.pond.ch n).due = []) : s.take [] = s := by
  have go : ∀ l : List Nat, (∀ n ∈ l, n < 128) → forEach l s (fun s n => s.drawDue (1026 * (nth s.pond.ch n).due.length) n) = s := by
    intro l
    induction l with
    | nil => intro _; rfl
    | cons n l ih =>
      intro hl
      have e : (fun (s : State) n => s.drawDue (1026 * (nth s.pond.ch n).due.length) n) s n = s := by
        show s.drawDue (1026 * (nth s.pond.ch n).due.length) n = s
        rw [h n (hl n (List.mem_cons_self ..))]; rfl
      show forEach l ((fun (s : State) n => s.drawDue (1026 * (nth s.pond.ch n).due.length) n) s n) _ = s
      rw [e]
      exact ih (fun m hm => hl m (List.mem_cons_of_mem _ hm))
  exact go _ (fun n hn => List.mem_range.1 hn)

/-- One window run whole and not evaluated: all of it left out, and none of it; the loop's four states below and at each limit. -/
theorem wit_EstimatorWindows :
    ((live.updQuad 31 (fun x => { x with ready := false })).windowsRun 127 = false) ∧
    (∃ e, (rec0 0 live).windowsRun 0 = true ∧ (rec0 0 live).windowEnd = e ∧ e ≤ (nth (rec0 0 live).acq.cal 0).winDone) ∧
    (rec0 0 live).windowSamples 0 0 = none ∧
    (∀ n, n = 2 ^ 22 → ∀ ws, (windowed n ws).windowsRun 0 = true ∧ (windowed n ws).take [] = windowed n ws ∧ (windowed n ws).windowEnd = n ∧
      (nth (windowed n ws).acq.cal 0).winDone < n) ∧
    (∀ n, n = 2 ^ 22 → ∃ l, (windowed n [(0, n)]).windowSamples 0 n = some l ∧ l.length < 8 * l.countP WinSample.out) ∧
    (∀ n, n = 2 ^ 22 → ∃ l, (windowed n []).windowSamples 0 n = some l ∧ 8 * l.countP WinSample.out ≤ l.length) ∧
    (∀ t : State, (((nth t.acq.cal 0).st = .acquiring ∨ (nth t.acq.cal 0).st = .tracking) ∧
        t.regF (weirA 0 0xC0) 18 11 ≤ (nth t.acq.cal 0).sincePrep) ∨
      (nth t.acq.cal 0).sincePrep < t.regF (weirA 0 0xC0) 18 11 ∨ (nth t.acq.cal 0).st ≠ .acquiring ∧ (nth t.acq.cal 0).st ≠ .tracking) ∧
    (let c (st : CalSt) (f : CalCh → CalCh) : CalCh := nth (live.updCal 127 (fun x => f { x with st := st })).acq.cal 127
     8 ≤ (c .acquiring (fun x => { x with runStarved := 8 })).runStarved ∧ 8 ≤ (c .tracking (fun x => { x with runStarved := 8 })).runStarved ∧
       8 ≤ (c .acquiring (fun x => { x with runGood := 8 })).runGood ∧ (c .acquiring (fun x => { x with runGood := 8 })).runStarved < 8 ∧
       4 ≤ (c .tracking (fun x => { x with runBad := 4 })).runBad ∧ 4 ≤ (c .starved (fun x => { x with runNotStarved := 4 })).runNotStarved ∧
       (c .acquiring (fun x => { x with runStarved := 7, runGood := 7 })).runStarved < 8 ∧
       (c .acquiring (fun x => { x with runStarved := 7, runGood := 7 })).runGood < 8 ∧
       (c .tracking (fun x => { x with runStarved := 7, runBad := 3 })).runStarved < 8 ∧ (c .tracking (fun x => { x with runStarved := 7, runBad := 3 })).runBad < 4 ∧
       (c .starved (fun x => { x with runNotStarved := 3 })).runNotStarved < 4 ∧ (c .cold id).st = .cold ∧ (c .frozen id).st = .frozen) := by
  refine ⟨?_, ⟨0, ?_, ?_, ?_⟩, ?_, ?_, ?_, ?_, ?_, ?_⟩
  · decide +kernel
  · decide +kernel
  · decide +kernel
  · decide +kernel
  · decide +kernel
  · intro n hn ws
    have hp : (rec0 0 live).windowsRun 0 = true := by decide +kernel
    have hd : (nth (rec0 0 live).acq.cal 0).winDone = 0 := by decide +kernel
    have hq : ∀ n, n < 128 → (nth (rec0 0 live).pond.ch n).due = [] := by decide +kernel
    refine ⟨hp, take_nothing hq, ?_, ?_⟩
    · show n - (2 ^ 22 : BitVec 64).toNat % 2 ^ 22 = n
      have : (2 ^ 22 : BitVec 64).toNat % 2 ^ 22 = 0 := by decide +kernel
      rw [this, Nat.sub_zero]
    · show (nth (rec0 0 live).acq.cal 0).winDone < n
      rw [hd]; omega
  · intro n hn
    obtain ⟨l, h, hl, ho⟩ := windowed_samples n hn [(0, n)]
    refine ⟨l, h, ?_⟩
    have : l.countP WinSample.out = l.length := List.countP_eq_length.2 (fun w hw => by
      obtain ⟨i, hi, e⟩ := ho w hw
      rw [e]; simp [hi])
    rw [this, hl]; omega
  · intro n hn
    obtain ⟨l, h, hl, ho⟩ := windowed_samples n hn []
    refine ⟨l, h, ?_⟩
    have : l.countP WinSample.out = 0 := List.countP_eq_zero.2 (fun w hw => by
      obtain ⟨i, hi, e⟩ := ho w hw
      rw [e]; simp)
    rw [this]; omega
  · intro t
    by_cases h : t.regF (weirA 0 0xC0) 18 11 ≤ (nth t.acq.cal 0).sincePrep
    · by_cases h1 : (nth t.acq.cal 0).st = .acquiring <;> by_cases h2 : (nth t.acq.cal 0).st = .tracking <;> simp [h, h1, h2]
    · exact .inr (.inl (Nat.lt_of_not_le h))
  · decide +kernel

/-- Foreground calibration under way; a set of one position in channel 127's history; lead channel 0, enabled, in no armed group; channel 1 as
the second of a pair. -/
theorem wit_Calibration :
    (∀ b, (live.updQuad 31 (fun x => { x with fgRun := b })).domOn 31 = true ∧ (nth (live.updQuad 31 (fun x => { x with fgRun := b })).acq.quads 31).fgRun = b) ∧
    ((nth (live.updQuad 31 (fun x => { x with startDue := true })).acq.quads 31).startDue = true) ∧
    (let set : CorrSet := { epoch := 7, p := 1 }
     let s (p : Packet) : State := (on p).updCal 127 (fun c => { c with history := [set] })
     let r (w e len : Nat) : Packet := pk 0x31 127 [(16, 1, w), (18, 2, e), (48, 8, 64), (56, 4, len)]
     (∀ p ∈ [r 0 0 0, r 1 7 0, r 1 7 16, r 1 7 320, r 1 8 0], CmdReady (s p) 0 0x31 (ent p) ∧
       PktGood (ent p) [(16, 1), (18, 2), (48, 16)] (fun p => pktIndex p ≤ 127 && rd p 16 1 ≤ 1 && bulkOk p)) ∧
     (nth (s (r 1 7 0)).acq.cal 127).history.find? (fun x => x.epoch == 7) = some set ∧
     (setImage 127 set).length ≤ 320 ∧ 16 < (setImage 127 set).length ∧ (s (r 1 7 320)).busOk = true ∧
     (nth (s (r 1 8 0)).acq.cal 127).history.find? (fun x => x.epoch == 8) = none) ∧
    (∀ n ∈ [1024, 65536], let p := pk 0x32 0 [(16, 1, 1), (32, 4, n), (48, 8, 64), (56, 4, 512)]
     CmdReady (rec0 0 (on p)) 0 0x32 (ent p) ∧
     PktGood (ent p) [(16, 16), (32, 4), (48, 16)] (fun p => pktIndex p == 0 && rd p 16 16 ≠ 0 && 1024 ≤ rd p 32 4 && rd p 32 4 ≤ 65536 && bulkOk p &&
          (bulkLen p == 0 || bulkLen p == 512)) ∧
     (∀ n ∈ pktMask p, (rec0 0 (on p)).lead n = true ∧ (rec0 0 (on p)).skewOk n = true) ∧ (rec0 0 (on p)).acq.skew = none) ∧
    (let p := pk 0x32 0 [(16, 1, 1), (32, 4, 1024)]
     let s := ({ rec0 0 (on p) with acq := { (rec0 0 (on p)).acq with skew := some {} } } : State)
     CmdReady s 0 0x32 (ent p) ∧ (∀ n ∈ pktMask p, s.lead n = true ∧ s.skewOk n = true) ∧ s.acq.skew.isSome = true) ∧
    (let p := pk 0x32 0 [(16, 1, 2), (32, 4, 1024)]
     let s := (on p).setReg (quadCfgA 0) ((shReset (quadCfgA 0)) + 1)
     CmdReady s 0 0x32 (ent p) ∧
     PktGood (ent p) [(16, 16), (32, 4), (48, 16)] (fun p => pktIndex p == 0 && rd p 16 16 ≠ 0 && 1024 ≤ rd p 32 4 && rd p 32 4 ≤ 65536 && bulkOk p &&
          (bulkLen p == 0 || bulkLen p == 512)) ∧
     (∃ n ∈ pktMask p, s.lead n = false)) ∧
    (∀ r : SkewRun, ({ live with acq := { live.acq with skew := some r } } : State).acq.skew = some r) ∧
    (let e := { ent (pk 0x32 0 []) with wait := some .skew }
     let s := (({ jr live e with acq := { live.acq with skew := some { cmd := some 0, mask := 1, len := 512 } } } : State))
     s.busOk = true ∧ s.jget 0 = some e) := by
  refine ⟨?_, ?_, ⟨?_, ?_, ?_, ?_, ?_, ?_⟩, ?_, ⟨cmd ?_, ?_, ?_⟩, ⟨cmd ?_, good ?_, 1, ?_⟩, fun _ => rfl, ?_⟩
  · decide +kernel
  · decide +kernel
  · intro p h
    simp only [List.mem_cons, List.not_mem_nil, or_false] at h
    rcases h with rfl | rfl | rfl | rfl | rfl <;> refine ⟨cmd ?_, good ?_⟩ <;> decide +kernel
  · decide +kernel
  · decide +kernel
  · decide +kernel
  · decide +kernel
  · decide +kernel
  · intro n h
    simp only [List.mem_cons, List.not_mem_nil, or_false] at h
    rcases h with rfl | rfl <;> refine ⟨cmd ?_, good ?_, ?_, ?_⟩ <;> decide +kernel
  all_goals decide +kernel

/-- N_INT 2,048 at 10 MHz is in range, 4,096 is not; SET_REFERENCE with WHICH 2, 8, 1 and 9; comparisons that find lock and that do not. -/
theorem wit_Relocks :
    (∀ n ∈ [2048, 4096], let p := pk 0x10 0 [(16, 2, n), (24, 1, 1)]
     CmdReady (on p) 0 0x10 (ent p) ∧
     PktGood (ent p) [(16, 2), (20, 4), (24, 1)] (fun p => pktIndex p == 0 && 128 ≤ rd p 16 2 && rd p 16 2 ≤ 4096 && rd p 20 4 < 2 ^ 24 && rd p 24 1 < 2)) ∧
    (pllOk live.spr.nomHz live.spr.rdiv 2048 0 = true ∧ live.relockBusy = false ∧ live.domOn 42 = true ∧ pllOk live.spr.nomHz live.spr.rdiv 4096 0 = false ∧
      live.pwr.starting = false) ∧
    (let p := pk 0x10 0 [(16, 2, 2048)]
     let s := (on p).updSpr (fun x => { x with relock := some .buffered })
     CmdReady s 0 0x10 (ent p) ∧ s.relockBusy = true ∧ s.pwr.starting = false) ∧
    (let p := pk 0x11 0 [(16, 1, 2), (22, 2, 16), (32, 1, 64)]
     CmdReady (on p) 0 0x11 (ent p) ∧ PktGood (ent p) [(16, 20)] (fun p => pktIndex p == 0 && refFieldsOk p) ∧ (on p).domOn 42 = true ∧
       (if bit (rd p 16 1) 3 then rd p 33 1 else 0) = 0 ∧ bit (rd p 16 1) 0 = false) ∧
    (∀ a ∈ [1, 2], let p := pk 0x11 0 [(16, 1, 8), (33, 1, a)]
     let s := (on p).updSpr (fun x => { x with jumpValid := true })
     CmdReady s 0 0x11 (ent p) ∧ PktGood (ent p) [(16, 20)] (fun p => pktIndex p == 0 && refFieldsOk p) ∧ s.returnOk a = true ∧ bit (rd p 16 1) 0 = false ∧
       (on p).returnOk a = false ∧ CmdReady (on p) 0 0x11 (ent p) ∧ (on p).pwr.starting = false ∧ (if bit (rd p 16 1) 3 then rd p 33 1 else 0) = a) ∧
    (∀ w ∈ [1, 9], let p := pk 0x11 0 [(16, 1, w), (17, 1, 3), (18, 1, 2), (20, 2, 2048), (28, 4, 20000000)]
     CmdReady (on p) 0 0x11 (ent p) ∧ PktGood (ent p) [(16, 20)] (fun p => pktIndex p == 0 && refFieldsOk p) ∧ bit (rd p 16 1) 0 = true ∧
       (if bit (rd p 16 1) 3 then rd p 33 1 else 0) = 0 ∧
       pllOk (rd p 28 4) (rd p 18 1) (rd p 20 2) (rd p 24 4) = true ∧ (on p).sameVco (rd p 28 4) (rd p 18 1) (rd p 20 2) (rd p 24 4) = true ∧
       (on p).relockBusy = false ∧
       CmdReady ((on p).updSpr (fun x => { x with refOk := false })) 0 0x11 (ent p) ∧ ((on p).updSpr (fun x => { x with refOk := false })).relockBusy = true) ∧
    (let p := pk 0x11 0 [(16, 1, 1), (17, 1, 3), (18, 1, 2), (20, 2, 4096), (28, 4, 20000000)]
     CmdReady (on p) 0 0x11 (ent p) ∧ PktGood (ent p) [(16, 20)] (fun p => pktIndex p == 0 && refFieldsOk p) ∧ bit (rd p 16 1) 0 = true ∧
       pllOk (rd p 28 4) (rd p 18 1) (rd p 20 2) (rd p 24 4) = false) ∧
    (let s := live.updSpr (fun x => { x with relock := some .buffered, next := some (3, 1, 2048, 0, 10000000) })
     s.spr.relock = some .buffered ∧ s.spr.next = some (3, 1, 2048, 0, 10000000)) ∧
    (∀ st ∈ [SprSt.start, .relock], let s := live.updSpr (fun x => { x with st := st, lock := false, relock := if st = .start then none else some .gated })
     s.domOn 42 = true ∧ s.spr.st = st ∧ (st ≠ .start → s.spr.relock = some .gated) ∧ s.spr.refOk = true ∧
       (s.compareAll [{ err := 0, edges := s.spr.lockCnt }]).spr.lock = true ∧ (s.compareAll [{ err := 0, edges := s.spr.lockCnt - 1 }]).spr.lock = false) ∧
    (let s := live.updSpr (fun x => { x with st := .freeRun })
     s.spr.st = .freeRun ∧ s.anyArmed = false ∧ (armedLive.updSpr (fun x => { x with st := .freeRun })).spr.st = .freeRun ∧
       (armedLive.updSpr (fun x => { x with st := .freeRun })).anyArmed = true) := by
  refine ⟨?_, ?_, ⟨cmd ?_, ?_, ?_⟩, ⟨cmd ?_, good ?_, ?_, ?_, ?_⟩, ?_, ?_, ⟨cmd ?_, good ?_, ?_, ?_⟩, ?_, ?_, ?_⟩
  · intro n h
    simp only [List.mem_cons, List.not_mem_nil, or_false] at h
    rcases h with rfl | rfl <;> refine ⟨cmd ?_, good ?_⟩ <;> decide +kernel
  rotate_left 9
  · intro n h
    simp only [List.mem_cons, List.not_mem_nil, or_false] at h
    rcases h with rfl | rfl <;> refine ⟨cmd ?_, good ?_, ?_, ?_, ?_, cmd ?_, ?_, ?_⟩ <;> decide +kernel
  · intro n h
    simp only [List.mem_cons, List.not_mem_nil, or_false] at h
    rcases h with rfl | rfl <;> refine ⟨cmd ?_, good ?_, ?_, ?_, ?_, ?_, ?_, cmd ?_, ?_⟩ <;> decide +kernel
  all_goals decide +kernel

/-- Sixteen comparisons just beyond eight times LOCK_WIN, and at it; each mode of the return; a slew gone and a slew going on. -/
theorem wit_ReferenceAndClockEvents :
    let s (f : Spring → Spring) : State := live.updSpr f
    (live.spr.lock = true ∧ live.spr.relock = none ∧ live.spr.lossAt = none ∧
      (live.compareAll [{ err := 8 * live.spr.lockWin + 1, edges := 16 }]).spr.lock = false ∧ (live.compareAll [{ err := 8 * live.spr.lockWin, edges := 16 }]).spr.lock = true) ∧
    ((s (fun x => { x with lossAt := some 0 })).spr.lossAt = some 0 ∧ ((live.now - 0 : Nat) : Rat) ≤ 60 * (s (fun x => { x with lossAt := some 0 })).fsQ ∧
      ((s (fun x => { x with lossAt := some 0 })).compareAll [{ err := 8 * live.spr.lockWin + 1, edges := 16 }]).spr.lock = false) ∧
    (live.spr.refOk = true ∧ live.spr.st = .locked ∧ (s (fun x => { x with st := .freeRun })).spr.st = .freeRun) ∧
    (∀ m ∈ [0, 1, 2], let s' := ((s (fun x => { x with st := .holdover, retMode := m })).updSpr
          (fun x => { x with refOk := true, jump := 0, jumpTb := 0, jumpValid := true })).measureRef.event 0x21 0 none 0 []
      (s (fun x => { x with st := .holdover, retMode := m })).spr.st = .holdover ∧ s'.spr.stuck = false ∧ s'.spr.retMode = m) ∧
    (((s (fun x => { x with st := .slewing })).spr.st = .slewing ∧ (s (fun x => { x with st := .slewing })).slewLeft = 0) ∧
      (s (fun x => { x with st := .slewing, slewFs := 1 })).slewLeft ≠ 0) ∧
    (let s := pendingGen 35 [{ num := 1 }]
     (nth s.units 35).pend = { num := 1 } :: [] ∧ s.dividerDue = true ∧ s.pwr.outsDue = false ∧ s.spr.lock = true ∧ s.spr.relock = none ∧ s.domOn 42 = true) ∧
    (let s := live.updTb (fun t => { t with count := BitVec.ofNat 64 (2 ^ 64 - 16) })
     s.tb.counting = true ∧ 2 ^ 64 ≤ s.tb.count.toNat + 16) := by decide +kernel

/-- FRAC 4,095 is the last of MANUAL; a member, a PPS_IN that is off and an armed group; an edge of the selected polarity; PPS_OUT in MODE 1 with an
anchor, and in MODE 2; TB_NOW counting, gated and stopped. -/
theorem wit_SiteTime :
    (let s (p : Packet) : State := (on p).updTb (fun t => { t with ppsEn := true })
     let member (p : Packet) : State := (on p).updBcn (fun b => { b with role := 2 })
     let m := pk 0x3A 0 [(24, 8, 5)]
     let l := pk 0x3A 0 [(16, 1, 1), (24, 8, 5), (32, 8, 2 ^ 63)]
     let n := pk 0x3A 0 [(16, 1, 2), (40, 2, 4095)]
     let a := (s l).updRec 0 (fun r => { r with run := some {} })
     live.domOn 43 = true ∧ live.bcn.role ≠ 2 ∧ (s m).tb.ppsEn = true ∧ (s l).anyArmed = false ∧ live.pwr.starting = false ∧
     CmdReady (s m) 0 0x3A (ent m) ∧ rd m 16 1 = 0 ∧ PktGood (ent m) timeSpans (fun p => pktIndex p == 0 && rd p 16 1 == 0 && rd p 32 8 == 0 && rd p 40 2 == 0) ∧
     CmdReady (s l) 0 0x3A (ent l) ∧ rd l 16 1 = 1 ∧ PktGood (ent l) timeSpans (fun p => pktIndex p == 0 && rd p 40 2 == 0) ∧
     CmdReady (s n) 0 0x3A (ent n) ∧ rd n 16 1 = 2 ∧ PktGood (ent n) timeSpans (fun p => pktIndex p == 0 && rd p 40 2 < 4096) ∧
     CmdReady (member m) 0 0x3A (ent m) ∧ CmdReady (member l) 0 0x3A (ent l) ∧ CmdReady (member n) 0 0x3A (ent n) ∧ (member n).bcn.role = 2 ∧
     CmdReady (on m) 0 0x3A (ent m) ∧ live.tb.ppsEn = false ∧ CmdReady a 0 0x3A (ent l) ∧ a.anyArmed = true) ∧
    (∀ w ∈ [Wait.timeMap, .timeLoad], let e := { ent (pk 0x3A 0 []) with wait := some w }
     (jr live e).cp.current 0 = some e ∧ e.wait = some w) ∧
    (let s := live.updTb (fun t => { t with ppsEn := true })
     s.domOn 43 = true ∧ s.tb.ppsEn = true ∧ true = (s.tb.ppsEdge == 0)) ∧
    (∃ b g, (live.updTb (fun t => { t with outMode := 1, anchorValid := true })).ppsGrid = some (b, g) ∧ g ≠ 0) ∧
    (∃ b g, (live.updTb (fun t => { t with outMode := 2, outPeriod := 1024 })).ppsGrid = some (b, g) ∧ g ≠ 0) ∧
    (let s := (live.updTb (fun t => { t with ptmEn := true })).updPcie (fun p => { p with cfg := { p.cfg with ptmEn := true } })
     s.domOn 43 = true ∧ s.tb.ptmEn = true ∧ s.pcie.cfg.ptmEn = true ∧ s.busOk = true) ∧
    (live.tb.counting = true ∧ live.tb.wrapAt = none ∧ (live.updTb (fun t => { t with counting := false })).tb.counting = false ∧ live.spr.relock ≠ some .gated) := by
  refine ⟨⟨?_, ?_, ?_, ?_, ?_, cmd ?_, ?_, good ?_, cmd ?_, ?_, good ?_, cmd ?_, ?_, good ?_, cmd ?_, cmd ?_, cmd ?_, ?_, cmd ?_, ?_, cmd ?_, ?_⟩, ?_, ?_,
    ⟨_, _, rfl, ?_⟩, ⟨_, _, rfl, ?_⟩, ?_, ?_⟩ <;> decide +kernel

/-- A Beacon frame of zeros with PAY_SEQ i and its CRC. -/
def frame0 (i crc : Nat) : List Byte := image 32 [(0, 1, 0xBC), (1, 1, i), (30, 1, crc), (31, 1, 0xFD)]
def crcOf (i : Nat) : Nat := (crc8 (((frame0 i 0).drop 1).take 29))

/-- A table in range, and one whose quiet window is not; a port that is up and one that is not; a report of one entry and of none. -/
theorem wit_BeaconCommands :
    (∀ w ∈ [0, 6400], let p := pk 0x38 0 [(16, 1, 32), (48, 8, 64), (56, 4, 128)]
     let tbl := image 128 [(80, 4, w), (84, 4, 1)]
     let b := padTo (bulkLen p) tbl
     (on p).busOk = true ∧ CmdReady (on p) 0 0x38 (ent p) ∧
     PktGood (ent p) [(16, 1), (48, 16)] (fun p => pktIndex p == 0 && rd p 16 1 < 64 && bulkOk p && bulkLen p == 128) ∧ (on p).domOn 43 = true ∧
     (beaconTableOk 32 b && ppsOutOk (if bit 32 3 then fld (rd b 48 4) 1 0 else (on p).tb.outMode) (if bit 32 3 then rd b 56 8 else (on p).tb.outPeriod) &&
        (!bit 32 5 || qwOk (rd b 80 4) (rd b 84 4))) = (w == 0 : Bool)) ∧
    (∀ act ∈ [0, 1], let p := pk 0x39 0 [(16, 1, 8), (17, 1, 24), (18, 1, act)]
     let up := ((on p).updPort 3 (fun x => { x with link := .up })).updBcn (fun b => { b with role := 2, upPort := some 3 })
     let bad (s : State) : Bool := !s.spr.lock || (allBelow 4 (bit 8)).any (fun p => (nth s.bcn.ports p).link ≠ .up) ||
       (act = 1 && !(s.bcn.role = 2 && s.bcn.upPort.isSome))
     CmdReady up 0 0x39 (ent p) ∧ CmdReady (on p) 0 0x39 (ent p) ∧
     PktGood (ent p) [(16, 1), (17, 1), (18, 1), (48, 16)]
        (fun p => pktIndex p == 0 && 1 ≤ rd p 16 1 && rd p 16 1 < 16 && 10 ≤ rd p 17 1 && rd p 17 1 ≤ 24 && rd p 18 1 ≤ 1 && bulkOk p) ∧
     bad up = false ∧ bad (on p) = true ∧ up.domOn 43 = true ∧ up.bcn.meas = none ∧ (on p).pwr.starting = false) ∧
    (∀ act ∈ [0, 1], ∀ len ∈ [0, 32], let e := { ent (pk 0x39 0 [(56, 4, len)]) with wait := some .beacon }
     let m : BcnMeas := { cmd := 0, mask := 8, left := 0, action := act }
     let s := (jr live e).updBcn (fun b => { b with meas := some m, upPort := some 3 })
     s.bcn.meas = some m ∧ m.left = 0 ∧ s.jget m.cmd = some e ∧ s.bcn.upPort = some 3 ∧ s.busOk = true ∧
       (((allBelow 4 (bit m.mask)).map (fun p => (nth s.bcn.ports p).entry)).take (bulkLen e.pkt / 32)).flatten.length = len) := by
  refine ⟨?_, ?_, ?_⟩
  · intro n h
    simp only [List.mem_cons, List.not_mem_nil, or_false] at h
    rcases h with rfl | rfl <;> refine ⟨?_, cmd ?_, good ?_, ?_, ?_⟩ <;> decide +kernel
  · intro n h
    simp only [List.mem_cons, List.not_mem_nil, or_false] at h
    rcases h with rfl | rfl <;> refine ⟨cmd ?_, cmd ?_, good ?_, ?_, ?_, ?_, ?_, ?_⟩ <;> decide +kernel
  · decide +kernel

/-- Port 3 in each state of the statement, in and out of a quiet window. -/
theorem wit_BeaconPorts :
    let port (f : BcnPort → BcnPort) : State := live.updPort 3 (fun x => f { x with en := true })
    ((port id).domOn 43 = true ∧ (nth (port id).bcn.ports 3).en = true ∧ (nth (port id).bcn.ports 3).failed = false ∧ (port id).tb.counting = true ∧
      (nth (port id).bcn.ports 3).qwGate = false ∧ (nth (port id).bcn.ports 3).resync = false) ∧
    (let s := ((port (fun x => { x with qwGate := true })).updBcn (fun b => { b with role := 1 })).updTb (fun t => { t with qwPeriod := 7680, qwLen := 1280 })
     (nth s.bcn.ports 3).qwGate = true ∧ s.bcn.role = 1 ∧ s.tb.inQuiet (s.tb.count.toNat - s.tb.count.toNat % 1280) = true) ∧
    ((nth (port (fun x => { x with resync := true })).bcn.ports 3).resync = true) ∧
    (frameOk (frame0 0 0) = true ∧ frameOk ((frame0 0 0).drop 1) = false ∧ live.spr.fallback = false ∧ frameCrcOk (frame0 0 (crcOf 0 + 1)) = false ∧
      frameOk (frame0 0 (crcOf 0 + 1)) = true ∧ 3 < (port id).bcn.ports.length) ∧
    (let f := frame0 14 (crcOf 14)
     frameOk f = true ∧ frameCrcOk f = true ∧ fld (rd f 1 1) 3 0 ≠ 15) ∧
    (let s := port (fun x => { x with validRun := 63, link := .training })
     63 ≤ (nth s.bcn.ports 3).validRun ∧ (nth s.bcn.ports 3).link = .training ∧ 3 < s.bcn.ports.length) ∧
    (∀ l ∈ [BcnLink.up, .training, .rateMismatch, .down], (nth (port (fun x => { x with link := l })).bcn.ports 3).link = l ∧
      (port (fun x => { x with link := l })).domOn 43 = true) ∧
    (let off := live.updPwr (fun p => { p with starting := true })
     (nth off.bcn.ports 3).en = false ∧ off.pwr.starting = true ∧ (nth off.bcn.ports 3).link ≠ .up ∧ (nth off.bcn.ports 3).failed = false ∧ off.domOn 43 = true) ∧
    ((port id).bcn.ports.any BcnPort.failed = false ∧ ((port id).updPort 0 (fun x => { x with failed := true })).bcn.ports.any BcnPort.failed = true) ∧
    (∀ tb ∈ [none, some 0], let s := port (fun x => { x with link := .up, accN := 262144, arrTb := tb })
     s.bcn.frames 3 ≤ (nth s.bcn.ports 3).accN ∧ (nth s.bcn.ports 3).arrTb = tb) := by decide +kernel

/-! ### Witnesses: display, lamp matrix, monitoring and power -/

/-- The display enabled with AUTO scan, both outputs enabled, four lanes of the top rate allowed and a watermark set. -/
def display (f : Ltn → Ltn) : State := (live.setReg (ltnA 0) 0x103F1).updLtn f

theorem wit_Display :
    live.domOn 46 = true ∧
    (let p := pk 0x4A 1 [(16, 1, 0), (17, 1, 4), (48, 8, 64), (56, 4, 512)]
     let z := pk 0x4A 1 [(17, 1, 1)]
     let up (p : Packet) : State := (on p).updDp 1 (fun d => { d with hpd := true })
     CmdReady (on p) 0 0x4A (ent p) ∧ CmdReady (up p) 0 0x4A (ent p) ∧ CmdReady (up z) 0 0x4A (ent z) ∧
     PktGood (ent p) [(16, 1), (17, 1), (48, 16)]
        (fun p => pktIndex p ≤ 1 && 1 ≤ rd p 17 1 && rd p 17 1 ≤ 4 && bulkOk p && (bulkLen p == 0 || 128 * rd p 17 1 ≤ bulkLen p)) ∧
     PktGood (ent z) [(16, 1), (17, 1), (48, 16)]
        (fun p => pktIndex p ≤ 1 && 1 ≤ rd p 17 1 && rd p 17 1 ≤ 4 && bulkOk p && (bulkLen p == 0 || 128 * rd p 17 1 ≤ bulkLen p)) ∧
     ((on p).pwr.starting = false ∧ (nth (on p).ltn.dp 1).hpd = false ∧ (nth (up p).ltn.dp 1).hpd = true ∧ bulkLen p ≠ 0 ∧
      (padTo (128 * rd p 17 1) []).isEmpty = false ∧ (up p).busOk = true ∧ bulkLen z = 0)) ∧
    ((∀ v ∈ [false, true], (display (fun l => { l with scanning := true, vblank := v })).ltn.scanning = true ∧
        (display (fun l => { l with scanning := true, vblank := v })).ltn.stopped = false ∧ (display (fun l => { l with scanning := true, vblank := v })).ltn.vblank = v) ∧
      (display id).ltn.scanning = false ∧ (display (fun l => { l with passRun := true })).ltn.passRun = true ∧ (display id).spr.fallback = false ∧
      (display (fun l => { l with passRun := true })).ltn.owed = false ∧ (display (fun l => { l with scanning := true })).fetching = true ∧
      (display (fun l => { l with scanning := true })).ltn.urgent = false ∧ (display (fun l => { l with scanning := true })).regF (ltnA 0) 16 10 ≠ 0) ∧
    (let s (st : DpSt) (h : Bool) : State := (display id).updDp 1 (fun d => { d with st := st, hpd := h })
     1 < (s .off true).ltn.dp.length ∧ (s .off true).dpEn 1 = true ∧ (nth (s .off true).ltn.dp 1).failed = false ∧ (nth (s .off true).ltn.dp 1).st ≠ .up ∧
      (nth (s .off true).ltn.dp 1).st ≠ .training ∧ (nth (s .training true).ltn.dp 1).st = .training ∧ (s .training true).linkFits 2 3 = true ∧
      (nth ((s .up true).updDp 1 (fun d => { d with hpd := false })).ltn.dp 1).st = .up ∧
      (nth ((s .training true).updDp 1 (fun d => { d with hpd := false })).ltn.dp 1).st = .training ∧ (nth (s .up true).ltn.dp 1).st = .up ∧
      (nth (s .lost true).ltn.dp 1).st = .lost ∧ (nth (s .lost true).ltn.dp 1).hpd = true ∧ (nth (s .lost true).ltn.dp (1 - 1)).failed = false ∧
      (nth ((s .lost true).updDp 0 (fun d => { d with failed := true })).ltn.dp (1 - 1)).failed = true) := by
  refine ⟨?_, ⟨cmd ?_, cmd ?_, cmd ?_, good ?_, good ?_, ?_⟩, ?_, ?_⟩ <;> decide +kernel

/-- Row slot 15 and diagnostic slots 14 and 15 with no quiet window; a frame's end with and without a pending generation; the matrix stopped and run. -/
theorem wit_Lamp :
    let s (f : Lamp → Lamp) : State := live.updLamp f
    live.domOn 47 = true ∧
    ((s (fun l => { l with slot := some 15 })).lamp.slot = some 15 ∧ (s (fun l => { l with slot := some 15 })).qwStarves = false ∧
      ((s (fun l => { l with slot := some 15 })).updLamp (fun l => { l with starved := false })).slotFits (256 + 2 * (s id).rowGuard) = true) ∧
    (∀ r ∈ [14, 15], (s (fun l => { l with diagSlot := some r })).lamp.diagSlot = some r ∧ (s (fun l => { l with diagSlot := some r })).qwStarves = false ∧
      ((s (fun l => { l with diagSlot := some r })).updLamp (fun l => { l with starved := false })).slotFits ((s id).pulseTicks + 2 * (s id).rowGuard) = true) ∧
    ((s (fun l => { l with st := .rows, slot := some 16 })).lamp.st ≠ .stopped ∧ (s (fun l => { l with st := .rows, slot := some 16 })).lamp.slot = some 16 ∧
      (nth (s id).units 34).pend = [] ∧ (nth (pendingGen 34 [{ num := 1 }]).units 34).pend = { num := 1 } :: []) ∧
    ((s id).lamp.st = .stopped ∧ (s id).lampCurrent.lampRun = false ∧ ((live.setReg (lampA 0) 0x10101).lampCurrent).lampRun = true) ∧
    (let x := live.setReg (lampA 0) 0x10103
     x.lampExt = true ∧ (x.updLamp (fun l => { l with st := .waitSync })).lamp.st = .waitSync ∧ (x.updLamp (fun l => { l with st := .rows })).lamp.st = .rows) := by
  decide +kernel

theorem wit_Monitoring :
    (live.domOn 48 = true ∧ live.buoy.st = .idle ∧ (live.updBuoy (fun b => { b with st := .scanning })).buoy.st = .scanning ∧
      (live.updBuoy (fun b => { b with st := .urgent })).buoy.st = .urgent ∧ live.buoy.input = 0) ∧
    (let z := pk 0x58 0 [(16, 8, 2 ^ 64 - 1), (24, 1, 3), (28, 4, 1000000)]
     let t := pk 0x58 0 [(28, 4, 0), (48, 8, 64), (56, 4, 512)]
     CmdReady (on z) 0 0x58 (ent z) ∧ CmdReady (on t) 0 0x58 (ent t) ∧
     PktGood (ent z) [(16, 8), (24, 1), (28, 4), (48, 16)]
          (fun p => pktIndex p == 0 && rd p 24 1 ≤ 3 && rd p 28 4 ≤ 1000000 && bulkOk p && (bulkLen p == 0 || bulkLen p == 512)) ∧
     PktGood (ent t) [(16, 8), (24, 1), (28, 4), (48, 16)]
          (fun p => pktIndex p == 0 && rd p 24 1 ≤ 3 && rd p 28 4 ≤ 1000000 && bulkOk p && (bulkLen p == 0 || bulkLen p == 512)) ∧
     (bulkLen z = 0 ∧ bulkLen t = 512 ∧ (on t).busOk = true ∧ (List.range 64).all (limEntryOk (padTo 512 [])) = true)) ∧
    (∀ u ∈ [0, 1], ∀ st ∈ [BuoySt.idle, BuoySt.scanning, BuoySt.urgent], let p := pk 0x59 0 [(16, 1, 63), (17, 1, u)]
     let s := (on p).updBuoy (fun b => { b with st := st })
     CmdReady s 0 0x59 (ent p) ∧ PktGood (ent p) [(16, 1), (17, 1)] monitorOk ∧ rd p 17 1 = u ∧ s.buoy.st = st) ∧
    (let s := live.updDom 48 (fun d => { d with st := .off })
     s.domOn 48 = false ∧ s.domOn 49 = true) ∧
    (let s := live.updPwr (fun p => { p with st := .standby })
     s.pwr.st = .standby ∧ bit s.kpr.srcNow 2 = false ∧ bit (s.updKpr (fun k => { k with srcNow := 4 })).kpr.srcNow 2 = true) := by
  refine ⟨?_, ⟨cmd ?_, cmd ?_, good ?_, good ?_, ?_⟩, ?_, ?_, ?_⟩
  rotate_left 6
  · intro u h st h'
    simp only [List.mem_cons, List.not_mem_nil, or_false] at h h'
    rcases h with rfl | rfl <;> rcases h' with rfl | rfl | rfl <;> refine ⟨cmd ?_, good ?_, ?_, ?_⟩ <;> decide +kernel
  all_goals decide +kernel

/-- POWER_STATE to each state; a part that is busy; DOMAIN_CONTROL of PD46 and of PD37, which R326 refuses. -/
theorem wit_Power :
    (∀ t ∈ [0, 1, 2, 3], let p := pk 0x60 0 [(16, 1, t)]
     CmdReady (on p) 0 0x60 (ent p) ∧ PktGood (ent p) [(16, 1)] (fun p => pktIndex p == 0 && rd p 16 1 ≤ 3) ∧ (on p).pwr.trans = none ∧ (on p).pwr.starting = false ∧
       (on p).powerBusy t = false ∧ (t ≠ 0 → PowerSt.ofCode t ≠ (on p).pwr.st ∧
         (powerSteps (on p).pwr.activeMask (on p).pwr.st (PowerSt.ofCode t)).isSome = true ∧ armedLive.powerBusy t = true)) ∧
    (PowerSt.ofCode 0 = live.pwr.st ∧ (live.updPwr (fun p => { p with trans := some {} })).pwr.trans.isSome = true) ∧
    (∀ m ∈ [(0, 2 ^ 46), (2 ^ 46, 0), (2 ^ 37, 0)], let p := pk 0x61 0 [(16, 8, m.1), (24, 8, m.2)]
     CmdReady (on p) 0 0x61 (ent p) ∧
     PktGood (ent p) [(16, 8), (24, 8)] (fun p =>
        pktIndex p == 0 && rd p 16 8 ||| rd p 24 8 < 2 ^ 50 && rd p 16 8 &&& rd p 24 8 == 0 &&
          (rd p 16 8 ||| rd p 24 8) &&& (maskOf 45 42 ||| maskOf 49 48) == 0) ∧
     (on p).domainBusy m.1 m.2 = (m.1 == 2 ^ 37)) ∧
    (let s (st : PStep) : State := (live.updDom 46 (fun d => { d with st := .ramp })).updPwr (fun p => { p with trans := some { steps := [st], cause := 0 } })
     (s (.on 46)).pwr.trans = some { steps := .on 46 :: [], cause := 0 } ∧ (nth (s (.on 46)).pwr.doms 46).st = .ramp ∧
       (s (.off 46)).pwr.trans = some { steps := .off 46 :: [], cause := 0 } ∧ (nth (s (.off 46)).pwr.doms 46).st = .ramp) ∧
    ((nth (live.updDom 46 (fun d => { d with restarting := true })).pwr.doms 46).restarting = true) ∧
    (48 < 49 ∧ live.domOn 48 = true ∧ live.pwr.trans = none ∧ live.pwr.restartDue = []) := by
  refine ⟨?_, ?_, ?_, ?_, ?_, ?_⟩
  rotate_left 2
  · intro m h
    simp only [List.mem_cons, List.not_mem_nil, or_false] at h
    rcases h with rfl | rfl | rfl <;> refine ⟨cmd ?_, good ?_, ?_⟩ <;> decide +kernel
  rotate_left 3
  · intro t h
    simp only [List.mem_cons, List.not_mem_nil, or_false] at h
    rcases h with rfl | rfl | rfl | rfl <;> refine ⟨cmd ?_, good ?_, ?_, ?_, ?_, ?_⟩ <;> decide +kernel
  all_goals decide +kernel

/-- An image of no byte fails check 1; whether one passes rests on the signature functions, which the manual names and does not define, so that each of
the first two clauses on images has its other hypotheses here. -/
theorem wit_ResetsAndStartUp :
    let pins (a b : Bool) : State := live.updPwr (fun p => { p with resetN := a, perstN := b })
    ((pins true true).pwr.aon = true ∧ (pins true true).pwr.resetN = true ∧ (pins true true).pwr.perstN = true ∧ (pins false true).pwr.resetN = false ∧
      (pins true false).pwr.perstN = false ∧ (pins false false).pwr.resetN = false) ∧
    (let s := (pins true false).updPwr (fun p => { p with lastKind := 2 })
     s.pwr.aon = true ∧ s.pwr.resetN = true ∧ s.pwr.perstN = false ∧ s.pwr.lastKind = 2 ∧ s.cp.pendRec = none) ∧
    (let s := live.updKpr (fun k => { k with img := .loading })
     s.kpr.img = .loading ∧ s.domOn 45 = true ∧ imageCheck s.kpr.svnFloor [] = 1 ∧ (1 : Nat) ≠ 0) ∧
    (let s := live.updPwr (fun p => { p with starting := true, phase := .hbmTrain })
     s.pwr.starting = true ∧ s.phaseMet = true ∧ s.kpr.img = .verified ∧ s.pwr.phase ≠ .imageLoad) ∧
    (let s := (live.updPwr (fun p => { p with starting := true, phase := .imageLoad })).updKpr (fun k => { k with img := .loading })
     s.pwr.starting = true ∧ s.kpr.img = .loading ∧ s.pwr.phase = .imageLoad) ∧
    (let s := live.updPwr (fun p => { p with aon := false })
     s.pwr.aon = false ∧ s.kpr.erase = none) := by decide +kernel

/-! ### Witnesses: security, the error log, host accesses, the link and DMA -/

/-- A blob for the wrapping-key slot 2 (R455). What the cryptographic functions answer is open (Config); the statement says what follows for each answer. -/
theorem wit_Security_commands :
    (let p := pk 0x68 0 [(16, 1, 2), (48, 8, 64), (56, 4, 192)]
     CmdReady (on p) 0 0x68 (ent p) ∧
     PktGood (ent p) [(16, 1), (17, 1), (48, 16)] (fun p => pktIndex p == 0 && rd p 16 1 ≤ 2 && rd p 17 1 == 0 && bulkOk p && 64 ≤ bulkLen p && bulkLen p ≤ 1024) ∧
     (on p).kpr.alarm = .clear ∧ (on p).busOk = true ∧ blobOk 2 (bulkLen p) (padTo (bulkLen p) (image 192 [(0, 1, 2), (2, 2, 192)])) = true ∧
     (on p).kpr.dbg ≠ .openVendor ∧ (on p).kpr.slots.getD 2 none = none) ∧
    (let p := pk 0x68 0 [(16, 1, 2), (17, 1, 1)]
     CmdReady (on p) 0 0x68 (ent p) ∧ rd p 17 1 = 1 ∧
     PktGood (ent p) [(16, 1), (17, 1), (48, 16)] (fun p => pktIndex p == 0 && rd p 16 1 ≤ 2 && rd p 17 1 == 1 && bulkOk p && bulkLen p == 0)) ∧
    (∀ lv ∈ [1, 2], let p := pk 0x69 0 [(16, 1, lv)]
     let s := (on p).setSlot 1 (some {})
     CmdReady s 0 0x69 (ent p) ∧ PktGood (ent p) [(16, 1)] (fun p => pktIndex p == 0 && (rd p 16 1 == 1 || rd p 16 1 == 2)) ∧ s.kpr.dbg.code < lv ∧
       (s.kpr.slots.getD 1 none).isSome = true) ∧
    (∀ lv ∈ [1, 2], let p := pk 0x6A 0 [(48, 8, 64), (56, 4, 96)]
     let s := (on p).updKpr (fun k => { k with challenge := some { level := lv } })
     CmdReady s 0 0x6A (ent p) ∧ PktGood (ent p) [(48, 16)] (fun p => pktIndex p == 0 && bulkOk p && bulkLen p == 96) ∧
       s.kpr.challenge = some { level := lv }) ∧
    (let p := pk 0x6C 0 [(16, 8, 7), (48, 8, 64), (56, 4, 512)]
     let s := (on p).setSlot 0 (some {})
     s.kpr.slots.getD 0 none = some {} ∧ CmdReady s 0 0x6C (ent p) ∧ rd p 32 1 = 0 ∧
     PktGood (ent p) [(16, 16), (32, 1), (48, 16)] (fun p => pktIndex p == 0 && rd p 32 1 == 0 && bulkOk p && 512 ≤ bulkLen p)) ∧
    (let p := pk 0x6C 0 [(32, 1, 1), (33, 1, 31), (36, 4, 1), (44, 4, 1), (48, 8, 64), (56, 4, 512)]
     let s := ((on p).setSlot 0 (some {})).updRsv (fun r => { r with dir := [kept] })
     CmdReady s 0 0x6C (ent p) ∧
     PktGood (ent p) [(16, 16), (32, 1), (33, 1), (36, 4), (40, 4), (44, 4), (48, 16)] (fun p => pktIndex p == 0 && rd p 32 1 == 1 && bulkOk p && 512 ≤ bulkLen p &&
            rd p 33 1 ≤ 31 && 1 ≤ rd p 44 4 && rd p 44 4 ≤ 65536) ∧
     (descBytes s 31 1 0 1).isSome = true ∧ s.selfRefresh = false) := by
  refine ⟨⟨cmd ?_, good ?_, ?_, ?_, ?_, ?_, ?_⟩, ⟨cmd ?_, ?_, good ?_⟩, ?_, ?_, ⟨?_, cmd ?_, ?_, good ?_⟩, cmd ?_, good ?_, ?_, ?_⟩
  rotate_left 10
  · intro n h
    simp only [List.mem_cons, List.not_mem_nil, or_false] at h
    rcases h with rfl | rfl <;> refine ⟨cmd ?_, good ?_, ?_, ?_⟩ <;> decide +kernel
  · intro n h
    simp only [List.mem_cons, List.not_mem_nil, or_false] at h
    rcases h with rfl | rfl <;> refine ⟨cmd ?_, good ?_, ?_⟩ <;> decide +kernel
  all_goals decide +kernel

theorem wit_Security_events :
    (let p := pk 0x6B 0 [(16, 2, 0x4110), (24, 1, 1)]
     CmdReady (on p) 0 0x6B (ent p) ∧ alarmPolicyOk p = true ∧ (on p).kpr.locked = false ∧
       ((on p).updKpr (fun k => { k with locked := true })).kpr.locked = true) ∧
    ((live.updKpr (fun k => { k with erase := some { vendor := true, cmd := some 0, src := some 7 } })).kpr.erase = some { vendor := true, cmd := some 0, src := some 7 }) ∧
    (let s := live.updKpr (fun k => { k with erase := some { vendor := true, cmd := some 0, src := none } })
     s.kpr.erase = some { vendor := true, cmd := some 0, src := none } ∧ s.kpr.alarm = .clear ∧ s.pwr.st = .active) ∧
    (tapReach .closed .idcode = true ∧ tapReach .closed .halt = false ∧ tapReach .openVendor .halt = true) := by
  refine ⟨⟨cmd ?_, ?_, ?_, ?_⟩, ?_, ?_, ?_⟩ <;> decide +kernel

/-- The log with every general entry of class 2 but entry 55, of class 1. -/
def fullLog : ErrLog := { entries := List.replicate 55 (some { cls := 2, block := 60, inst := 9 }) ++ [some { cls := 1, block := 61 }] ++ List.replicate 8 none }

theorem wit_DetectionsFollowTheFiveRules :
    (live.err.entries.length = 64 ∧ live.err.cnt.length = 4 ∧ findEntry live.err.entries 2 3 0 = none ∧ live.err.entries[0]? = some none) ∧
    (fullLog.entries.length = 64 ∧ (∀ e, some e ∈ fullLog.entries → e.cls < 4) ∧ findEntry fullLog.entries 2 3 0 = none ∧ (∀ i, i < 56 → fullLog.entries[i]? ≠ some none) ∧
      findEntry fullLog.entries 61 0 0 = some 55 ∧ fullLog.entries[55]? = some (some { cls := 1, block := 61 }) ∧
      (∀ j, j < 56 → j ≠ 55 → fullLog.entries[j]? = some (some { cls := 2, block := 60, inst := 9 }))) ∧
    (let l : ErrLog := { entries := List.replicate 56 (some { cls := 3, block := 60 }) ++ List.replicate 8 none }
     (∀ i, i < 56 → l.entries[i]? = some (some { cls := 3, block := 60 })) ∧ findEntry l.entries 2 3 0 = none) := by
  refine ⟨by decide +kernel, ⟨by decide +kernel, ?_, by decide +kernel, by decide +kernel, by decide +kernel, by decide +kernel, by decide +kernel⟩, by decide +kernel⟩
  intro e h
  simp only [fullLog, List.mem_append, List.mem_replicate, List.mem_cons, List.not_mem_nil, or_false, Option.some.injEq, reduceCtorEq, and_false] at h
  rcases h with ⟨-, rfl⟩ | rfl <;> decide

theorem wit_AlarmNeverFalls : live.kpr.src.length = 8 ∧ 7 < live.kpr.src.length ∧ live.kpr.level 6 = 0 ∧ live.kpr.level 7 ≠ 0 := by decide +kernel

/-- Entries 63 to the end, with and without a buffer; a mask of every entry. -/
theorem wit_ErrorCommands :
    (let p := pk 0x70 0 [(16, 1, 63), (17, 1, 1)]
     CmdReady (on p) 0 0x70 (ent p) ∧ bulkLen p = 0 ∧
     PktGood (ent p) [(16, 1), (17, 1), (48, 16)]
        (fun p => pktIndex p == 0 && 1 ≤ rd p 17 1 && rd p 16 1 + rd p 17 1 ≤ 64 && bulkOk p && (bulkLen p == 0 || 32 * rd p 17 1 ≤ bulkLen p))) ∧
    (let p := pk 0x70 0 [(17, 1, 64), (48, 8, 64), (56, 4, 2048)]
     CmdReady (on p) 0 0x70 (ent p) ∧ bulkLen p ≠ 0 ∧ (on p).busOk = true ∧
     PktGood (ent p) [(16, 1), (17, 1), (48, 16)]
        (fun p => pktIndex p == 0 && 1 ≤ rd p 17 1 && rd p 16 1 + rd p 17 1 ≤ 64 && bulkOk p && (bulkLen p == 0 || 32 * rd p 17 1 ≤ bulkLen p)) ∧
     ((List.range 64).flatMap (fun i => (on p).err.entryBytes (0 + i))).isEmpty = false) ∧
    (let p := pk 0x71 0 [(16, 8, 2 ^ 64 - 1)]
     CmdReady (on p) 0 0x71 (ent p) ∧ PktGood (ent p) [(16, 8)] (fun p => pktIndex p == 0)) := by
  refine ⟨⟨cmd ?_, ?_, good ?_⟩, ⟨cmd ?_, ?_, ?_, good ?_, ?_⟩, cmd ?_, good ?_⟩ <;> decide +kernel

/-- The last base register, a channel's masks with and without a raised bit, the MSI-X pending bit of vector 63, and BAR2's last Pond byte, first byte past Pond and a Reservoir read in IDLE. -/
theorem wit_HostAccesses :
    ((0 : BitVec 4) ≠ 15 ∧ 0x7FFC % 4 = 0 ∧ 0x1000 ≤ 0x7FFC ∧ 0x7FFC < 0x8000 ∧ 0x18000 ≤ 0x18000) ∧
    (let s := live.updQ 7 (fun x => { x with st := .suspended })
     7 < 8 ∧ s.domOn 45 = true ∧ (nth s.cp.queues 7).st = .suspended) ∧
    ((List.range 4).any (raised (nth live.dma.ch 31).irqMask 15 (nth live.dma.ch 31).irqStat) = false ∧
      (let s := live.updDma 31 (fun x => { x with irqStat := 8 })
       (List.range 4).any (raised (nth s.dma.ch 31).irqMask 15 (nth s.dma.ch 31).irqStat) = true)) ∧
    (live.pcie.irqStat = 0 ∧ (let s := live.updPcie (fun p => { p with irqStat := 8 })
      s.pcie.irqStat = 2 ^ 3 ∧ bit s.pcie.irqMask 3 = false ∧ bit (8 : Word).toNat 3 = true)) ∧
    (let s := live.updPcie (fun p => { p with pba := 2 ^ 63, cfg := { p.cfg with msixEnable := true } })
     s.pcie.pba = 2 ^ 63 ∧ s.pcie.msix.length = 64 ∧ s.pcie.cfg.msixEnable = true ∧ s.pcie.cfg.funcMask = false ∧ s.busOk = true) ∧
    (103146323968 % 4096 + 4096 ≤ 4096 ∧ 103146323968 < 2 ^ 37 ∧ 103146323967 % 4096 + 1 ≤ 4096 ∧ 103079215104 ≤ 103146323967 ∧ live.spr.fallback = false ∧
      live.pwr.st ≠ .standby ∧ live.domOn 36 = true ∧ 103079215103 < 103079215104 ∧ (live.updPwr (fun p => { p with st := .idle })).pwr.st = .idle) := by decide +kernel

theorem wit_LinkEvents :
    (live.pcie.link ≠ .down ∧ live.pcie.cfg.pmeEn = false ∧ (live.updPcie (fun p => { p with cfg := { p.cfg with ecrcChk := true } })).pcie.cfg.ecrcChk = true) ∧
    (3 < 4 ∧ bit live.pcie.laneFault 3 = false ∧ laneWidth (live.pcie.laneFault + 2 ^ 3) = some (1, false) ∧ 1 < live.pcie.width ∧ live.pcie.laneFault = 0) ∧
    (let s := live.updPcie (fun p => { p with laneFault := 2, width := 1 })
     bit s.pcie.laneFault 3 = false ∧ laneWidth (s.pcie.laneFault + 2 ^ 3) = some (0, false) ∧ 0 < s.pcie.width ∧ s.pcie.laneFault ≠ 0) ∧
    (let s := live.updPcie (fun p => { p with link := .down, gen := 0 })
     s.pcie.laneFault = 0 ∧ s.pcie.up = false ∧ 6 ≤ 6 ∧ s.domOn 44 = true ∧ s.pwr.resetN = true ∧ s.pwr.perstN = true ∧ s.pcie.gen = 0) ∧
    (live.pcie.cfg.cplTimeout ≠ 0 ∧ (live.updDma 31 (fun x => { x with fetches := [(0, true)] })).outstanding (.dma 31 (.fetch 0)) = true ∧
      (live.updQ 7 (fun x => { x with sqTail := 1 })).outstanding (.fetch 7) = true ∧
      (on (pk 0x08 0 [(48, 8, 64), (56, 4, 8)])).outstanding (.table 0) = true) := by decide +kernel

theorem wit_DmaControl :
    let s (f : DmaCh → DmaCh) : State := live.updDma 31 f
    (live.updDom 45 (fun d => { d with st := .off })).domOn 45 = false ∧
    31 < live.dma.ch.length ∧ live.domOn 45 = true ∧ (nth live.dma.ch 31).st = .idle ∧ bit (1 : Word).toNat 1 = false ∧
      (nth (s (fun x => { x with st := .running })).dma.ch 31).st = .running ∧ (nth (s (fun x => { x with st := .waiting })).dma.ch 31).st = .waiting ∧
      bit (1 : Word).toNat 0 = true ∧ (nth (s (fun x => { x with st := .paused })).dma.ch 31).st = .paused ∧
      (∀ h ∈ [false, true], (nth (s (fun x => { x with st := .stopping, held := h })).dma.ch 31).st = .stopping ∧
        (nth (s (fun x => { x with st := .stopping, held := h })).dma.ch 31).rst = false ∧ (nth (s (fun x => { x with st := .stopping, held := h })).dma.ch 31).held = h) ∧
      (∀ d ∈ (nth live.dma.ch 31).drain, d.1 ≠ .load) ∧
      (nth (s (fun x => { x with drain := [(.load, true), (.fetch 0, true), (.load, true)] })).dma.ch 31).drain = [(.load, true)] ++ (.fetch 0, true) :: [(.load, true)] ∧
      (∀ d ∈ [((.load : DmaReq), true)], d.1 ≠ .fetch 0) := by decide +kernel

/-- Channel 31 at an instruction of these bytes (R334). -/
def at31 (bs : List Byte) (f : DmaCh → DmaCh) : State := live.updDma 31 (fun x => f { x with st := .running, enable := true, pre := [{ index := 0, bytes := some bs }] })
def ins (op a b c d e : Nat) : List Byte := image 16 [(0, 1, op), (1, 1, a), (2, 1, b), (3, 1, c), (4, 4, d), (8, 8, e)]
/-- It is ready at the instruction the bytes spell. -/
def readyAt (bs : List Byte) (f : DmaCh → DmaCh) : Prop := DmaReady (at31 bs f) 31 (nth (at31 bs f).dma.ch 31) (DmaIns.of bs)

theorem wit_DmaInstructions_moves :
    (readyAt (ins 1 0 0 0 4096 0) id ∧ (spaceOf 0).badAt false 0 4096 = none ∧ (spaceOf 0).badAt true 0 4096 = none) ∧
    (readyAt (ins 1 0 0 1 0 0) id ∧ ((nth (at31 (ins 1 0 0 1 0 0) id).dma.ch 31).g64 0) % 2 ^ 32 = 0) ∧
    (let f (x : DmaCh) : DmaCh := { x with g := x.g.set 0 103079215104 }
     readyAt (ins 1 1 8 0 1 0) f ∧ (spaceOf 1).badAt false ((nth (at31 (ins 1 1 8 0 1 0) f).dma.ch 31).g64 0) 1 = some 103079215104) ∧
    (∀ st ∈ [DmaSt.running, .waiting], let f (x : DmaCh) : DmaCh := { x with st := st, credit := 1 }
     readyAt (ins 3 0 0 31 0 0) f ∧ (nth (at31 (ins 3 0 0 31 0 0) f).dma.ch 31).moves = [] ∧ readyAt (ins 3 1 0 0 0 0) f ∧
       (nth (at31 (ins 3 1 0 0 0 0) f).dma.ch 31).credit = 1 ∧ readyAt (ins 3 2 0 0 0 0) f ∧ (nth (at31 (ins 3 2 0 0 0 0) f).dma.ch 31).g64 0 ≤ 0 ∧
       (nth (at31 (ins 3 2 0 0 0 0) f).dma.ch 31).st = st) ∧
    (readyAt (ins 3 1 0 0 0 0) id ∧ (nth (at31 (ins 3 1 0 0 0 0) id).dma.ch 31).credit = 0) ∧
    (let f (x : DmaCh) : DmaCh := { x with g := x.g.set 7 1 }
     readyAt (ins 3 2 7 0 0 0) f ∧ (at31 (ins 3 2 7 0 0 0) f).tb.count.toNat < (nth (at31 (ins 3 2 7 0 0 0) f).dma.ch 31).g64 7) := by
  refine ⟨⟨dma ?_, ?_, ?_⟩, ⟨dma ?_, ?_⟩, ⟨dma ?_, ?_⟩, ?_, ⟨dma ?_, ?_⟩, dma ?_, ?_⟩
  rotate_left 7
  · intro st h
    rcases (by simpa using h : st = DmaSt.running ∨ st = DmaSt.waiting) with rfl | rfl <;>
      refine ⟨dma ?_, ?_, dma ?_, ?_, dma ?_, ?_, ?_⟩ <;> decide +kernel
  all_goals decide +kernel

/-- WAIT SEG on a stored segment, on one that cannot come and on one still to come; SIGNAL and LOAD in each form; FENCE, END; a reserved opcode. -/
theorem wit_DmaInstructions_rest :
    (((live.updRsv (fun r => { r with dir := [{ kept with active := true }] })).updRec 31 (fun r => { r with acqNum := 1, run := some { acqNum := 1, seg := 1 } })).segMet 31 1 0 =
        some true ∧ live.segMet 31 0 0 = some false ∧ live.segMet 31 1 0 = none) ∧
    (readyAt (ins 4 0 0 0 0 0) id ∧ readyAt (ins 4 1 0 0 0 0) id ∧ readyAt (ins 4 2 0 31 1 0) id ∧ (nth (at31 (ins 4 2 0 31 1 0) id).dma.ch 31).movedOk = false ∧
      readyAt (ins 4 2 0 31 1 0) (fun x => { x with movedOk := true }) ∧
      (nth (at31 (ins 4 2 0 31 1 0) (fun x => { x with movedOk := true })).dma.ch 31).movedOk = true) ∧
    (readyAt (ins 5 0 7 0 0 (2 ^ 64 - 1)) id ∧ readyAt (ins 5 1 7 0 0 1) id ∧ readyAt (ins 5 3 7 0 0 63) id ∧ readyAt (ins 5 3 7 0 0 64) id ∧
      readyAt (ins 5 2 7 1 0 8) id ∧ (8 % 8 = 0 ∧ (spaceOf 1).badAt false 8 8 = none) ∧ readyAt (ins 5 2 7 1 0 4) id ∧ 4 % 8 ≠ 0) ∧
    (readyAt (ins 6 0 0 0 0 0) id ∧ readyAt (ins 6 0 0 0 0 0) (fun x => { x with moves := [{}] }) ∧
      readyAt (ins 6 1 0 0 0 0) (fun x => { x with lastHostWr := some 64 })) ∧
    (readyAt (ins 7 0 0 0 0 0) id ∧ readyAt (ins 7 0 0 0 0 0) (fun x => { x with moves := [{}] })) ∧
    ((at31 (ins 8 0 0 0 0 0) id).dmaIns 31 = some (DmaIns.of (ins 8 0 0 0 0 0)) ∧ (DmaIns.of (ins 8 0 0 0 0 0)).ok = false) := by
  refine ⟨?_, ⟨dma ?_, dma ?_, dma ?_, ?_, dma ?_, ?_⟩, ⟨dma ?_, dma ?_, dma ?_, dma ?_, dma ?_, ?_, dma ?_, ?_⟩, ⟨dma ?_, dma ?_, dma ?_⟩,
    ⟨dma ?_, dma ?_⟩, ?_⟩ <;> decide +kernel

theorem wit_CommitDiscard :
    let p := pk 0x09 35 [(16, 1, 1)]
    PktGood (ent p) [(16, 1)] (fun p => pktIndex p ≤ 35 && rd p 16 1 ≤ 1) ∧ CmdReady (on p) 0 0x09 (ent p) ∧ rd p 16 1 = 1 ∧ 35 < (on p).units.length := by
  refine ⟨good ?_, cmd ?_, ?_, ?_⟩ <;> decide +kernel

theorem wit_ThirdGenerationIsRefused :
    let p := pk 0x09 35 []
    let s := (on p).updUnit 35 (fun x => { x with pend := [{ num := 1 }, { num := 2 }] })
    PktGood (ent p) [(16, 1)] (fun p => pktIndex p ≤ 35 && rd p 16 1 == 0) ∧ CmdReady s 0 0x09 (ent p) ∧ s.gangSplit (fun k => k = 35) = false ∧
      s.stagedMoveArmed 35 = false ∧ 2 ≤ (nth s.units 35).pend.length := by
  refine ⟨good ?_, cmd ?_, ?_, ?_, ?_⟩ <;> decide +kernel

/-- COUNT 0; another LOOP's counter; COUNT 2 and COUNT 1. -/
theorem wit_LoopRunsItsBody :
    readyAt (ins 2 3 0 0 0 0) id ∧
    (let f (x : DmaCh) : DmaCh := { x with lc := x.lc.set 3 { active := true, left := 1, owner := 9 } }
     readyAt (ins 2 3 0 0 0 1) f ∧ (nth (nth (at31 (ins 2 3 0 0 0 1) f).dma.ch 31).lc 3).owner ≠ (nth (at31 (ins 2 3 0 0 0 1) f).dma.ch 31).pc) ∧
    (readyAt (ins 2 3 0 0 0 2) id ∧ 0 < (if (nth (nth (at31 (ins 2 3 0 0 0 2) id).dma.ch 31).lc 3).active then 0 else 2) - 1) ∧
    (readyAt (ins 2 3 0 0 0 1) id ∧ (nth (nth (at31 (ins 2 3 0 0 0 1) id).dma.ch 31).lc 3).active = false) := by
  refine ⟨dma ?_, ⟨dma ?_, ?_⟩, ⟨dma ?_, ?_⟩, dma ?_, ?_⟩ <;> decide +kernel

/-! ### Witnesses of the remaining clauses -/

/-- Every pin released, the part dark, and the pins held by the TAP. -/
theorem wit_OutputsAreReleased :
    (∀ d ∈ [42, 43, 44, 46, 47, 49], live.domOn d = true) ∧ live.pwr.aon = true ∧ live.pwr.resetN = true ∧ live.pwr.perstN = true ∧ live.kpr.tapPins = false ∧
    (live.updPwr (fun p => { p with aon := false })).pwr.aon = false ∧
    (Output.ready ≠ .tdo ∧ (live.updPwr (fun p => { p with resetN := false })).pwr.resetN = false ∧ (live.updDom 43 (fun d => { d with st := .off })).domOn 43 = false) := by
  decide +kernel

theorem wit_Display_more :
    (let s := (live.setReg (ltnA 0) 0x103F7).updLtn (fun l => { l with passRun := true, owed := true })
     let u := (s.putBytes (s.fbBase s.ltn.passBuf) s.raster).updLtn (fun l => { l with passRun := false, owed := false })
     s.ltn.passRun = true ∧ s.ltn.owed = true ∧ u.scanSrc ≠ 0 ∧ u.rasterEn = true) ∧
    (let s (y : Nat) := display (fun l => { l with scanning := true, short := [(y, 5)] })
     (s 0).fetching = true ∧ (s 0).unscanned ≠ [] ∧ (s 8191).unscanned = []) ∧
    (let s := (display id).updDp 1 (fun d => { d with st := .training })
     let walk := trainOrder (min 2 (s.regF (ltnA 0) 7 6)) (min 3 (s.regF (ltnA 0) 9 8))
     s.linkFits (min 2 (s.regF (ltnA 0) 7 6)) (min 3 (s.regF (ltnA 0) 9 8)) = true ∧
       s.linkFits (min 0 (s.regF (ltnA 0) 7 6)) (min 0 (s.regF (ltnA 0) 9 8)) = false ∧
       (∃ c, ((walk.filter (fun c => s.linkFits c.1 c.2)).zip [true]).find? Prod.snd = some (c, true))) := by
  refine ⟨by decide +kernel, by decide +kernel, by decide +kernel, by decide +kernel, ⟨_, rfl⟩⟩

/-- A quiet window nearly as long as its period fits no slot; one just begun delays it. -/
theorem wit_Lamp_more :
    (let s := ((live.setReg (lampA 0) 0x10109).updLamp (fun l => { l with slot := some 15 })).updTb (fun t => { t with qwPeriod := 7680, qwLen := 7000 })
     s.lamp.slot = some 15 ∧ s.qwStarves = true ∧ s.lamp.starved = false) ∧
    (let s := ((live.setReg (lampA 0) 0x10109).updLamp (fun l => { l with slot := some 0, st := .rows })).updTb (fun t => { t with qwPeriod := 2 ^ 31, qwLen := 128000, count := 0 })
     s.lamp.slot = some 0 ∧ s.qwStarves = false ∧ (s.updLamp (fun l => { l with starved := false })).slotFits (256 + 2 * s.rowGuard) = false ∧ s.lamp.st ≠ .waitQw) := by
  decide +kernel

theorem wit_Power_more :
    (∀ l ∈ [[], [(48, 1)]], let s := live.updPwr (fun p => { p with trans := some {}, restartDue := l })
     48 < 49 ∧ s.domOn 48 = true ∧ s.pwr.trans.isSome = true ∧ ((∀ x ∈ s.pwr.restartDue, x.1 ≠ 48) ∨ ∃ x ∈ s.pwr.restartDue, x.1 = 48)) ∧
    (let p := pk 0x61 0 [(24, 8, 2 ^ 46)]
     let s := (on p).updPwr (fun p => { p with trans := some {} })
     CmdReady s 0 0x61 (ent p) ∧ s.domainBusy 0 (2 ^ 46) = false ∧ s.pwr.trans.isSome = true) := by
  refine ⟨by decide +kernel, cmd ?_, ?_, ?_⟩ <;> decide +kernel

theorem wit_Security_more :
    (∀ p ∈ [pk 0x68 0 [(16, 1, 2), (48, 8, 64), (56, 4, 192)], pk 0x68 0 [(16, 1, 2), (17, 1, 1)], pk 0x69 0 [(16, 1, 1)], pk 0x6A 0 [(48, 8, 64), (56, 4, 96)]],
      let s := (on p).updKpr (fun k => { k with alarm := .lockdown })
      s.kpr.alarm ≠ .clear ∧ CmdReady s 0 (opcode p) (ent p)) ∧
    (let p := pk 0x6B 0 [(16, 2, 0x4110), (24, 1, 0)]
     CmdReady (on p) 0 0x6B (ent p) ∧ alarmPolicyOk p = false) := by
  refine ⟨?_, cmd ?_, ?_⟩
  · intro p h
    simp only [List.mem_cons, List.not_mem_nil, or_false] at h
    rcases h with rfl | rfl | rfl | rfl <;> refine ⟨?_, cmd ?_⟩ <;> decide +kernel
  all_goals decide +kernel

theorem wit_Host_and_link_more :
    ((live.updSpr (fun x => { x with fallback := true })).spr.fallback = true ∧ (live.updPwr (fun p => { p with st := .standby })).pwr.st = .standby ∧
      live.selfRefresh = false) ∧
    (let s := live.updPcie (fun p => { p with laneFault := 7 })
     bit s.pcie.laneFault 3 = false ∧ s.pcie.link ≠ .down ∧ laneWidth (s.pcie.laneFault + 2 ^ 3) = none ∧ s.pcie.laneFault ≠ 0) ∧
    (let s := (live.updPcie (fun p => { p with cfg := { p.cfg with pmeEn := true } })).updEq 0 (fun x => { x with held := [{}] })
     s.pcie.cfg.pmeEn = true ∧ (!(nth s.cp.eqs 0).held.isEmpty || s.stby.any (fun x => x.1 == 0)) = true) := by decide +kernel

/-- A channel held by its transfers; a release that names no segment, and one of a record that is there. -/
theorem wit_Dma_more :
    (let f (x : DmaCh) : DmaCh := { x with moves := [{}] }
     readyAt (ins 3 0 0 31 0 0) f ∧ readyAt (ins 4 0 0 0 0 0) f ∧ readyAt (ins 4 2 0 31 1 0) f ∧ (nth (at31 (ins 4 2 0 31 1 0) f).dma.ch 31).moves ≠ []) ∧
    (∀ h ∈ [false, true], let s := live.updDma 31 (fun x => { x with st := .stopping, rst := true, held := h })
     (nth s.dma.ch 31).st = .stopping ∧ (nth s.dma.ch 31).rst = true ∧ (nth s.dma.ch 31).held = h) ∧
    ((live.updRsv (fun r => { r with dir := [{ kept with active := true }] })).updRec 31
      (fun r => { r with acqNum := 1, run := some { acqNum := 1, seg := 1 } })).tryRelease 31 1 0 5 = none ∧
    (∃ t n, (live.updRsv (fun r => { r with dir := [kept] })).tryRelease 31 1 0 1 = some (t, n)) ∧
    (let f (x : DmaCh) : DmaCh := { x with g := x.g.set 1 103079215104 }
     readyAt (ins 5 2 8 0 0 0) f ∧ (spaceOf 0).badAt false 103079215104 8 = none ∧ (spaceOf 1).badAt false 103079215104 8 = some 103079215104) ∧
    (readyAt (ins 6 1 0 0 0 0) id ∧ (nth (at31 (ins 6 1 0 0 0 0) id).dma.ch 31).lastHostWr = none) := by
  refine ⟨⟨dma ?_, dma ?_, dma ?_, ?_⟩, ?_, ?_, ⟨_, _, rfl⟩, ⟨dma ?_, ?_, ?_⟩, dma ?_, ?_⟩ <;> decide +kernel

/-! ### Witnesses of waiting, held and refused forms -/

/-- A link that may rest at an idle step: in IDLE, in D3hot and with ASPM L1 enabled. -/
theorem wit_Idle_more :
    live.mayRest = false ∧ (live.updPwr (fun p => { p with st := .idle })).mayRest = true ∧
    (live.updPcie (fun p => { p with cfg := { p.cfg with d3hot := true } })).mayRest = true ∧
    (live.updPcie (fun p => { p with cfg := { p.cfg with aspm := 2 } })).mayRest = true := by decide +kernel

/-- A PHASE_STEP whose thread finds the change log full. -/
theorem wit_StagePairs_full :
    let p := pk 0x13 0 [(16, 2, 0xFFFF)]
    let s := (on p).updCp (fun c => { c with changeLog := c.changeLog.set 7 16384 })
    s.cp.current 0 = some (ent p) ∧ opcode p = 0x13 ∧ (ent p).dup = false ∧ s.ready 0 (ent p) = true ∧ s.logRoom (ent p) = false ∧
      PktGood (ent p) [(16, 2)] (fun p => pktIndex p ≤ 3) ∧
      StagesOk s [(outPhaseA 0, stepPhase (s.shadow (outPhaseA 0)) (fld (s.shadow (outCfgA 0)) 19 4) (sgn 16 (rd p 16 2)))] := by
  refine ⟨?_, ?_, ?_, ?_, ?_, good ?_, stages ?_⟩ <;> decide +kernel

/-- Queue 7 draining, and disabled, with a tail 17 past its ring of 16; draining with an overrun still owed, the last one and one of two. -/
theorem wit_Queues_more :
    let q (st : QState) (l : List Word) : State := live.updQ 7 (fun x => { x with st := st, sqHead := 0, overrunDue := l })
    (∀ st ∈ [QState.draining, .disabled], let s := q st []
      s.domOn 45 = true ∧ (nth s.cp.queues 7).st = st ∧ 2 ^ (nth s.cp.queues 7).sqSize < ((40 : Word) - (nth s.cp.queues 7).sqHead).toNat) ∧
    ((nth (q .draining [17]).cp.queues 7).st = .draining ∧ (nth (q .draining [17]).cp.queues 7).overrunDue ≠ [] ∧ (q .draining [17]).domOn 45 = true) ∧
    ((nth (q .running [17]).cp.queues 7).st = .running ∧ (q .running [17]).cp.jrn.filter (fun e => e.queue == 7) = [] ∧
      (nth (q .running [17]).cp.queues 7).overrunDue ≠ []) ∧
    (∀ l ∈ [[17], [17, 18]], let s := q .draining l
      let x := nth s.cp.queues 7
      x.st = .draining ∧ (x.cqTail - x.cqHead).toNat < 2 ^ x.cqSize ∧ s.busOk = true ∧ s.domOn 45 = true ∧ s.cp.current 7 = none ∧ x.overrunDue = l ∧
        (∀ e ∈ s.cp.jrn, e.queue ≠ 7)) := by decide +kernel

/-- A RECORD_RELEASE of acquisition 2 where the group's next acquisition is 1 or has reached 2. -/
theorem wit_Release_more :
    let p := pk 0x28 31 [(16, 4, 2), (20, 4, 0), (24, 4, 2)]
    (∀ k ∈ [1, 2], let s := (on p).updRec 31 (fun r => { r with acqNum := k })
      s.rsv.find 31 2 = none ∧ (nth s.rsv.grp 31).acqNum = k ∧ s.pwr.starting = false) ∧
    CmdReady ((on p).updRec 31 (fun r => { r with acqNum := 1 })) 0 0x28 (ent p) ∧ CmdReady ((on p).updRec 31 (fun r => { r with acqNum := 2 })) 0 0x28 (ent p) ∧
    PktGood (ent p) [(16, 4), (20, 4), (24, 4)] (fun p => pktIndex p ≤ 31 && 1 ≤ rd p 24 4 && rd p 24 4 ≤ 16777216) := by
  refine ⟨?_, cmd ?_, cmd ?_, good ?_⟩ <;> decide +kernel

/-- Channel 0 in a SKEW_MEASURE while its quarter of the filter chain is off. -/
theorem wit_Skew_more :
    let p := pk 0x32 0 [(16, 1, 1), (32, 4, 1024)]
    let s := (rec0 0 (on p)).updDom 32 (fun d => { d with st := .off })
    (∀ n ∈ pktMask p, s.lead n = true) ∧ (∃ n ∈ pktMask p, s.skewOk n = false) ∧ s.pwr.starting = false ∧ CmdReady s 0 0x32 (ent p) ∧
      PktGood (ent p) [(16, 16), (32, 4), (48, 16)] (fun p => pktIndex p == 0 && rd p 16 16 ≠ 0 && 1024 ≤ rd p 32 4 && rd p 32 4 ≤ 65536 && bulkOk p &&
        (bulkLen p == 0 || bulkLen p == 512)) := by
  refine ⟨?_, ⟨0, ?_, ?_⟩, ?_, cmd ?_, good ?_⟩ <;> decide +kernel

/-- A reference that has returned, with each action, before and at the declaration of lock. -/
theorem wit_Relocks_more :
    ∀ a ∈ [ReturnAct.slew, .step], ∀ l ∈ [false, true], let s := live.updSpr (fun x => { x with st := .holdover, ret := some (a, 5), lock := l })
      s.domOn 42 = true ∧ s.spr.st ≠ .start ∧ s.spr.relock ≠ some .gated ∧ s.spr.ret = some (a, 5) ∧ (s.compareAll []).spr.lock = l := by decide +kernel

/-- Frame boundaries with scan-out stopped, running and in a relock; the lamp matrix's with its domain off. -/
theorem wit_Boundaries_more :
    (live.spr.relock ≠ some .gated ∧ live.ltn.scanning = false) ∧
    (let s := live.updLtn (fun l => { l with scanning := true })
     s.spr.relock ≠ some .gated ∧ s.ltn.scanning = true ∧ s.ltn.stopped = false ∧ s.ltn.vblank = false) ∧
    (live.updSpr (fun x => { x with relock := some .gated })).spr.relock = some .gated ∧
    (live.updDom 47 (fun d => { d with st := .off })).domOn 47 = false := by decide +kernel

/-- A domain that comes up straight after its ramp began and one off long enough; PD37 to PD41 ramping down together; a domain in its millisecond off. -/
theorem wit_Power_on :
    (let s := live.updPwr (fun p => { p with trans := some { steps := [.on 48] }, doms := upd p.doms 48 (fun d => { d with st := .off }) })
     s.pwr.trans = some { steps := .on 48 :: [] } ∧ (nth s.pwr.doms 48).st = .off ∧ (nth s.pwr.doms 48).restarting = false ∧ s.cooling 48 = false) ∧
    (let s := live.updPwr (fun p => { p with trans := some { steps := [.stacksOff] }, doms := [37, 38, 39, 40, 41].foldl (fun l k => upd l k (fun d => { d with st := .ramp })) p.doms })
     s.pwr.trans = some { steps := .stacksOff :: [] } ∧ [37, 38, 39, 40, 41].filter (fun d => (nth s.pwr.doms d).st == .ramp) ≠ []) ∧
    (live.updDom 48 (fun d => { d with st := .off, offAt := some 0 })).cooling 48 = true := by decide +kernel

/-- A masked vector and a masked function; 63 and 64 requests held at the port; a PME from the link and with the link down in L2/L3 Ready. -/
theorem wit_Pcie_more :
    ((nth (live.updPcie (fun p => { p with msix := upd p.msix 63 (fun e => { e with masked := true }) })).pcie.msix 63).masked = true ∧
      (live.updPcie (fun p => { p with cfg := { p.cfg with funcMask := true } })).pcie.cfg.funcMask = true) ∧
    (∀ n ∈ [63, 64], let s := live.updSpr (fun x => { x with fallback := true }) |>.updPcie (fun p => { p with held := List.replicate n { off := 0, len := 4, ecc := {} } })
      s.spr.fallback = true ∧ s.pcie.held.length = n) ∧
    (∀ l ∈ [LinkSt.l0, .l1, .l11], (live.updPcie (fun p => { p with link := l })).pcie.up = true) ∧
    (let s := (live.updPcie (fun p => { p with link := .l23, cfg := { p.cfg with pmeEn := true } })).updEq 0 (fun x => { x with held := [{}] })
     s.pcie.cfg.pmeEn = true ∧ (!(nth s.cp.eqs 0).held.isEmpty || s.stby.any (fun x => x.1 == 0)) = true ∧ s.pcie.link = .l23) ∧
    (let s := live.updPcie (fun p => { p with laneFault := 7, link := .recovery })
     bit s.pcie.laneFault 3 = false ∧ s.pcie.link = .recovery ∧ laneWidth (s.pcie.laneFault + 2 ^ 3) = none) ∧
    (let s := live.updPcie (fun p => { p with link := .recovery })
     laneWidth s.pcie.laneFault = some (2, false) ∧ s.pcie.up = false) := by decide +kernel

/-- A BEACON_MEASURE that finds one under way. -/
theorem wit_Beacon_more :
    let p := pk 0x39 0 [(16, 1, 1), (17, 1, 16)]
    let s := (on p).updBcn (fun b => { b with meas := some {}, ports := b.ports.map (fun x => { x with link := .up }) })
    s.bcn.meas.isSome = true ∧ s.domOn 43 = true ∧ CmdReady s 0 0x39 (ent p) ∧
      PktGood (ent p) [(16, 1), (17, 1), (18, 1), (48, 16)]
        (fun p => pktIndex p == 0 && 1 ≤ rd p 16 1 && rd p 16 1 < 16 && 10 ≤ rd p 17 1 && rd p 17 1 ≤ 24 && rd p 18 1 ≤ 1 && bulkOk p) ∧
      (!s.spr.lock || (allBelow 4 (bit 1)).any (fun p => (nth s.bcn.ports p).link ≠ .up)) = false := by
  refine ⟨?_, ?_, cmd ?_, good ?_, ?_⟩ <;> decide +kernel

/-- A group that does not judge and one that does; a trigger input's stamp at the first time that is still ahead, and before it. -/
theorem wit_Triggers_more :
    ((live.take []).closeDue 31).judging 31 = false ∧
    (let s := (live.updRec 31 (fun x => { x with run := some {} })).updTrg 31 (fun x => { x with st := .accepting })
     ((s.take []).closeDue 31).judging 31 = true) ∧
    (let s : State := { live with now := 1 }
     4096 * s.now ≤ 4096 ∧ ¬ 4096 * s.now ≤ 4095) := by decide +kernel

/-! ### Converter codes and the ball array -/

/-- The ends of the 12-bit code and one beyond each (R50). -/
theorem test_conv_saturates :
    Conv.of 2047 = { code := 2047 } ∧ Conv.of 2048 = { code := 2047, ovr := true } ∧ Conv.of (-2048) = { code := -2048 } ∧
      Conv.of (-2049) = { code := -2048, ovr := true } := by decide +kernel

/-- R479's totals: signal, ground, and supply or reserved balls of the 52 × 52 array. -/
theorem test_ball_totals : ballCounts 1 52 1 52 = (398, 1260, 1046) := by decide +kernel

/-- The corners are ground, and nothing lies outside the array. -/
theorem test_ball_edges : ballAt 0 1 = none ∧ ballAt 53 1 = none ∧ ballAt 1 53 = none ∧ ballAt 1 2 = some (.leg (.input 0) false) := by decide +kernel
end Sys2Proof.Tests
end

