-- ==== Sys2Proof/Proofs/Commit.lean ====
section
/-! PROOFS. COMMIT's DISCARD and its refusal of a third pending generation (R29, R31). -/

namespace Sys2Proof.Machine

/-! ### An element of a bank after a change -/

theorem nth_upd_self {α : Type} [Inhabited α] {xs : List α} {i : Nat} (f : α → α) (h : i < xs.length) :
    nth (upd xs i f) i = f (nth xs i) := by
  simp [nth, upd, h]

theorem nth_upd_of_ne {α : Type} [Inhabited α] {xs : List α} {i j : Nat} (f : α → α) (h : j ≠ i) :
    nth (upd xs i f) j = nth xs j := by
  simp [nth, upd, h.symm]

/-! ### The end of a command -/

/-- The end of a command touches the command processor alone: the journal, the thread and its change log (R288). -/
theorem State.finish_frame (s : State) (idx status : Nat) (result : List Byte) :
    s.finish idx status result = { s with cp := (s.finish idx status result).cp } := by
  unfold State.finish; dsimp only; split <;> rfl

@[simp] theorem State.finish_units (s : State) (idx status : Nat) (result : List Byte) :
    (s.finish idx status result).units = s.units := by rw [State.finish_frame]

/-! ### COMMIT -/

/-- The check both forms of COMMIT share, on a packet whose MODE is m, is the check of the form that m selects (R308). -/
theorem PktGood.commit_mode {e : JEntry} {m : Nat} (h : PktGood e [(16, 1)] (fun p => pktIndex p ≤ 35 && rd p 16 1 ≤ 1)) (hm : rd e.pkt 16 1 = m) :
    PktGood e [(16, 1)] (fun p => pktIndex p ≤ 35 && rd p 16 1 == m) := by
  obtain ⟨hok, hpre⟩ := h
  have hunit : decide (pktIndex e.pkt ≤ 35) = true := Bool.and_elim_left hpre
  exact ⟨hok, by simp [hm, of_decide_eq_true hunit]⟩

/-- COMMIT DISCARD on a good packet completes at once with the unit's staging set empty (R29). -/
theorem execCommitDiscard_done {s : State} {q : Nat} {e : JEntry} (h : CmdReady s q 0x09 e)
    (hp : PktGood e [(16, 1)] (fun p => pktIndex p ≤ 35 && rd p 16 1 == 1)) (hm : rd e.pkt 16 1 = 1) :
    execCommitDiscard q s = .next ((s.updUnit (pktIndex e.pkt) (fun x => { x with staged := [], discarded := false })).finish e.idx OK
      (zeros 3 ++ leBytes 1 (pktIndex e.pkt))) :=
  runCmdSel_done h (by simp [hm]) hp (.inl rfl) rfl (.inl (by decide))

/-- COMMIT APPLY whose changes are consistent (R30) is refused where two generations are pending (R31). -/
theorem execCommitApply_noResource {s : State} {q : Nat} {e : JEntry} (h : CmdReady s q 0x09 e)
    (hp : PktGood e [(16, 1)] (fun p => pktIndex p ≤ 35 && rd p 16 1 == 0)) (hm : rd e.pkt 16 1 = 0)
    (hgang : s.gangSplit (fun k => k = pktIndex e.pkt) = false) (hmove : s.stagedMoveArmed (pktIndex e.pkt) = false)
    (hpend : 2 ≤ (nth s.units (pktIndex e.pkt)).pend.length) :
    execCommitApply q s = .next (s.finish e.idx NO_RESOURCE []) :=
  runCmdSel_done h (by simp [hm]) hp (.inl rfl) (by simp [hgang, hmove, hpend, refuse]) (.inl (by decide))

/-! ### The obligations -/

/-- Settles O57: DISCARD's body is the change of the one unit, and the frame is that of a change of one element of a bank. -/
theorem commitDiscardEmptiesTheStagingSet : Obligations.CommitDiscardEmptiesTheStagingSet := by
  rintro s q e u t rfl hp hr hm hu rfl
  have hself := nth_upd_self (fun x : CUnit => { x with staged := [], discarded := false }) hu
  refine ⟨execCommitDiscard_done hr (hp.commit_mode hm) hm, ?_, ?_, rfl, ?_⟩
  · rw [State.updUnit_units, hself]
  · rw [State.updUnit_units, hself]
  · intro v hv
    rw [State.updUnit_units, nth_upd_of_ne _ hv]

/-- Settles O58: R30's two checks pass, so the refusal is R31's, and a refusal leaves the units as they are. -/
theorem thirdGenerationIsRefused : Obligations.ThirdGenerationIsRefused := by
  rintro s q e u rfl hp hr hgang hmove hpend
  have ⟨_, hpre⟩ := hp
  have hm : rd e.pkt 16 1 = 0 := eq_of_beq (Bool.and_elim_right hpre)
  exact ⟨execCommitApply_noResource hr hp hm hgang hmove hpend, State.finish_units ..⟩

end Sys2Proof.Machine
end

