-- ==== Sys2Proof/Proofs/DmaLoop.lean ====
section
/-! PROOFS. The DMA channel's LOOP (R339). -/

namespace Sys2Proof.Machine

section Loop

variable {s : State} {c : Nat} {x : DmaCh} {i : DmaIns} (h : DmaReady s c x i) (hop : i.op = 2)
include h hop

/-- COUNT 0 branches whatever the counter holds, and leaves the counter alone. -/
theorem execDmaLoop_forever (he : i.e = 0) : execDmaLoop c s = .next (s.dmaGo c i.d).dmaPump := by
  rw [execDmaLoop, dmaRow_ready h (decide_eq_true hop)]
  simp only [he, if_true]

/-- A counter that the LOOP at another index activated halts the channel with BAD_INSTR. -/
theorem execDmaLoop_badOwner (he : i.e ≠ 0) (ha : (nth x.lc i.a).active = true) (ho : (nth x.lc i.a).owner ≠ x.pc) :
    execDmaLoop c s = .next (s.dmaHalt c 1 0 x.pc (x.insAddr x.pc)).dmaPump := by
  rw [execDmaLoop, dmaRow_ready h (decide_eq_true hop)]
  simp [he, ha, ho]

/-- A counter that is free, or that this LOOP owns, counts down to `left`: at 0 it is free and the program falls through, above 0 it is
this LOOP's and the branch is taken. The channel's own counters and PC are those of x, which the change of the channel finds there. -/
theorem execDmaLoop_counts {left : Nat} (he : i.e ≠ 0) (ho : (nth x.lc i.a).active = true → (nth x.lc i.a).owner = x.pc)
    (hl : left = (if (nth x.lc i.a).active then (nth x.lc i.a).left else i.e) - 1) :
    execDmaLoop c s = .next ((s.updDma c (fun y =>
      { y with lc := x.lc.set i.a (if left = 0 then {} else { active := true, left := left, owner := x.pc }) })).dmaGo c
        (if left = 0 then x.pc + 1 else i.d)).dmaPump := by
  have hfree : ((nth x.lc i.a).active && decide ((nth x.lc i.a).owner ≠ x.pc)) = false := by simpa using ho
  rw [execDmaLoop, dmaRow_ready h (decide_eq_true hop)]
  simp only [he, hfree, Bool.false_eq_true, if_false, ← hl]
  exact congrArg (fun t : State => Host.Outcome.next (t.dmaGo c _).dmaPump) (State.updDma_congr h.chan rfl)

end Loop

/-- Settles O59: one clause for each way LOOP ends, the last two being the count's two outcomes. -/
theorem loopRunsItsBody : Obligations.LoopRunsItsBody := by
  rintro s c x i _ left h hop rfl hl
  refine ⟨execDmaLoop_forever h hop, execDmaLoop_badOwner h hop, fun he ho hpos => ?_, fun he ho hzero => ?_⟩
  · have hcount := execDmaLoop_counts h hop he ho hl
    rwa [if_neg hpos.ne', if_neg hpos.ne'] at hcount
  · have hcount := execDmaLoop_counts h hop he ho hl
    rwa [if_pos hzero, if_pos hzero] at hcount

end Sys2Proof.Machine
end

