-- ==== Sys2Proof/Proofs/Steps.lean ====
section
/-! PROOFS. What a step is, and what every step keeps. -/

namespace Sys2Proof.Machine

/-! ### What every command keeps -/

/-- Every command answers a next state, and keeps what `Keeps` names: a case for each row of the table. -/
theorem exec_keeps (c : Instr) (s : State) : ResKeeps s (exec c s) := by
  have h := Keeps.refl s
  cases c with
  | nop q => exact execNop_keeps h q
  | identify q => exact execIdentify_keeps h q
  | getStatus q => exact execGetStatus_keeps h q
  | recoverReport q writeOk => exact execRecoverReport_keeps h q writeOk
  | stageWrite q tbl => exact execStageWrite_keeps h q tbl
  | commitApply q => exact execCommitApply_keeps h q
  | commitDiscard q => exact execCommitDiscard_keeps h q
  | readConfig q writeOk => exact execReadConfig_keeps h q writeOk
  | setSampleRate q => exact execSetSampleRate_keeps h q
  | setReference q jumpNow => exact execSetReference_keeps h q jumpNow
  | clockOutputConfig q => exact execClockOutputConfig_keeps h q
  | phaseStep q => exact execPhaseStep_keeps h q
  | channelConfig q => exact execChannelConfig_keeps h q
  | delayTableLoad q tbl => exact execDelayTableLoad_keeps h q tbl
  | filterBankLoad q tbl => exact execFilterBankLoad_keeps h q tbl
  | triggerProgram q tbl => exact execTriggerProgram_keeps h q tbl
  | arm q => exact execArm_keeps h q
  | forceTrigger q => exact execForceTrigger_keeps h q
  | stop q => exact execStop_keeps h q
  | abort q => exact execAbort_keeps h q
  | streamStart q => exact execStreamStart_keeps h q
  | streamStop q => exact execStreamStop_keeps h q
  | recordRelease q => exact execRecordRelease_keeps h q
  | recordQuery q writeOk => exact execRecordQuery_keeps h q writeOk
  | pondConfig q => exact execPondConfig_keeps h q
  | soundingConfig q tbl => exact execSoundingConfig_keeps h q tbl
  | calControl q => exact execCalControl_keeps h q
  | calReport q writeOk => exact execCalReport_keeps h q writeOk
  | skewMeasure q => exact execSkewMeasure_keeps h q
  | beaconConfig q tbl => exact execBeaconConfig_keeps h q tbl
  | beaconMeasure q => exact execBeaconMeasure_keeps h q
  | timeSetMap q => exact execTimeSetMap_keeps h q
  | timeSetLoad q => exact execTimeSetLoad_keeps h q
  | timeSetManual q => exact execTimeSetManual_keeps h q
  | displayConfig q tbl => exact execDisplayConfig_keeps h q tbl
  | edidRead q aux writeOk => exact execEdidRead_keeps h q aux writeOk
  | lampFrameWrite q tbl => exact execLampFrameWrite_keeps h q tbl
  | lampConfig q tbl => exact execLampConfig_keeps h q tbl
  | monitorScanConfig q tbl => exact execMonitorScanConfig_keeps h q tbl
  | monitorReadLast q => exact execMonitorReadLast_keeps h q
  | monitorReadUrgent q => exact execMonitorReadUrgent_keeps h q
  | powerState q => exact execPowerState_keeps h q
  | domainControl q => exact execDomainControl_keeps h q
  | keyProvisionWrite q tbl => exact execKeyProvisionWrite_keeps h q tbl
  | keyProvisionErase q => exact execKeyProvisionErase_keeps h q
  | debugChallenge q nonce => exact execDebugChallenge_keeps h q nonce
  | debugResponse q tbl => exact execDebugResponse_keeps h q tbl
  | alarmPolicy q => exact execAlarmPolicy_keeps h q
  | attestDevice q writeOk => exact execAttestDevice_keeps h q writeOk
  | attestRecord q writeOk => exact execAttestRecord_keeps h q writeOk
  | errorRead q writeOk => exact execErrorRead_keeps h q writeOk
  | errorAck q => exact execErrorAck_keeps h q
  | controlStoreInfo q => exact execControlStoreInfo_keeps h q
  | badOpcode q => exact execBadOpcode_keeps h q
  | duplicateCommand q => exact execDuplicateCommand_keeps h q
  | sqTailWrite q v => exact execSqTailWrite_keeps h q v
  | sqFetch reads => exact execSqFetch_keeps h reads
  | cqHeadWrite q v => exact execCqHeadWrite_keeps h q v
  | qEnable q v => exact execQEnable_keeps h q v
  | qDisable q v => exact execQDisable_keeps h q v
  | qResume q v => exact execQResume_keeps h q v
  | clearErr q v => exact execClearErr_keeps h q v
  | eqEnable e v => exact execEqEnable_keeps h e v
  | eqDisable e v => exact execEqDisable_keeps h e v
  | eqResume e v => exact execEqResume_keeps h e v
  | eqHeadWrite e v => exact execEqHeadWrite_keeps h e v
  | cqPost q => exact execCqPost_keeps h q
  | eventPost e => exact execEventPost_keeps h e
  | latchedWritesApply => exact execLatchedWritesApply_keeps h
  | abortAll v => exact execAbortAll_keeps h v
  | microTrap k c => exact execMicroTrap_keeps h k c
  | blockReplyTimeout q => exact execBlockReplyTimeout_keeps h q
  | lockstepMismatch => exact execLockstepMismatch_keeps h
  | sequencerSelfTestDone aPass bPass => exact execSequencerSelfTestDone_keeps h aPass bPass
  | requeuedExecute q => exact execRequeuedExecute_keeps h q
  | journalCopyFail copy cause => exact execJournalCopyFail_keeps h copy cause
  | journalBRebuild => exact execJournalBRebuild_keeps h
  | tbNowLoRead => exact execTbNowLoRead_keeps h
  | errEntryRepeatRead n => exact execErrEntryRepeatRead_keeps h n
  | registerWrite t v be => exact execRegisterWrite_keeps h t v be
  | irqMaskWrite c v => exact execIrqMaskWrite_keeps h c v
  | glbIrqMaskWrite v => exact execGlbIrqMaskWrite_keeps h v
  | msixUnmask v => exact execMsixUnmask_keeps h v
  | imgBell v => exact execImgBell_keeps h v
  | bar2Read off len ecc => exact execBar2Read_keeps h off len ecc
  | bar2Write off => exact execBar2Write_keeps h off
  | dmaEnable c v => exact execDmaEnable_keeps h c v
  | dmaDisable c v => exact execDmaDisable_keeps h c v
  | dmaStoppingEnd c => exact execDmaStoppingEnd_keeps h c
  | dmaPause c v => exact execDmaPause_keeps h c v
  | dmaUnpause c v => exact execDmaUnpause_keeps h c v
  | creditAdd c v => exact execCreditAdd_keeps h c v
  | dmaMove c => exact execDmaMove_keeps h c
  | dmaLoop c => exact execDmaLoop_keeps h c
  | dmaWaitSeg c => exact execDmaWaitSeg_keeps h c
  | dmaWaitCredit c => exact execDmaWaitCredit_keeps h c
  | dmaWaitTb c => exact execDmaWaitTb_keeps h c
  | dmaWaitResume c => exact execDmaWaitResume_keeps h c
  | dmaSignalHalf c => exact execDmaSignalHalf_keeps h c
  | dmaSignalFull c => exact execDmaSignalFull_keeps h c
  | dmaSignalRelease c => exact execDmaSignalRelease_keeps h c
  | dmaLoadImm c => exact execDmaLoadImm_keeps h c
  | dmaLoadAdd c => exact execDmaLoadAdd_keeps h c
  | dmaLoadMem c => exact execDmaLoadMem_keeps h c
  | dmaLoadShl c => exact execDmaLoadShl_keeps h c
  | dmaFence c => exact execDmaFence_keeps h c
  | dmaEnd c => exact execDmaEnd_keeps h c
  | dmaBadInstr c => exact execDmaBadInstr_keeps h c
  | dmaBurstResponse c r st => exact execDmaBurstResponse_keeps h c r st
  | completionTimeout r => exact execCompletionTimeout_keeps h r
  | flr => exact execFlr_keeps h
  | hotReset => exact execHotReset_keeps h
  | d3hotEnter => exact execD3hotEnter_keeps h
  | d0Return => exact execD0Return_keeps h
  | laneFault lane cause => exact execLaneFault_keeps h lane cause
  | ptmDialog ns ago => exact execPtmDialog_keeps h ns ago
  | coldReset => exact execColdReset_keeps h
  | resetNAssert => exact execResetNAssert_keeps h
  | perstNAssert => exact execPerstNAssert_keeps h
  | resetRelease resetN flash copies => exact execResetRelease_keeps h resetN flash copies
  | imageVerified img => exact execImageVerified_keeps h img
  | startupPhaseDone ms => exact execStartupPhaseDone_keeps h ms
  | startupPhaseOverrun ms => exact execStartupPhaseOverrun_keeps h ms
  | domainRampDone => exact execDomainRampDone_keeps h
  | heartbeatTimeout d => exact execHeartbeatTimeout_keeps h d
  | domainRestartOn d => exact execDomainRestartOn_keeps h d
  | lockDeclared x => exact execLockDeclared_keeps h x
  | springGate => exact execSpringGate_keeps h
  | lossOfLock cmps => exact execLossOfLock_keeps h cmps
  | refLost cause => exact execRefLost_keeps h cause
  | refReturn jump => exact execRefReturn_keeps h jump
  | slewDone => exact execSlewDone_keeps h
  | freeRunRelock => exact execFreeRunRelock_keeps h
  | dividerBoundary => exact execDividerBoundary_keeps h
  | clockMonitorAlarm what => exact execClockMonitorAlarm_keeps h what
  | tbWrap => exact execTbWrap_keeps h
  | ppsInEdge stamp rise => exact execPpsInEdge_keeps h stamp rise
  | ppsMissing => exact execPpsMissing_keeps h
  | timeSetTimeout q => exact execTimeSetTimeout_keeps h q
  | ppsOutPulse => exact execPpsOutPulse_keeps h
  | beaconFrameSend p => exact execBeaconFrameSend_keeps h p
  | beaconFrameReceive p frame edge => exact execBeaconFrameReceive_keeps h p frame edge
  | portDown p => exact execPortDown_keeps h p
  | portSelfTest p pass result => exact execPortSelfTest_keeps h p pass result
  | arrMeasured p => exact execArrMeasured_keeps h p
  | beaconMeasureDone writeOk => exact execBeaconMeasureDone_keeps h writeOk
  | trigInTransition input t rise => exact execTrigInTransition_keeps h input t rise
  | triggerDecision g feeds upTo => exact execTriggerDecision_keeps h g feeds upTo
  | trigOutTimedEdge out => exact execTrigOutTimedEdge_keeps h out
  | sequenceTimeout g => exact execSequenceTimeout_keeps h g
  | acqBoundary u => exact execAcqBoundary_keeps h u
  | fadeEnd n => exact execFadeEnd_keeps h n
  | postFillEnd g feeds => exact execPostFillEnd_keeps h g feeds
  | segmentComplete g => exact execSegmentComplete_keeps h g
  | waitFullEnd g => exact execWaitFullEnd_keeps h g
  | streamFrameEnd g feeds => exact execStreamFrameEnd_keeps h g feeds
  | avgWriteoutDone g => exact execAvgWriteoutDone_keeps h g
  | mapClearDone n => exact execMapClearDone_keeps h n
  | decayPassStart n => exact execDecayPassStart_keeps h n
  | stackFailure k cause => exact execStackFailure_keeps h k cause
  | rebuildDone => exact execRebuildDone_keeps h
  | estimatorWindowEnd n w => exact execEstimatorWindowEnd_keeps h n w
  | trimTick => exact execTrimTick_keeps h
  | foregroundCalDone q found => exact execForegroundCalDone_keeps h q found
  | quadStart q => exact execQuadStart_keeps h q
  | skewMeasureDone res writeOk => exact execSkewMeasureDone_keeps h res writeOk
  | frameBoundary => exact execFrameBoundary_keeps h
  | line0Flip => exact execLine0Flip_keeps h
  | rasterPassDone => exact execRasterPassDone_keeps h
  | lineUnderrun => exact execLineUnderrun_keeps h
  | fetchUrgent enter => exact execFetchUrgent_keeps h enter
  | dpTrain k => exact execDpTrain_keeps h k
  | dpTrainEnd k sink tries => exact execDpTrainEnd_keeps h k sink tries
  | hpdLow k => exact execHpdLow_keeps h k
  | hpdIrq k => exact execHpdIrq_keeps h k
  | dpRetry k => exact execDpRetry_keeps h k
  | dpSelfTest k pass result => exact execDpSelfTest_keeps h k pass result
  | lampRowSlot findings => exact execLampRowSlot_keeps h findings
  | lampFrameBoundary => exact execLampFrameBoundary_keeps h
  | lampSyncEdge => exact execLampSyncEdge_keeps h
  | lampDiagSubframe findings => exact execLampDiagSubframe_keeps h findings
  | buoyScanStart => exact execBuoyScanStart_keeps h
  | buoyConversionDone code => exact execBuoyConversionDone_keeps h code
  | ageingGate input count => exact execAgeingGate_keeps h input count
  | railComparatorTrip d => exact execRailComparatorTrip_keeps h d
  | tempComparatorCheck out => exact execTempComparatorCheck_keeps h out
  | lidSenseHigh => exact execLidSenseHigh_keeps h
  | zeroiseEraseDone => exact execZeroiseEraseDone_keeps h
  | vendorUnlockEraseDone => exact execVendorUnlockEraseDone_keeps h
  | keystoreError slot => exact execKeystoreError_keeps h slot
  | challengeExpiry => exact execChallengeExpiry_keeps h
  | acceptanceOpens g => exact execAcceptanceOpens_keeps h g
  | acquisitionEnded g feeds => exact execAcquisitionEnded_keeps h g feeds
  | receiverLosesAlignment p => exact execReceiverLosesAlignment_keeps h p
  | uncorrectableStateError d => exact execUncorrectableStateError_keeps h d
  | vddAonReturn => exact execVddAonReturn_keeps h
  | tapAccess a => exact execTapAccess_keeps h a
  | receivedTlpError e => exact execReceivedTlpError_keeps h e
  | pcieLinkUp gen width flit => exact execPcieLinkUp_keeps h gen width flit

/-- What is kept of an answer is an answer: a next state. -/
theorem ResKeeps.exists_next {s : State} {r : Res} (h : ResKeeps s r) : ∃ t, r = .next t ∧ Keeps s t := by
  obtain ⟨h⟩ := h
  exact ⟨_, rfl, h⟩

/-! ### Steps -/

theorem step_of_pending {c : Instr} {rest : List Instr} {s : State} (h : s.pending = c :: rest) :
    step s = exec c { s with pending := rest } := by simp only [step, h]

theorem step_of_idle {s : State} (h : s.pending = []) : step s = .next s.tick := by simp only [step, h]

/-- A step keeps what it finds, but for the command it takes from the queue. -/
theorem step_keeps {s t : State} (h : step s = .next t) : ∃ rest, Keeps { s with pending := rest } t := by
  cases hp : s.pending with
  | nil =>
    rw [step_of_idle hp] at h
    cases h
    exact ⟨s.pending, State.tick_keeps (Keeps.refl s)⟩
  | cons c rest =>
    rw [step_of_pending hp] at h
    obtain ⟨t', ht', hk⟩ := (exec_keeps c { s with pending := rest }).exists_next
    rw [h] at ht'
    cases ht'
    exact ⟨rest, hk⟩

/-! ### An idle core cycle -/

theorem State.linkIdle_of_busy {s : State} (h : s.mayRest = false) : s.linkIdle = s := by simp [State.linkIdle, h]

/-- Whether a link that may rest does is a free value, and only its state changes (R364). -/
theorem State.linkIdle_of_mayRest {s : State} (h : s.mayRest = true) :
    s.linkIdle = { s with freeCtr := s.freeCtr + 1,
                          pcie := { s.pcie with link := if Config.freeBool s.freeCtr then s.pcie.cfg.rest else .l0 } } := by
  have hlink : s.pcie.link = .l0 := by
    simp only [State.mayRest, Bool.and_eq_true, beq_iff_eq] at h
    exact h.1
  cases hfree : Config.freeBool s.freeCtr with
  | true => simp [State.linkIdle, h, State.draw, hfree]
  | false => simp [State.linkIdle, h, State.draw, hfree, ← hlink]

theorem State.linkIdle_tb (s : State) : s.linkIdle.tb = s.tb := by
  cases h : s.mayRest with
  | false => rw [linkIdle_of_busy h]
  | true => rw [linkIdle_of_mayRest h]

theorem State.linkIdle_now (s : State) : s.linkIdle.now = s.now := by
  cases h : s.mayRest with
  | false => rw [linkIdle_of_busy h]
  | true => rw [linkIdle_of_mayRest h]

section Tick

variable {s s1 : State} (hs : s1 = s.linkIdle)
include hs

theorem State.tick_of_stopped (h : s.tb.counting = false) : s.tick = { s1 with now := s.now + 16 } := by
  subst hs
  have hw : ¬(s.tb.counting && decide (2 ^ 64 ≤ s.tb.count.toNat + 16)) = true := by simp [h]
  have hc : ¬s.tb.counting = true := by simp [h]
  simp only [tick, linkIdle_tb, linkIdle_now, if_neg hw, if_neg hc]

theorem State.tick_of_counting (h : s.tb.counting = true) (hw : s.tb.count.toNat + 16 < 2 ^ 64) :
    s.tick = { s1 with now := s.now + 16, tb := { s.tb with count := s.tb.count + 16 } } := by
  subst hs
  simp only [tick, linkIdle_tb, linkIdle_now, h, decide_eq_false (Nat.not_le.2 hw), Bool.true_and, Bool.false_eq_true, if_true, if_false]

theorem State.tick_of_wrapping (h : s.tb.counting = true) (hw : 2 ^ 64 ≤ s.tb.count.toNat + 16) :
    s.tick = { s1 with
      now := s.now + 16, tb := { s.tb with count := s.tb.count + 16, epoch := (s.tb.epoch + 1) % 65536, wrapAt := some s.now } } := by
  subst hs
  simp only [tick, linkIdle_tb, linkIdle_now, h, decide_eq_true hw, Bool.true_and, if_true]

end Tick

/-! ### The obligations -/

/-- Settles O1. -/
theorem stepRunsTheFrontCommand : Obligations.StepRunsTheFrontCommand :=
  fun _ _ _ h => step_of_pending h

/-- Settles O2: the link's free choice first, then the clock and the count, by whether TB_COUNT counts and wraps. -/
theorem idleStepIsOneCoreCycle : Obligations.IdleStepIsOneCoreCycle := by
  intro s s1 hp hs
  refine ⟨fun h => hs ▸ State.linkIdle_of_busy h, fun h => hs ▸ State.linkIdle_of_mayRest h, ?_, ?_, ?_⟩ <;> rw [step_of_idle hp]
  · exact fun hc => congrArg _ (State.tick_of_stopped hs hc)
  · exact fun hc hw => congrArg _ (State.tick_of_counting hs hc hw)
  · exact fun hc hw => congrArg _ (State.tick_of_wrapping hs hc hw)

/-- Settles O3: every row's meaning answers, and `Keeps` holds the queue. -/
theorem everyCommandAnswersAndKeepsTheQueue : Obligations.EveryCommandAnswersAndKeepsTheQueue := by
  intro c s
  obtain ⟨t, ht, hk⟩ := (exec_keeps c s).exists_next
  exact ⟨t, ht, hk.pending⟩

/-- Settles O4. -/
theorem stepKeepsMemoriesAndActiveSet : Obligations.StepKeepsMemoriesAndActiveSet := by
  refine ⟨fun s t hm ht => ?_, fun s t hc ht => ?_⟩ <;> obtain ⟨_, hk⟩ := step_keeps ht
  · exact ⟨hk.rsvMem hm.1, hk.pondMem hm.2⟩
  · exact hk.cfg hc

/-- Settles O5. -/
theorem stepKeepsTwoGenerations : Obligations.StepKeepsTwoGenerations := by
  intro s t hp ht
  obtain ⟨_, hk⟩ := step_keeps ht
  exact hk.pend hp

/-- Settles O6. -/
theorem stepKeepsEventBounds : Obligations.StepKeepsEventBounds := by
  rintro s t ⟨hheld, hstby⟩ ht
  obtain ⟨_, hk⟩ := step_keeps ht
  exact ⟨hk.held hheld, hk.stby hstby⟩

end Sys2Proof.Machine
end

