-- ==== Sys2Proof/Proofs/Frames.lean ====
section
/-! PROOFS. The frame every command ends in, and the packet errors that come before anything else (R281, R288, R300). -/

namespace Sys2Proof.Machine

/-! ### The journal after a change of one index -/

section Journal

variable {s : State} {i j : Nat} {f : JEntry → JEntry} (hf : ∀ x, (f x).idx = x.idx)
include hf

/-- A search by index sees the change of the entry it finds, and only that. -/
theorem find?_map_idx (l : List JEntry) :
    (l.map (fun x => if x.idx = i then f x else x)).find? (fun x => x.idx == j) =
      (l.find? (fun x => x.idx == j)).map (fun x => if j = i then f x else x) := by
  induction l with
  | nil => rfl
  | cons x r ih =>
    have hidx : (if x.idx = i then f x else x).idx = x.idx := by split <;> simp [hf]
    rw [List.map_cons, List.find?_cons, List.find?_cons, hidx]
    by_cases hx : x.idx = j
    · simp [hx]
    · rw [beq_false_of_ne hx]
      exact ih

theorem State.jget_updJ (hc : (s.cp.aOk || s.cp.bOk) = true) :
    (s.updJ i f).jget j = (s.jget j).map (fun x => if j = i then f x else x) := by
  unfold State.jget State.updJ Cp.jrn Cp.mapJrn
  cases ha : s.cp.aOk with
  | true => simp [ha, find?_map_idx hf]
  | false =>
    have hb : s.cp.bOk = true := by simpa [ha] using hc
    simp [ha, hb, find?_map_idx hf]

theorem State.jget_updJ_of_ne (h : j ≠ i) : (s.updJ i f).jget j = s.jget j := by
  unfold State.jget State.updJ Cp.jrn Cp.mapJrn
  have hid (o : Option JEntry) : o.map (fun x => if j = i then f x else x) = o := by simp [h]
  cases ha : s.cp.aOk <;> cases hb : s.cp.bOk <;> simp [ha, hb, find?_map_idx hf, hid]

end Journal

/-! ### The end of a command -/

/-- What the micro-commit makes of a journal entry (R288). -/
def JEntry.ended (status : Nat) (result : List Byte) (e : JEntry) : JEntry :=
  { e with st := .done, status := status, result := padTo 16 result, wait := none, finalDue := true }

/-- The end of a command changes its entry and, where it has one, its thread and that thread's change list. -/
theorem State.finish_of_jget {s : State} {e : JEntry} {status : Nat} {result : List Byte} (h : s.jget e.idx = some e)
    (hc : (s.cp.aOk || s.cp.bOk) = true) :
    s.finish e.idx status result = (s.updJ e.idx (JEntry.ended status result)).updCp (fun c =>
      { c with threads := upd c.threads e.queue (fun t => { t with st := if t.st == .locked then .locked else .idle }),
               changeLog := upd c.changeLog e.queue (fun _ => 0) }) := by
  have hj := State.jget_updJ (s := s) (i := e.idx) (j := e.idx) (f := JEntry.ended status result) (fun _ => rfl) hc
  unfold State.finish
  rw [h] at hj
  simp only [Option.map_some, if_true] at hj
  change (match (s.updJ e.idx (JEntry.ended status result)).jget e.idx with | some e => _ | none => _) = _
  rw [hj]
  rfl

theorem State.jget_updCp_threads (s : State) (f : Cp → Cp) (hf : (f s.cp).jrn = s.cp.jrn) (i : Nat) : (s.updCp f).jget i = s.jget i := by
  simp [State.jget, hf]

/-- Settles O8: the entry the journal holds for the index is changed in each copy in service, and the rest is the thread's. -/
theorem endOfACommand : Obligations.EndOfACommand := by
  intro s e status result h hc
  have hkeep : ∀ x : JEntry, (x.ended status result).idx = x.idx := fun _ => rfl
  rw [State.finish_of_jget h hc]
  refine ⟨?_, fun i hi => ?_, fun ha => ?_, fun hb => ?_, rfl⟩
  · rw [State.jget_updCp_threads _ _ rfl, State.jget_updJ hkeep hc, h]
    simp [JEntry.ended]
  · rw [State.jget_updCp_threads _ _ rfl, State.jget_updJ_of_ne hkeep hi]
  · simp [State.updJ, Cp.mapJrn, ha]
  · simp [State.updJ, Cp.mapJrn, hb]

/-! ### Packet errors -/

/-- Settles O9: each of the eight rows runs its command in the common frame, whose first check is the packet's. -/
theorem packetErrorsComeFirst : Obligations.PacketErrorsComeFirst := by
  intro s q e
  refine ⟨fun h hp => ?_, fun h hp => ?_, fun h hp => ?_, fun h hp => ?_, fun h hp => ?_, fun h hp => ?_, fun nonce h hp => ?_, fun h hp => ?_⟩
  · exact show execNop q s = _ from runCmd_bad h hp
  · exact show execIdentify q s = _ from runCmd_bad h hp
  · exact show execGetStatus q s = _ from runCmd_bad h hp
  · exact show execControlStoreInfo q s = _ from runCmd_bad h hp
  · exact show execChannelConfig q s = _ from runCmd_bad h hp
  · exact show execArm q s = _ from runCmd_bad h hp
  · exact show execDebugChallenge q nonce s = _ from runCmd_bad h hp
  · exact show execErrorAck q s = _ from runCmd_bad h hp

end Sys2Proof.Machine
end

