-- ==== Sys2Proof/Proofs/Staging.lean ====
section
/-! PROOFS. What staging touches, what the shadow view reads after it, and COMMIT with APPLY (R22 to R34). -/

namespace Sys2Proof.Machine

/-! ### Staging one register -/

/-- A staged register reads back from the list that holds it. -/
theorem kget_kput_same {α : Type} (l : List (Nat × α)) (k : Nat) (v : α) : kget (kput l k v) k = some v := by
  induction l with
  | nil => simp [kput, kget]
  | cons p r ih =>
    obtain ⟨j, w⟩ := p
    unfold kput
    split
    · rename_i h; simp [kget, Nat.ne_of_lt h, ih]
    · split <;> simp [kget]

/-- Staging a register changes a staging set and the order of staging alone. -/
theorem State.stage1_frame (s : State) (a v : Nat) :
    s.stage1 a v = { s with units := (s.stage1 a v).units, cp := { s.cp with stageOrd := (s.stage1 a v).cp.stageOrd } } := rfl

/-- A unit's change of its staging set leaves what it holds beside it. -/
theorem map_unstaged_upd (us : List CUnit) (u : Nat) (f : CUnit → List (Nat × Word)) :
    (upd us u (fun x => { x with staged := f x })).map (fun x => { x with staged := [] }) = us.map (fun x => { x with staged := [] }) := by
  apply List.ext_getElem
  · simp [upd]
  · intro i h1 h2
    simp only [upd, List.getElem_map, List.getElem_modify]
    split <;> rfl

/-- Pairs are staged one after the other, each as `stage1` stages it. -/
theorem stagePairs_cons_fst (s : State) (a v : Nat) (ps : List (Nat × Nat)) :
    (stagePairs s ((a, v) :: ps)).1 = (stagePairs (s.stage1 a v) ps).1 := rfl

theorem stagePairs_frame (s : State) (ps : List (Nat × Nat)) :
    (stagePairs s ps).1 = { s with units := (stagePairs s ps).1.units, cp := { s.cp with stageOrd := (stagePairs s ps).1.cp.stageOrd } } := by
  induction ps generalizing s with
  | nil => rfl
  | cons p ps ih =>
    obtain ⟨a, v⟩ := p
    rw [stagePairs_cons_fst, ih (s.stage1 a v)]
    rfl

theorem stagePairs_unstaged (s : State) (ps : List (Nat × Nat)) :
    (stagePairs s ps).1.units.map (fun u => { u with staged := [] }) = s.units.map (fun u => { u with staged := [] }) := by
  induction ps generalizing s with
  | nil => rfl
  | cons p ps ih =>
    obtain ⟨a, v⟩ := p
    rw [stagePairs_cons_fst, ih (s.stage1 a v)]
    exact map_unstaged_upd ..

/-! ### Refusals of a staging command (R27) -/

section Refusals

variable {s : State} {ps : List (Nat × Nat)} {extra : Nat}

theorem stageAll_badValue (h : ∃ p ∈ ps, p.1 < 0x1000000 ∧ shValueOk p.1 p.2 = false) : stageAll s ps extra = .done s PARAM_RANGE [] := by
  obtain ⟨p, hp, hlt, hv⟩ := h
  have hall : (ps.all (fun (a, v) => 0x1000000 ≤ a || shValueOk a v)) = false := by
    rw [List.all_eq_false]
    exact ⟨p, hp, by simp [hv, hlt]⟩
  simp [stageAll, hall, refuse]

variable (hv : (ps.all (fun (a, v) => 0x1000000 ≤ a || shValueOk a v)) = true)
include hv

theorem stageAll_badShadow (h : ∃ p ∈ ps, (stagePairs s ps).1.shadowOk p.1 = false) : stageAll s ps extra = .done s PARAM_RANGE [] := by
  obtain ⟨p, hp, hsh⟩ := h
  have hall : (ps.all (fun (a, _) => (stagePairs s ps).1.shadowOk a)) = false := by
    rw [List.all_eq_false]
    exact ⟨p, hp, by simp [hsh]⟩
  simp [stageAll, hv, hall, refuse]

theorem stageAll_refused (hsh : (ps.all (fun (a, _) => (stagePairs s ps).1.shadowOk a)) = true)
    (h : (stagePairs s ps).2.2 = true ∨ ∃ p ∈ ps, s.domOn (regDom p.1) = false) : stageAll s ps extra = .done s STATE [] := by
  have hbad : ((stagePairs s ps).2.2 || !ps.all (fun (a, _) => s.domOn (regDom a))) = true := by
    obtain hm | ⟨p, hp, hd⟩ := h
    · simp [hm]
    · rw [List.all_eq_false.2 ⟨p, hp, by simp [hd]⟩, Bool.not_false, Bool.or_true]
  simp only [stageAll, hv, hsh, hbad, Bool.not_true, Bool.false_eq_true, if_false, if_true, refuse]

end Refusals

/-- A staging command whose pairs R27 accepts, in domains that are on, stages them all. -/
theorem stageAll_ok {s : State} {ps : List (Nat × Nat)} (extra : Nat) (h : StagesOk s ps) :
    stageAll s ps extra = .done (stagePairs s ps).1 OK (stageResult s ps extra) := by
  obtain ⟨hv, hsh, hm, hd⟩ := h
  simp only [stageAll, hv, hsh, hm, hd, Bool.not_true, Bool.false_eq_true, Bool.or_self, if_false, stageResult]

/-- Settles O14. -/
theorem stagingIsConfined : Obligations.StagingIsConfined :=
  ⟨fun s ps => ⟨stagePairs_frame s ps, stagePairs_unstaged s ps⟩,
    fun _ _ _ => ⟨stageAll_badValue, stageAll_badShadow, stageAll_refused⟩⟩

/-! ### The shadow view -/

/-- The unit that staged a register last is the first whose staging set the shadow view asks (R26). -/
theorem State.stagers_stage1 (s : State) (a v : Nat) : ∃ r, (s.stage1 a v).stagers a = s.unitOf a :: r := by
  simp [State.stagers, State.stage1]

/-- A register just staged into a unit reads, in the shadow view, as the value staged (R23). -/
theorem State.shadow_stage1 (s : State) (a v : Nat) (hu : s.unitOf a < s.units.length) (hv : v < 2 ^ 32) : (s.stage1 a v).shadow a = v := by
  obtain ⟨r, hr⟩ := s.stagers_stage1 a v
  have hread : (nth (s.stage1 a v).units (s.unitOf a)).stagedAt true a = some (BitVec.ofNat 32 v) := by
    rw [State.stage1, State.updUnit_units, State.updCp_units, nth_upd_self _ hu]
    exact kget_kput_same ..
  have hin : (s.stage1 a v).stagedIn (fun _ => true) a = some (BitVec.ofNat 32 v) := by
    rw [State.stagedIn, hr, List.findSome?_cons, hread]
  rw [State.shadow, State.view, hin]
  simpa using Nat.mod_eq_of_lt hv

/-- Settles O15: a register of its own unit is staged there, whatever memberships say. -/
theorem shadowReadsTheStagedValue : Obligations.ShadowReadsTheStagedValue := by
  intro s a v u r hlen hr ho hu hv
  have hunit : s.unitOf a = u := by simp [State.unitOf, regChan, hr, ho]
  exact State.shadow_stage1 s a v (by omega) hv

/-! ### COMMIT with APPLY -/

/-- Unit u's staging set has become its newest pending generation, noted as the newest of all (R26, R30, R32). -/
def State.pendStaged (s : State) (u : Nat) : State :=
  (s.updCp (fun c =>
    { c with genOrd := (u, (nth s.units u).nextGen) :: c.genOrd.filter (fun p => p != (u, (nth s.units u).nextGen)) })).updUnit u
      (fun x => { x with pend := x.pend ++ [{ num := x.nextGen, regs := x.staged }], staged := [],
                         nextGen := (x.nextGen + 1) % 65536, discarded := false })

section Apply

variable {s : State} {q : Nat} {e : JEntry} (h : CmdReady s q 0x09 e) (hp : PktGood e [(16, 1)] (fun p => pktIndex p ≤ 35 && rd p 16 1 == 0))
include h hp

theorem execCommitApply_waits (hgang : s.gangSplit (fun k => k = pktIndex e.pkt) = false) (hmove : s.stagedMoveArmed (pktIndex e.pkt) = false)
    (hroom : (nth s.units (pktIndex e.pkt)).pend.length < 2) :
    execCommitApply q s = .next ((s.pendStaged (pktIndex e.pkt)).waitsFor e (.commit (pktIndex e.pkt) (nth s.units (pktIndex e.pkt)).nextGen)
      (some (commitResult (nth s.units (pktIndex e.pkt)).nextGen 0 (pktIndex e.pkt) 0))) := by
  have hm : rd e.pkt 16 1 = 0 := eq_of_beq (Bool.and_elim_right hp.2)
  exact runCmdSel_wait h (by simp [hm]) hp (.inl rfl) (by simp [hgang, hmove, Nat.not_le.2 hroom, State.pendStaged])

theorem execCommitApply_gangSplit (hgang : s.gangSplit (fun k => k = pktIndex e.pkt) = true) :
    execCommitApply q s = .next (s.finish e.idx PARAM_RANGE []) := by
  have hm : rd e.pkt 16 1 = 0 := eq_of_beq (Bool.and_elim_right hp.2)
  exact runCmdSel_done h (by simp [hm]) hp (.inl rfl) (by simp [hgang, refuse]) (.inl (by decide))

theorem execCommitApply_moveArmed (hst : s.pwr.starting = false) (hgang : s.gangSplit (fun k => k = pktIndex e.pkt) = false)
    (hmove : s.stagedMoveArmed (pktIndex e.pkt) = true) : execCommitApply q s = .next (s.finish e.idx STATE []) := by
  have hm : rd e.pkt 16 1 = 0 := eq_of_beq (Bool.and_elim_right hp.2)
  exact runCmdSel_done h (by simp [hm]) hp (.inl rfl) (by simp [hgang, hmove, refuse]) (.inr hst)

end Apply

/-- Settles O16. -/
theorem commitApplyCompletes : Obligations.CommitApplyCompletes := by
  refine ⟨?_, ?_⟩
  · rintro s q e u rfl hp h hm hgang hmove hroom
    exact execCommitApply_waits h (hp.commit_mode hm) hgang hmove hroom
  · rintro s q e u rfl hp h
    exact ⟨execCommitApply_gangSplit h hp, execCommitApply_moveArmed h hp⟩

end Sys2Proof.Machine
end

