-- ==== Sys2Proof/Proofs/Queries.lean ====
section
/-! PROOFS. The state after a cold reset, and the commands that ask (R270, R283, R302 to R305). -/

namespace Sys2Proof.Machine

/-! ### The state after a cold reset -/

/-- An element of a bank of equal elements, inside the bank or outside it. -/
theorem nth_replicate {α : Type} [Inhabited α] (n i : Nat) (x : α) : nth (List.replicate n x) i = if i < n then x else default := by
  unfold nth
  split <;> rename_i h
  · rw [List.getD_eq_getElem _ _ (by simpa using h)]; simp
  · rw [List.getD_eq_default _ _ (by simpa using h)]

/-- Settles O7: the reset state is the default of each field, but for PD49. -/
theorem resetState : Obligations.ResetState := by
  refine ⟨⟨⟨rfl, rfl⟩, rfl, fun u hu => ?_, fun e he => ?_, by decide⟩, fun _ => rfl, rfl, rfl, rfl, rfl, by decide, fun q => ?_, fun e => ?_, fun v hv => ?_, rfl, rfl, rfl, rfl,
    rfl, rfl, fun u => ?_, rfl, rfl, rfl⟩
  · rw [List.eq_of_mem_replicate (show u ∈ List.replicate 36 {} from hu)]
    decide
  · rw [List.eq_of_mem_replicate (show e ∈ List.replicate 4 {} from he)]
    decide
  · rw [show State.reset.cp.queues = List.replicate 8 {} from rfl, nth_replicate]
    split <;> exact ⟨rfl, rfl⟩
  · rw [show State.reset.cp.eqs = List.replicate 4 {} from rfl, nth_replicate]
    split <;> rfl
  · rw [show State.reset.pcie.msix = List.replicate 64 {} from rfl, nth_replicate, if_pos hv]
  · rw [show State.reset.units = List.replicate 36 {} from rfl, nth_replicate]
    split <;> exact ⟨rfl, rfl⟩

/-! ### Reports -/

/-- A report whose write succeeds stands in the command's buffer. -/
theorem withReport_written {s : State} {e : JEntry} {bs : List Byte} {k : State → CmdOut} (hb : bs ≠ []) (hbus : s.busOk = true) :
    withReport s e true bs k = k (s.hostWrite (bulkAddr e.pkt) bs) := by
  simp [withReport, hb, hbus]

theorem withReport_nil (s : State) (e : JEntry) (w : Bool) (k : State → CmdOut) : withReport s e w [] k = k s := rfl

theorem State.theReport_of_some {s : State} {r : Report} (h : s.cp.report = some r) : s.theReport = (r, s) := by simp [State.theReport, h]

theorem Report.header_ne_nil (r : Report) (n : Nat) : r.header n ≠ [] := by simp [Report.header, leBytes]

/-! ### The queries -/

theorem identifyResult_eq (s : State) :
    identifyResult s = [0x28, 0xA1, 0x00, BitVec.ofNat 8 (s.pcie.gen % 16 + 16 * (s.pcie.width % 8))] ++
      leBytes 4 ((s.cp.image.map Image.version).getD 0) ++ leBytes 8 Config.dieId.toNat := by
  simp [identifyResult, bf, leBytes, Nat.mul_comm]

section Recover

variable {s : State} {q : Nat} {e : JEntry} {r : Report} (hr : s.cp.report = some r) (h : CmdReady s q 0x03 e)
  (hp : PktGood e [(48, 16)] (fun p => pktIndex p == 0 && bulkOk p && !(1 ≤ bulkLen p && bulkLen p ≤ 28)))
include hr h hp

theorem execRecoverReport_counts (hl : bulkLen e.pkt = 0) (w : Bool) :
    execRecoverReport q w s = .next (s.finish e.idx OK (leBytes 2 r.num ++ leBytes 2 r.entries.length ++ leBytes 2 0)) :=
  runCmd_done h hp (.inl rfl) (by simp [State.theReport_of_some hr, hl, withReport_nil]) (.inl (by decide))

theorem execRecoverReport_writes {n : Nat} (hl : bulkLen e.pkt ≠ 0) (hbus : s.busOk = true)
    (hn : n = min r.entries.length ((bulkLen e.pkt - 32) / 32)) :
    execRecoverReport q true s =
      .next ((s.hostWrite (bulkAddr e.pkt) (r.header n ++ (r.entries.take n).flatMap RepEntry.bytes)).finish e.idx OK
        (leBytes 2 r.num ++ leBytes 2 r.entries.length ++ leBytes 2 n)) := by
  subst hn
  refine runCmd_done h hp (.inl rfl) ?_ (.inl (by decide))
  simp only [State.theReport_of_some hr, if_neg hl]
  exact withReport_written (List.append_ne_nil_of_left_ne_nil (Report.header_ne_nil r _) _) hbus

end Recover

theorem execBadOpcode_done {s : State} {q op : Nat} {e : JEntry} (hop : op ∉ listedOpcodes) (h : CmdReady s q op e) :
    execBadOpcode q s = .next (s.finish e.idx BAD_OPCODE []) := by
  obtain ⟨hcur, hisOp, hfresh, hready, _⟩ := h
  simp [execBadOpcode, hcur, hisOp, hfresh, hready, hop]

theorem execDuplicateCommand_done {s : State} {q : Nat} {e : JEntry} (hcur : s.cp.current q = some e) (hdup : e.dup = true)
    (hready : s.ready q e = true) :
    execDuplicateCommand q s = .next (s.finish e.idx STATE (leBytes 8 (nth s.cp.queues q).lastSeq.toNat)) := by
  simp [execDuplicateCommand, hcur, hdup, hready]

/-- Settles O10. -/
theorem queriesComplete : Obligations.QueriesComplete := by
  intro s q e
  refine ⟨fun h hp => ?_, fun h hp => ?_, fun h hp => ?_, fun i hi h hp => ?_, fun r hr h hp => ⟨?_, ?_⟩, fun op => execBadOpcode_done,
    execDuplicateCommand_done⟩
  · exact show execNop q s = _ from runCmd_done h hp (.inl rfl) rfl (.inl (by decide))
  · rw [← identifyResult_eq]
    exact show execIdentify q s = _ from runCmd_done h hp (.inl rfl) rfl (.inl (by decide))
  · exact show execGetStatus q s = _ from runCmd_done h hp (.inl rfl) rfl (.inl (by decide))
  · exact show execControlStoreInfo q s = _ from runCmd_done h hp (.inl rfl) (by simp [hi]) (.inl (by decide))
  · exact execRecoverReport_counts hr h hp
  · exact fun hl hbus => execRecoverReport_writes hr h hp hl hbus rfl

/-! ### READ_CONFIG -/

section ReadConfig

variable {s : State} {q view a count : Nat} {e : JEntry} (hview : rd e.pkt 16 1 = view) (ha : rd e.pkt 20 4 = a) (hcount : rd e.pkt 24 4 = count)
  (h : CmdReady s q 0x0A e)
  (hp : PktGood e [(16, 1), (20, 4), (24, 4), (48, 16)]
    (fun p => pktIndex p == 0 && rd p 16 1 ≤ 3 && rangeOk (rd p 20 4) (rd p 24 4) && bulkOk p && (4 < rd p 24 4 || bulkLen p == 0)))
include hview ha hcount h hp

theorem execReadConfig_inline (hm : s.viewMissing view a count = false) (hc : count ≤ 4) (w : Bool) :
    execReadConfig q w s = .next (s.finish e.idx OK ((List.range count).flatMap (fun i => leBytes 4 (s.viewReg view (a + 4 * i))))) :=
  runCmd_done h hp (.inl rfl) (by simp [hview, ha, hcount, hm, hc]) (.inl (by decide))

theorem execReadConfig_buffer {n : Nat} (hm : s.viewMissing view a count = false) (hc : 4 < count) (hl : 4 ≤ bulkLen e.pkt) (hbus : s.busOk = true)
    (hn : n = min count (bulkLen e.pkt / 4)) :
    execReadConfig q true s =
      .next ((s.hostWrite (bulkAddr e.pkt) ((List.range n).flatMap (fun i => leBytes 4 (s.viewReg view (a + 4 * i))))).finish e.idx OK (leBytes 4 n)) := by
  have hne : (List.range n).flatMap (fun i => leBytes 4 (s.viewReg view (a + 4 * i))) ≠ [] := by
    obtain ⟨m, rfl⟩ : ∃ m, n = m + 1 := ⟨n - 1, by omega⟩
    simp [List.range_succ, leBytes]
  refine runCmd_done h hp (.inl rfl) ?_ (.inl (by decide))
  simp only [hview, ha, hcount, hm, Nat.not_le.2 hc, Bool.false_eq_true, if_false, ← hn]
  exact withReport_written hne hbus

theorem execReadConfig_missing (hm : s.viewMissing view a count = true) (hst : s.pwr.starting = false) (w : Bool) :
    execReadConfig q w s = .next (s.finish e.idx STATE []) :=
  runCmd_done h hp (.inl rfl) (by simp [hview, ha, hcount, hm, refuse]) (.inr hst)

end ReadConfig

/-- Settles O11. -/
theorem readConfigCompletes : Obligations.ReadConfigCompletes := by
  refine ⟨fun s q e view a count hview ha hcount h hp hm => ⟨?_, ?_⟩, fun s q w e h hp hm hst => ?_⟩
  · exact fun hc w => execReadConfig_inline hview ha hcount h hp hm hc w
  · exact fun hc hl hbus => execReadConfig_buffer hview ha hcount h hp hm hc hl hbus rfl
  · exact execReadConfig_missing rfl rfl rfl h hp hm hst w

end Sys2Proof.Machine
end

