-- ==== Sys2Proof/Proofs/StagingCommands.lean ====
section
/-! PROOFS. The staging commands stage what their packet or their table spells (R99, R103, R111, R233, R306, R307). -/

namespace Sys2Proof.Machine

/-! ### A staging command -/

/-- A staging command whose body stages the pairs, where R27 accepts them, stages them and ends OK. -/
theorem runCmd_staged {s : State} {q op : Nat} {e : JEntry} {pre : Packet → Bool} {spans : List (Nat × Nat)} {body : State → JEntry → CmdOut}
    {ps : List (Nat × Nat)} {extra : Nat} (h : CmdReady s q op e) (hp : PktGood e spans pre) (hk : keeperRefuses op = false)
    (hs : StagesOk s ps) (hb : body s e = stageAll s ps extra) : runCmd s q op spans pre body = .next (s.staged e ps extra) :=
  runCmd_done h hp (.inl hk) (hb.trans (stageAll_ok extra hs)) (.inl (by decide))

/-- A staging command whose change list does not fit in the change log waits, and has changed nothing (R288). -/
theorem runCmd_staging_waits {s : State} {q op : Nat} {e : JEntry} {pre : Packet → Bool} {spans : List (Nat × Nat)}
    {body : State → JEntry → CmdOut} {ps : List (Nat × Nat)} {extra : Nat}
    (hcur : s.cp.current q = some e) (hop : opcode e.pkt = op) (hdup : e.dup = false) (hready : s.ready q e = true) (hroom : s.logRoom e = false)
    (hp : PktGood e spans pre) (hk : keeperRefuses op = false) (hs : StagesOk s ps) (hb : body s e = stageAll s ps extra) :
    runCmd s q op spans pre body = .next (s.threadWaits e.queue) := by
  have hbody : body s e = .done (stagePairs s ps).1 OK (stageResult s ps extra) := hb.trans (stageAll_ok extra hs)
  have hawait : awaitStart s e body = body s e := awaitStart_of_not_state (by rw [hbody]; rfl)
  obtain ⟨hok, hpre⟩ := hp
  simp [runCmd, runCmdSel, hcur, hop, hdup, hready, hok, hpre, hk, hawait, hbody, State.conclude, hroom]

theorem withTable_read {s : State} (e : JEntry) (tbl : List Byte) (k : List Byte → CmdOut) (hbus : s.busOk = true) :
    withTable s e (some tbl) k = k (padTo (bulkLen e.pkt) tbl) := by simp [withTable, hbus]

/-- A command that stages the image its table holds. -/
theorem stageImage_read {s : State} {e : JEntry} {tbl b : List Byte} {base : Nat} {ps : List (Nat × Nat)} (hbus : s.busOk = true)
    (hb : padTo (bulkLen e.pkt) tbl = b) (hps : imagePairs base b = some ps) : stageImage s e (some tbl) base = stageAll s ps 0 := by
  simp only [stageImage, withTable_read e tbl _ hbus, hb, hps]

/-! ### STAGE_WRITE -/

/-- No pair names a bank register, or an address outside BAR0's register space (R306). -/
theorem any_bankReg_eq_false {ps : List (Nat × Nat)} (h : ∀ p ∈ ps, bankReg p.1 = false ∧ p.1 < 0x100000) :
    ps.any (fun (a, _) => bankReg a || 0x100000 ≤ a) = false := by
  rw [List.any_eq_false]
  intro p hp
  obtain ⟨hb, hlt⟩ := h p hp
  simp [hb, hlt]

theorem execStageWrite_inline {s : State} {q n : Nat} {e : JEntry} (hn : 1 ≤ n) (hn4 : n ≤ 4) (hi : pktIndex e.pkt = n)
    (h : CmdReady s q 0x08 e) (hok : pktOk e.pkt [(16, 48)] = true) (hz : ∀ i, 8 * n ≤ i → i < 48 → e.pkt.getD (16 + i) 0 = 0)
    (hregs : ∀ p ∈ pairsOf ((e.pkt.drop 16).take (8 * n)), bankReg p.1 = false ∧ p.1 < 0x100000)
    (hs : StagesOk s (pairsOf ((e.pkt.drop 16).take (8 * n)))) (tbl : Table) :
    execStageWrite q tbl s = .next (s.staged e (pairsOf ((e.pkt.drop 16).take (8 * n))) 0) := by
  have hn0 : n ≠ 0 := by omega
  have hrest : (List.range 48).all (fun i => i < 8 * n || e.pkt.getD (16 + i) 0 == 0) = true := by
    rw [List.all_eq_true]
    intro i hi'
    by_cases hlt : i < 8 * n
    · simp [hlt]
    · rw [hz i (by omega) (List.mem_range.1 hi'), beq_self_eq_true, Bool.or_true]
  refine runCmd_staged h ⟨hok, ?_⟩ rfl hs ?_
  · simp only [hi, hn0, hrest, hn4, if_false, decide_true, Bool.and_self]
  · simp only [hi, hn0, if_false, any_bankReg_eq_false hregs, Bool.false_eq_true]

theorem execStageWrite_table {s : State} {q : Nat} {e : JEntry} {bs : List Byte} (hi : pktIndex e.pkt = 0)
    (h : CmdReady s q 0x08 e) (hok : pktOk e.pkt [(16, 48)] = true) (hrd : rd e.pkt 16 32 = 0) (hbulk : bulkOk e.pkt = true)
    (h8 : bulkLen e.pkt % 8 = 0) (hlo : 8 ≤ bulkLen e.pkt) (hhi : bulkLen e.pkt ≤ 32768) (hbus : s.busOk = true)
    (hregs : ∀ p ∈ pairsOf (padTo (bulkLen e.pkt) bs), bankReg p.1 = false ∧ p.1 < 0x100000)
    (hs : StagesOk s (pairsOf (padTo (bulkLen e.pkt) bs))) :
    execStageWrite q (some bs) s = .next (s.staged e (pairsOf (padTo (bulkLen e.pkt) bs)) 0) := by
  refine runCmd_staged h ⟨hok, ?_⟩ rfl hs ?_
  · simp [hi, hrd, hbulk, h8, hlo, hhi]
  · simp only [hi, if_true, withTable_read e bs _ hbus, any_bankReg_eq_false hregs, Bool.false_eq_true, if_false]

/-! ### The obligations -/

/-- Settles O12: each body is `stageAll` of the pairs the packet or its table spells. -/
theorem stagePairsAndChannelsComplete : Obligations.StagePairsAndChannelsComplete := by
  refine ⟨fun s q e => ⟨?_, ?_, ?_, ?_, ?_⟩, ?_⟩
  · exact fun n hn hn4 hi h hok hz hregs hs tbl => execStageWrite_inline hn hn4 hi h hok hz hregs hs tbl
  · exact fun bs hi h hok hrd hbulk h8 hlo hhi hbus hregs hs => execStageWrite_table hi h hok hrd hbulk h8 hlo hhi hbus hregs hs
  · rintro k cfg ph rfl rfl rfl h hp
    change (_ → _ → execClockOutputConfig q s = _) ∧ (_ → _ → execClockOutputConfig q s = _) ∧ (_ → _ → execClockOutputConfig q s = _)
    refine ⟨fun hw hs => ?_, fun hw hs => ?_, fun hw hs => ?_⟩ <;> exact runCmd_staged h hp rfl hs (by dsimp only; rw [hw]; rfl)
  · rintro k v rfl rfl h hp hs
    exact show execPhaseStep q s = _ from runCmd_staged h hp rfl hs rfl
  · rintro k v rfl rfl hcur hop hdup hready hroom hp hs
    exact show execPhaseStep q s = _ from runCmd_staging_waits hcur hop hdup hready hroom hp rfl hs rfl
  · rintro s q e ns w rfl rfl
    refine ⟨?_, ?_, ?_⟩ <;> rintro ps rfl h hp hs
    · exact show execChannelConfig q s = _ from runCmd_staged h hp rfl hs rfl
    · exact show execPondConfig q s = _ from runCmd_staged h hp rfl hs rfl
    · exact show execCalControl q s = _ from runCmd_staged h hp rfl hs rfl

/-- Settles O13. -/
theorem tableStagingCompletes : Obligations.TableStagingCompletes := by
  rintro s q e tbl b hbus rfl
  refine ⟨?_, ?_, fun ps hps h hp hs => ?_, fun ps hps h hp hs => ?_, fun ps hps h hp hs => ?_, ?_, fun ps hps h hp hs => ?_⟩
  · rintro ps rfl h hp hs
    exact show execDelayTableLoad q (some tbl) s = _ from runCmd_staged h hp rfl hs (withTable_read e tbl _ hbus)
  · rintro ps rfl h hp hw hs
    have hany : (wordsOf (padTo (bulkLen e.pkt) tbl)).any (fun w => decide (2 ^ 18 ≤ w)) = false := by
      rw [List.any_eq_false]
      exact fun w hmem => by simpa using hw w hmem
    refine show execFilterBankLoad q (some tbl) s = _ from runCmd_staged h hp rfl hs ?_
    simp only [withTable_read e tbl _ hbus, hany, Bool.false_eq_true, if_false]
  · exact show execTriggerProgram q (some tbl) s = _ from runCmd_staged h hp rfl hs (stageImage_read hbus rfl hps)
  · exact show execSoundingConfig q (some tbl) s = _ from runCmd_staged h hp rfl hs (stageImage_read hbus rfl hps)
  · exact show execDisplayConfig q (some tbl) s = _ from runCmd_staged h hp rfl hs (stageImage_read hbus rfl hps)
  · rintro ps rfl h hp hs
    exact show execLampFrameWrite q (some tbl) s = _ from runCmd_staged h hp rfl hs (withTable_read e tbl _ hbus)
  · exact show execLampConfig q (some tbl) s = _ from runCmd_staged h hp rfl hs (stageImage_read hbus rfl hps)

end Sys2Proof.Machine
end

