-- ==== Sys2Proof/Proofs/QueueRules.lean ====
section
/-! PROOFS. Rules about queues and event queues: a change of one queue, draining, doorbells, head writes, fetches (R269 to R273). -/

namespace Sys2Proof.Machine

/-! ### A change of one element of a bank -/

/-- What a change of an element leaves of it, it leaves of every element, inside the bank or outside it. -/
theorem nth_upd_proj {α β : Type} [Inhabited α] {f : α → α} {p : α → β} (hf : ∀ y, p (f y) = p y) (xs : List α) (i j : Nat) :
    p (nth (upd xs i f) j) = p (nth xs j) := by
  by_cases hji : j = i
  · subst hji
    by_cases hj : j < xs.length
    · rw [nth_upd_self f hj, hf]
    · rw [upd, List.modify_eq_self (Nat.le_of_not_lt hj)]
  · rw [nth_upd_of_ne f hji]

/-- Two changes of the same element are one. -/
theorem upd_upd {α : Type} (xs : List α) (i : Nat) (f g : α → α) : upd (upd xs i f) i g = upd xs i (fun x => g (f x)) :=
  List.modify_modify_eq f g i xs

theorem upd_length {α : Type} (xs : List α) (i : Nat) (f : α → α) : (upd xs i f).length = xs.length := List.length_modify ..

/-- A change of an element depends on the element as the bank has it. -/
theorem upd_nth_congr {α : Type} [Inhabited α] {xs : List α} {i : Nat} {x : α} {f g : α → α} (hx : nth xs i = x) (hfg : f x = g x) :
    upd xs i f = upd xs i g := by
  refine upd_congr xs i (fun y hy => ?_)
  have hyx : y = x := by rw [← hx]; simp [nth, List.getD, hy]
  rw [hyx, hfg]

/-- A change that leaves the element as it is leaves the bank. -/
theorem upd_nth_id {α : Type} [Inhabited α] {xs : List α} {i : Nat} {x : α} {f : α → α} (hx : nth xs i = x) (hf : f x = x) : upd xs i f = xs := by
  rw [upd_nth_congr hx (g := id) hf]
  exact List.modify_id ..

/-- An element that differs from the default lies in the bank. -/
theorem lt_length_of_nth_ne {α : Type} [Inhabited α] {xs : List α} {i : Nat} (h : nth xs i ≠ default) : i < xs.length := by
  by_contra hi
  exact h (List.getD_eq_default _ _ (Nat.le_of_not_lt hi))

/-! ### A change of one queue -/

section Queue

variable {s : State} {q : Nat} {x : Queue}

theorem State.updQ_updQ (s : State) (q : Nat) (f g : Queue → Queue) : (s.updQ q f).updQ q g = s.updQ q (fun x => g (f x)) := by
  simp only [State.updQ, upd_upd]

theorem State.updQ_congr {f g : Queue → Queue} (hx : nth s.cp.queues q = x) (hfg : f x = g x) : s.updQ q f = s.updQ q g := by
  simp only [State.updQ, upd_nth_congr hx hfg]

theorem State.updQ_id {f : Queue → Queue} (hx : nth s.cp.queues q = x) (hf : f x = x) : s.updQ q f = s := by
  simp only [State.updQ, upd_nth_id hx hf]

theorem State.nth_updQ (hq : q < s.cp.queues.length) (f : Queue → Queue) : nth (s.updQ q f).cp.queues q = f (nth s.cp.queues q) :=
  nth_upd_self f hq

theorem State.nth_updQ_const (hq : q < s.cp.queues.length) (y : Queue) : nth (s.updQ q (fun _ => y)).cp.queues q = y :=
  nth_upd_self _ hq

theorem State.updQ_queues_length (f : Queue → Queue) : (s.updQ q f).cp.queues.length = s.cp.queues.length := upd_length ..

theorem State.updQ_jrn (f : Queue → Queue) : (s.updQ q f).cp.jrn = s.cp.jrn := rfl

end Queue

/-! ### Draining (R271, R273) -/

section Drained

variable {s : State} {q : Nat}

theorem Cp.journaled_eq_zero (c : Cp) (q : Nat) : c.journaled q = 0 ↔ ∀ e ∈ c.jrn, e.queue ≠ q := by
  simp [Cp.journaled, Cp.ofQueue]

/-- A queue that is not DRAINING, or still owes something, stays as it is. -/
theorem State.drained_of_owing (h : (nth s.cp.queues q).st ≠ .draining ∨ (∃ e ∈ s.cp.jrn, e.queue = q) ∨ (nth s.cp.queues q).overrunDue ≠ []) :
    s.drained q = s := by
  have hno : ((nth s.cp.queues q).st == .draining && s.cp.journaled q == 0 && (nth s.cp.queues q).overrunDue.isEmpty) = false := by
    obtain h | ⟨e, he, hq⟩ | h := h
    · simp [h]
    · have hj : s.cp.journaled q ≠ 0 := fun h0 => (s.cp.journaled_eq_zero q).1 h0 e he hq
      simp [hj]
    · simp [h]
  simp [State.drained, hno]

/-- A DRAINING queue that owes nothing becomes DISABLED. -/
theorem State.drained_of_done (hst : (nth s.cp.queues q).st = .draining) (hj : ∀ e ∈ s.cp.jrn, e.queue ≠ q)
    (ho : (nth s.cp.queues q).overrunDue = []) : s.drained q = s.updQ q (fun x => { x with st := .disabled }) := by
  simp [State.drained, hst, ho, (s.cp.journaled_eq_zero q).2 hj]

end Drained

/-! ### Doorbells (R269, R271, R295) -/

section Doorbell

variable {s : State} {q : Nat} {v : Word} {x : Queue} (hx : nth s.cp.queues q = x)
include hx

theorem State.doorbell_inRing (hst : x.st ≠ .suspended) (hin : (v - x.sqHead).toNat ≤ 2 ^ x.sqSize) :
    s.doorbell q v = s.updQ q (fun x => { x with sqTail := v }) := by
  simp only [State.doorbell, hx, if_pos hin]
  cases h : x.st <;> simp_all

theorem State.doorbell_overrun (hst : x.st = .running ∨ x.st = .overrun ∨ x.st = .fetchError) (hout : 2 ^ x.sqSize < (v - x.sqHead).toNat) :
    s.doorbell q v = (s.log CONTAINED bCP 5 q v.toNat).updQ q (fun x =>
      { x with st := .overrun, overrunDue := x.overrunDue ++ [v], overrunCnt := min 65535 (x.overrunCnt + 1) }) := by
  have hdoor : s.doorbell q v = (s.refuseTail q v).updQ q (fun x => { x with st := .overrun }) := by
    simp only [State.doorbell, hx, if_neg (Nat.not_le.2 hout)]
    obtain h | h | h := hst <;> rw [h]
  rw [hdoor, State.refuseTail, State.updQ_updQ]
  rfl

theorem State.doorbell_draining (hst : x.st = .draining) (hout : 2 ^ x.sqSize < (v - x.sqHead).toNat) :
    s.doorbell q v = (s.log CONTAINED bCP 5 q v.toNat).updQ q (fun x =>
      { x with overrunDue := x.overrunDue ++ [v], overrunCnt := min 65535 (x.overrunCnt + 1) }) := by
  simp only [State.doorbell, hx, if_neg (Nat.not_le.2 hout), hst]
  rfl

theorem State.doorbell_disabled (hst : x.st = .disabled) (hout : 2 ^ x.sqSize < (v - x.sqHead).toNat) : s.doorbell q v = s := by
  simp only [State.doorbell, hx, if_neg (Nat.not_le.2 hout), hst]

theorem State.doorbell_suspended (hst : x.st = .suspended) : s.doorbell q v = s.updQ q (fun x => { x with heldTail := some v }) := by
  simp only [State.doorbell, hx, hst]

end Doorbell

theorem execSqTailWrite_on {s : State} (hd : s.domOn 45 = true) (q : Nat) (v : Word) : execSqTailWrite q v s = .next (s.tlp.doorbell q v) := by
  simp [execSqTailWrite, hd]

theorem execSqTailWrite_off {s : State} (hd : s.domOn 45 = false) (q : Nat) (v : Word) :
    execSqTailWrite q v s = .next ((s.tlp.latch (qRegA q 0x14) v).askWake true) := by
  simp [execSqTailWrite, hd]

/-! ### Head writes -/

/-- The journal entry's completion is consumed as CQ_HEAD of queue q moves from h to v (R269, R281). -/
def JEntry.consumedBy (q : Nat) (h v : Word) (e : JEntry) : Bool := e.queue == q && e.posted && (e.cqPos - h).toNat < (v - h).toNat

/-- CQ_HEAD of queue q has moved to v, and the entries consumed have left the journal. -/
def State.headMoved (s : State) (q : Nat) (v : Word) : State :=
  (s.updCp (fun c => c.mapJrn (List.filter (fun e => !e.consumedBy q (nth s.cp.queues q).cqHead v)))).updQ q (fun y => { y with cqHead := v })

theorem State.consume_eq (s : State) (q : Nat) (v : Word) : s.consume q v = (s.headMoved q v).drained q := rfl

theorem State.headMoved_st (s : State) (q : Nat) (v : Word) : (nth (s.headMoved q v).cp.queues q).st = (nth s.cp.queues q).st :=
  nth_upd_proj (f := fun y : Queue => { y with cqHead := v }) (p := Queue.st) (fun _ => rfl) s.cp.queues q q

theorem State.headMoved_overrunDue (s : State) (q : Nat) (v : Word) :
    (nth (s.headMoved q v).cp.queues q).overrunDue = (nth s.cp.queues q).overrunDue :=
  nth_upd_proj (f := fun y : Queue => { y with cqHead := v }) (p := Queue.overrunDue) (fun _ => rfl) s.cp.queues q q

section Head

variable {s : State} (q : Nat) (v : Word) (hd : s.domOn 45 = true)
include hd

theorem execCqHeadWrite_on : execCqHeadWrite q v s = .next ((s.tlp.headMoved q v).drained q) := by
  simp [execCqHeadWrite, hd, State.consume_eq]

theorem execCqHeadWrite_owing (h : (nth s.cp.queues q).st ≠ .draining ∨ (∃ e ∈ (s.tlp.headMoved q v).cp.jrn, e.queue = q) ∨
    (nth s.cp.queues q).overrunDue ≠ []) : execCqHeadWrite q v s = .next (s.tlp.headMoved q v) := by
  rw [execCqHeadWrite_on q v hd, State.drained_of_owing (by rwa [State.headMoved_st, State.headMoved_overrunDue])]

theorem execCqHeadWrite_done (hst : (nth s.cp.queues q).st = .draining) (hj : ∀ e ∈ (s.tlp.headMoved q v).cp.jrn, e.queue ≠ q)
    (ho : (nth s.cp.queues q).overrunDue = []) :
    execCqHeadWrite q v s = .next ((s.tlp.headMoved q v).updQ q (fun y => { y with st := .disabled })) := by
  rw [execCqHeadWrite_on q v hd, State.drained_of_done (by rwa [State.headMoved_st]) hj (by rwa [State.headMoved_overrunDue])]

end Head

/-! ### Latched writes (R431) -/

theorem State.applyLatched_sqTail (s : State) {q : Nat} (hq : q < 8) (v : Word) :
    s.applyLatched { addr := 0x8000 + 0x80 * q + 0x14, val := v } = s.doorbell q v := by
  have hlt : 0x8000 + 0x80 * q + 0x14 < 0xA000 := by omega
  have hq' : (0x8000 + 0x80 * q + 0x14 - 0x8000) / 0x80 = q := by omega
  have hoff : (0x8000 + 0x80 * q + 0x14) % 0x80 = 0x14 := by omega
  simp only [State.applyLatched, if_pos hlt, hq', hoff, if_true]

theorem State.applyLatched_cqHead (s : State) {q : Nat} (hq : q < 8) (v : Word) :
    s.applyLatched { addr := 0x8000 + 0x80 * q + 0x18, val := v } = s.consume q v := by
  have hlt : 0x8000 + 0x80 * q + 0x18 < 0xA000 := by omega
  have hq' : (0x8000 + 0x80 * q + 0x18 - 0x8000) / 0x80 = q := by omega
  have hoff : (0x8000 + 0x80 * q + 0x18) % 0x80 ≠ 0x14 := by omega
  simp only [State.applyLatched, if_pos hlt, hq', if_neg hoff]

theorem State.applyLatched_eqHead (s : State) (e : Nat) (v : Word) :
    s.applyLatched { addr := 0xA000 + 0x40 * e + 0x0C, val := v } = s.eqHead e v := by
  have hlt : ¬ 0xA000 + 0x40 * e + 0x0C < 0xA000 := by omega
  have he : (0xA000 + 0x40 * e + 0x0C - 0xA000) / 0x40 = e := by omega
  simp only [State.applyLatched, if_neg hlt, he]

/-- Settles O17: a doorbell by the queue's state and the ring, a head write by what is left to drain, and each latched write by its address. -/
theorem doorbellsAndHeadWritesComplete : Obligations.DoorbellsAndHeadWritesComplete := by
  refine ⟨?_, fun s v => ⟨?_, ?_, ?_, ?_⟩, ?_, ?_⟩
  · intro s q v x hx
    change nth s.tlp.cp.queues q = x at hx
    refine ⟨fun hd hst hin => ?_, fun hd hst hout => ?_, fun hd hst hout => ?_, fun hd hst hout => ?_, fun hd hst => ?_, execSqTailWrite_off (q := q) (v := v)⟩ <;>
      change execSqTailWrite q v s = _ <;> rw [execSqTailWrite_on hd]
    · rw [State.doorbell_inRing hx hst hin]
    · rw [State.doorbell_overrun hx hst hout]
    · rw [State.doorbell_draining hx hst hout]
    · rw [State.doorbell_disabled hx hst hout]
    · rw [State.doorbell_suspended hx hst]
  · rintro q x s' rfl hd rfl
    exact ⟨execCqHeadWrite_owing q v hd, execCqHeadWrite_done q v hd⟩
  · intro q hd
    change execCqHeadWrite q v s = _
    simp only [execCqHeadWrite, hd, Bool.false_eq_true, if_false]
    rfl
  · intro e hd
    change execEqHeadWrite e v s = _
    simp only [execEqHeadWrite, hd, if_true]
    rfl
  · intro e hd
    change execEqHeadWrite e v s = _
    simp only [execEqHeadWrite, hd, Bool.false_eq_true, if_false]
    rfl
  · intro s hd hst
    change execLatchedWritesApply s = _
    simp only [execLatchedWritesApply, hd, hst]
    rfl
  · intro s v hd
    refine ⟨fun q hq => ?_, fun q hq => ?_, fun e _ => ?_⟩
    · rw [State.applyLatched_sqTail _ hq]
      exact execSqTailWrite_on hd q v
    · rw [State.applyLatched_cqHead _ hq]
      exact execCqHeadWrite_on q v hd
    · rw [State.applyLatched_eqHead]
      change execEqHeadWrite e v s = _
      simp only [execEqHeadWrite, hd, if_true]

/-! ### Fetches (R269, R272) -/

/-- A fold whose function changes the value at one element of the list alone. -/
theorem foldl_eq_of_once {α β : Type} [DecidableEq α] {f : β → α → β} {x y : β} {a : α} {l : List α} (hx : ∀ b, b ≠ a → f x b = x)
    (hy : ∀ b, b ≠ a → f y b = y) (hxy : f x a = y) (hn : l.Nodup) : l.foldl f x = if a ∈ l then y else x := by
  have hstay : ∀ (l : List α) (z : β), (∀ b, b ≠ a → f z b = z) → a ∉ l → l.foldl f z = z := by
    intro l z hz
    induction l with
    | nil => intro _; rfl
    | cons b r ih =>
      intro hb
      rw [List.foldl_cons, hz b (fun h => hb (h ▸ List.mem_cons_self)), ih (fun h => hb (List.mem_cons_of_mem _ h))]
  induction l with
  | nil => rfl
  | cons b r ih =>
    obtain ⟨hb, hr⟩ := List.nodup_cons.1 hn
    by_cases hab : b = a
    · subst hab
      rw [List.foldl_cons, hxy, hstay r y hy hb, if_pos List.mem_cons_self]
    · rw [List.foldl_cons, hx b hab, ih hr]
      simp [Ne.symm hab]

/-- One queue's place in a turn of acceptance. -/
def acceptOne (z : State × List (Nat × List Packet)) (q : Nat) : State × List (Nat × List Packet) :=
  match z.2.find? (fun r => r.1 == q) with
  | some (_, p :: _) =>
    if z.1.mayAccept q then (z.1.accept q p, z.2.map (fun r => if r.1 == q then (r.1, r.2.drop 1) else r)) else z
  | _ => z

theorem acceptTurn_eq (s : State) (rs : List (Nat × List Packet)) : acceptTurn s rs = (List.range 8).foldl acceptOne (s, rs) := rfl

theorem acceptOne_of_ne (s : State) {q b : Nat} (ps : List Packet) (h : b ≠ q) : acceptOne (s, [(q, ps)]) b = (s, [(q, ps)]) := by
  simp [acceptOne, h.symm]

theorem acceptOne_nil (s : State) (q b : Nat) : acceptOne (s, [(q, [])]) b = (s, [(q, [])]) := by
  by_cases h : q = b <;> simp [acceptOne, h]

theorem acceptOne_take {s : State} {q : Nat} (p : Packet) (h : s.mayAccept q = true) :
    acceptOne (s, [(q, [p])]) q = (s.accept q p, [(q, [])]) := by simp [acceptOne, h]

/-- Turns with nothing read change nothing. -/
theorem acceptTurns_nil (n : Nat) (s : State) (q : Nat) : acceptTurns n s [(q, [])] = s := by
  induction n with
  | zero => rfl
  | succ n ih =>
    have hturn : acceptTurn s [(q, [])] = (s, [(q, [])]) := by
      rw [acceptTurn_eq, foldl_eq_of_once (a := q) (fun b _ => acceptOne_nil s q b) (fun b _ => acceptOne_nil s q b) (acceptOne_nil s q q)
        List.nodup_range, ite_self]
    simp only [acceptTurns, hturn, ih]

/-- One packet read of one queue that may accept it is accepted, once. -/
theorem acceptTurns_one {s : State} {q : Nat} (p : Packet) (hq : q < 8) (h : s.mayAccept q = true) (n : Nat) :
    acceptTurns (n + 1) s [(q, [p])] = s.accept q p := by
  have hturn : acceptTurn s [(q, [p])] = (s.accept q p, [(q, [])]) := by
    rw [acceptTurn_eq, foldl_eq_of_once (a := q) (fun b hb => acceptOne_of_ne s _ hb) (fun b hb => acceptOne_of_ne _ _ hb) (acceptOne_take p h)
      List.nodup_range, if_pos (List.mem_range.2 hq)]
  simp only [acceptTurns, hturn, acceptTurns_nil]

section Fetch

variable {s : State} (hrun : s.cp.st = .running) (hbus : s.busOk = true) (hd : s.domOn 45 = true)
include hrun hbus hd

theorem execSqFetch_one {q : Nat} (p : Packet) (hq : q < 8) (hmay : s.mayAccept q = true) :
    execSqFetch [(q, some [p])] s = .next (s.tlp.accept q p) := by
  have hmay' : s.tlp.mayAccept q = true := hmay
  simp [execSqFetch, hrun, hbus, hd, forEach, acceptTurns_one p hq hmay' 31]

theorem execSqFetch_error {q : Nat} : execSqFetch [(q, none)] s = .next (s.tlp.fetchError q) := by
  simp only [execSqFetch, hrun, hbus, hd]
  rfl

end Fetch

/-- Settles O18. -/
theorem fetchAcceptsIntoTheJournal : Obligations.FetchAcceptsIntoTheJournal := by
  rintro s q p x rfl hq hrun hbus hd hst hne hroom hcopy
  have hmay : s.mayAccept q = true := by
    simp [State.mayAccept, Cp.journaled, Cp.ofQueue, hst, hcopy, hne, hroom]
  refine ⟨(execSqFetch_one hrun hbus hd p hq hmay).trans ?_, (execSqFetch_error hrun hbus hd).trans ?_⟩
  · simp only [State.accept]
    rfl
  · have hgo : ((nth s.tlp.cp.queues q).st == .running && (nth s.tlp.cp.queues q).sqHead != (nth s.tlp.cp.queues q).sqTail) = true := by
      show ((nth s.cp.queues q).st == .running && (nth s.cp.queues q).sqHead != (nth s.cp.queues q).sqTail) = true
      simp [hst, hne]
    simp only [State.fetchError, hgo, if_true]
    rfl

end Sys2Proof.Machine
end

