-- ==== Sys2Proof/Proofs/QueueControl.lean ====
section
/-! PROOFS. Writes of Q_CTL and EQ_CTL, the posting of completions and events, and the holding of events (R268, R271, R273, R277, R280, R295,
R297). -/

namespace Sys2Proof.Machine

/-! ### The bits a row of Q_CTL or EQ_CTL sets or clears -/

/-- A bit set below a field leaves the field. -/
theorem fld_or_of_lt {w m hi lo : Nat} (h : m < 2 ^ lo) : fld (w ||| m) hi lo = fld w hi lo := by
  simp only [fld, Nat.shiftRight_or_distrib, Nat.shiftRight_eq_div_pow m, Nat.div_eq_of_lt h, Nat.or_zero]

theorem bit_or_two_pow (w k n : Nat) : bit (w ||| 2 ^ k) n = (bit w n || decide (k = n)) := by
  simp only [bit, Nat.testBit_or, Nat.testBit_two_pow]

theorem bit_or_self (w k : Nat) : bit (w ||| 2 ^ k) k = true := by rw [bit_or_two_pow, decide_eq_true rfl, Bool.or_true]

theorem bit_or_of_ne (w : Nat) {k n : Nat} (h : k ≠ n) : bit (w ||| 2 ^ k) n = bit w n := by
  rw [bit_or_two_pow, decide_eq_false h, Bool.or_false]

theorem Word.toNat_or_one (v : Word) : (v ||| 1).toNat = v.toNat ||| 2 ^ 0 := by simp
theorem Word.toNat_or_two (v : Word) : (v ||| 2).toNat = v.toNat ||| 2 ^ 1 := by simp
theorem Word.toNat_or_four (v : Word) : (v ||| 4).toNat = v.toNat ||| 2 ^ 2 := by simp

theorem Word.bit_clear_zero (v : Word) (n : Nat) : bit (v &&& ~~~1).toNat n = (bit v.toNat n && decide (n ≠ 0)) := by
  simp only [bit, BitVec.testBit_toNat, BitVec.getLsbD_and, BitVec.getLsbD_not]
  by_cases h : n < 32
  · simp [h]
  · simp [BitVec.getLsbD_of_ge _ _ (Nat.le_of_not_lt h)]

theorem Word.fld_clear_zero (v : Word) {hi lo : Nat} (h : 0 < lo) : fld (v &&& ~~~1).toNat hi lo = fld v.toNat hi lo := by
  have hshift : (v &&& ~~~1).toNat >>> lo = v.toNat >>> lo := by
    apply Nat.eq_of_testBit_eq
    intro i
    rw [Nat.testBit_shiftRight, Nat.testBit_shiftRight]
    exact (Word.bit_clear_zero v (lo + i)).trans (by rw [decide_eq_true (by omega : lo + i ≠ 0), Bool.and_true]; rfl)
  rw [fld, fld, hshift]

/-! ### Q_CTL -/

/-- What a whole write of Q_CTL sets whatever bits 0 to 2 say (R297). -/
def Queue.sized (x : Queue) (w : Nat) : Queue :=
  { x with irqEn := bit w 3,
           sqSize := if (x.st == .disabled || x.st == .suspended) && 4 ≤ fld w 7 4 && fld w 7 4 ≤ 12 then fld w 7 4 else x.sqSize,
           cqSize := if (x.st == .disabled || x.st == .suspended) && 5 ≤ fld w 11 8 && fld w 11 8 ≤ 13 then fld w 11 8 else x.cqSize }

section Control

variable {s : State} {q : Nat} {x : Queue} (hx : nth s.cp.queues q = x)
include hx

theorem State.qEnable_of_disabled (hst : x.st = .disabled) :
    s.qEnable q true = s.updQ q (fun _ =>
      { x with enable := true, st := .running, sqHead := 0, sqTail := 0, cqHead := 0, cqTail := 0, lastSeq := 0, heldTail := none,
               overrunDue := [] }) := by
  simp only [State.qEnable, hx, hst, beq_self_eq_true, if_true, State.updQ_updQ]
  exact State.updQ_congr hx rfl

theorem State.qEnable_of_open (hst : x.st ≠ .disabled) : s.qEnable q true = s.updQ q (fun _ => { x with enable := true }) := by
  simp only [State.qEnable, hx, beq_false_of_ne hst, if_true, Bool.false_eq_true, if_false]
  exact State.updQ_congr hx rfl

theorem State.qDisable_of_idle (hst : x.st = .disabled ∨ x.st = .draining) : s.qEnable q false = s.updQ q (fun _ => { x with enable := false }) := by
  have hidle : (x.st == .disabled || x.st == .draining) = true := by simpa using hst
  simp only [State.qEnable, hx, hidle, if_true, Bool.false_eq_true, if_false]
  exact State.updQ_congr hx rfl

theorem State.qResume_of_open (hst : x.st ≠ .suspended) : s.qResume q = s := by
  simp [State.qResume, hx, hst]

theorem State.qResume_quiet (hst : x.st = .suspended) (hh : x.heldTail = none) : s.qResume q = s.updQ q (fun _ => { x with st := .running }) := by
  simp only [State.qResume, hx, hst, hh, beq_self_eq_true, if_true]
  exact State.updQ_congr hx (by rw [← hh])

theorem State.qResume_rings {w : Word} (hst : x.st = .suspended) (hh : x.heldTail = some w) :
    s.qResume q = (s.updQ q (fun _ => { x with st := .running, heldTail := none })).doorbell q w := by
  simp only [State.qResume, hx, hst, hh, beq_self_eq_true, if_true]
  exact congrArg (fun t : State => t.doorbell q w) (State.updQ_congr hx rfl)

theorem State.qClearErr_of_error (hst : x.st = .overrun ∨ x.st = .fetchError) :
    s.qClearErr q = s.updQ q (fun _ => { x with st := .running, sqTail := x.sqHead }) := by
  have herr : (x.st == .overrun || x.st == .fetchError) = true := by simpa using hst
  simp only [State.qClearErr, hx, herr, if_true]
  exact State.updQ_congr hx rfl

theorem State.qClearErr_of_ok (hst : x.st ≠ .overrun) (hst' : x.st ≠ .fetchError) : s.qClearErr q = s := by
  simp [State.qClearErr, hx, hst, hst']

variable (hq : q < s.cp.queues.length)
include hq

/-- ENABLE 0 on a queue at work makes it DRAINING where it owes something (R273). -/
theorem State.qDisable_owing (hst : x.st ≠ .disabled) (hst' : x.st ≠ .draining) (ho : (∃ e ∈ s.cp.jrn, e.queue = q) ∨ x.overrunDue ≠ []) :
    s.qEnable q false = s.updQ q (fun _ => { x with enable := false, st := .draining }) := by
  have hidle : (x.st == .disabled || x.st == .draining) = false := by simp [hst, hst']
  simp only [State.qEnable, hx, hidle, Bool.false_eq_true, if_false, State.updQ_updQ]
  rw [State.updQ_congr (g := fun _ => { x with enable := false, st := .draining }) hx rfl]
  exact State.drained_of_owing (.inr (by rwa [State.nth_updQ_const hq]))

theorem State.qDisable_done (hst : x.st ≠ .disabled) (hst' : x.st ≠ .draining) (hj : ∀ e ∈ s.cp.jrn, e.queue ≠ q) (ho : x.overrunDue = []) :
    s.qEnable q false = s.updQ q (fun _ => { x with enable := false, st := .disabled }) := by
  have hidle : (x.st == .disabled || x.st == .draining) = false := by simp [hst, hst']
  simp only [State.qEnable, hx, hidle, Bool.false_eq_true, if_false, State.updQ_updQ]
  rw [State.updQ_congr (g := fun _ => { x with enable := false, st := .draining }) hx rfl]
  have hnth := State.nth_updQ_const hq { x with enable := false, st := .draining }
  rw [State.drained_of_done (s := s.updQ q (fun _ => { x with enable := false, st := .draining })) (by rw [hnth]) hj (by rw [hnth]; exact ho),
    State.updQ_updQ]

/-- After ENABLE 0 a queue is DISABLED or DRAINING. -/
theorem State.st_qDisable : (nth (s.qEnable q false).cp.queues q).st = .disabled ∨ (nth (s.qEnable q false).cp.queues q).st = .draining := by
  by_cases hidle : x.st = .disabled ∨ x.st = .draining
  · rw [State.qDisable_of_idle hx hidle, State.nth_updQ_const hq]
    exact hidle
  · obtain ⟨hdis, hdra⟩ := not_or.1 hidle
    by_cases ho : (∃ e ∈ s.cp.jrn, e.queue = q) ∨ x.overrunDue ≠ []
    · rw [State.qDisable_owing hx hq hdis hdra ho, State.nth_updQ_const hq]
      exact .inr rfl
    · obtain ⟨hj, hd⟩ := not_or.1 ho
      rw [State.qDisable_done hx hq hdis hdra (fun e he h => hj ⟨e, he, h⟩) (not_not.1 hd), State.nth_updQ_const hq]
      exact .inl rfl

end Control

/-- What a whole write of Q_CTL does beside the sizes: ENABLE, RESUME and CLEAR_ERR, in this order (R271, R273, R295). -/
def State.qAct (s : State) (q w : Nat) : State :=
  let s := s.qEnable q (bit w 0)
  let s := if bit w 1 then s.qResume q else s
  if bit w 2 then s.qClearErr q else s

theorem State.qCtl_eq {s : State} {q : Nat} {x : Queue} (hx : nth s.cp.queues q = x) (w : Nat) :
    s.qCtl q w = (s.updQ q (fun _ => x.sized w)).qAct q w := by
  subst hx
  exact congrArg (fun t : State => t.qAct q w) (State.updQ_congr rfl rfl)

/-- A write that starts no row's own action, on a queue that is RUNNING or DRAINING, or whose RESUME or CLEAR_ERR it does not ask for. -/
def Queue.unmoved (x : Queue) (w : Nat) : Prop :=
  x.st = .running ∨ x.st = .draining ∨ (x.st = .overrun ∨ x.st = .fetchError) ∧ bit w 2 = false ∨ x.st = .suspended ∧ bit w 1 = false

section Act

variable {s : State} {q w : Nat} {x : Queue} (hx : nth s.cp.queues q = x) (hq : q < s.cp.queues.length)
include hq

/-- RESUME and CLEAR_ERR on a queue that neither of them moves. -/
theorem State.qAct_of_settled {y : Queue} (hen : s.qEnable q (bit w 0) = s.updQ q (fun _ => y)) (hr : y.st = .suspended → bit w 1 = false)
    (hc : y.st = .overrun ∨ y.st = .fetchError → bit w 2 = false) : s.qAct q w = s.updQ q (fun _ => y) := by
  have hy := State.nth_updQ_const hq y
  have hresume : (if bit w 1 then (s.updQ q (fun _ => y)).qResume q else s.updQ q (fun _ => y)) = s.updQ q (fun _ => y) := by
    split
    · exact State.qResume_of_open hy (fun h => by simp_all)
    · rfl
  have hclear : (if bit w 2 then (s.updQ q (fun _ => y)).qClearErr q else s.updQ q (fun _ => y)) = s.updQ q (fun _ => y) := by
    split
    · exact State.qClearErr_of_ok hy (fun h => by simp_all) (fun h => by simp_all)
    · rfl
  rw [State.qAct, hen, hresume, hclear]

include hx

theorem State.qAct_enable (hb : bit w 0 = true) (hst : x.st = .disabled) :
    s.qAct q w = s.updQ q (fun _ =>
      { x with enable := true, st := .running, sqHead := 0, sqTail := 0, cqHead := 0, cqTail := 0, lastSeq := 0, heldTail := none,
               overrunDue := [] }) :=
  State.qAct_of_settled hq (hb ▸ State.qEnable_of_disabled hx hst) (fun h => nomatch h) (fun h => by simp at h)

theorem State.qAct_unmoved (hb : bit w 0 = true) (hst : x.unmoved w) : s.qAct q w = s.updQ q (fun _ => { x with enable := true }) := by
  have hopen : x.st ≠ .disabled := by
    intro h
    simp [Queue.unmoved, h] at hst
  refine State.qAct_of_settled hq (hb ▸ State.qEnable_of_open hx hopen) (fun h => ?_) (fun h => ?_)
  · change x.st = .suspended at h
    simpa [Queue.unmoved, h] using hst
  · change x.st = .overrun ∨ x.st = .fetchError at h
    obtain h | h := h <;> simpa [Queue.unmoved, h] using hst

theorem State.qAct_disable (hb : bit w 0 = false) : s.qAct q w = s.qEnable q false := by
  have hst := State.st_qDisable hx hq
  have hresume : (s.qEnable q false).qResume q = s.qEnable q false := State.qResume_of_open rfl (by rintro h; simp [h] at hst)
  have hclear : (s.qEnable q false).qClearErr q = s.qEnable q false :=
    State.qClearErr_of_ok rfl (by rintro h; simp [h] at hst) (by rintro h; simp [h] at hst)
  simp only [State.qAct, hb, hresume, ite_self, hclear]

/-- ENABLE 1 makes no queue SUSPENDED, and an error none. -/
theorem State.st_qEnable :
    (nth (s.qEnable q true).cp.queues q).st = if x.st = .disabled then .running else x.st := by
  by_cases hst : x.st = .disabled
  · rw [State.qEnable_of_disabled hx hst, State.nth_updQ_const hq, if_pos hst]
  · rw [State.qEnable_of_open hx hst, State.nth_updQ_const hq, if_neg hst]

/-- RESUME changes nothing where the queue is not SUSPENDED. -/
theorem State.qAct_of_notSuspended (hb : bit w 0 = true) (hst : x.st ≠ .suspended) :
    s.qAct q w = if bit w 2 then (s.qEnable q true).qClearErr q else s.qEnable q true := by
  have hopen : (s.qEnable q true).qResume q = s.qEnable q true := by
    refine State.qResume_of_open rfl ?_
    rw [State.st_qEnable hx hq]
    split <;> simp [hst]
  simp only [State.qAct, hb, hopen, ite_self]

/-- CLEAR_ERR changes nothing where the queue is in no error. -/
theorem State.qClearErr_qEnable (hst : x.st ≠ .overrun) (hst' : x.st ≠ .fetchError) : (s.qEnable q true).qClearErr q = s.qEnable q true := by
  refine State.qClearErr_of_ok rfl ?_ ?_ <;> rw [State.st_qEnable hx hq] <;> split <;> simp [hst, hst']

theorem State.qAct_resume (hb : bit w 0 = true) (hb1 : bit w 1 = true) (hst : x.st = .suspended) (hh : x.heldTail = none) :
    s.qAct q w = s.updQ q (fun _ => { x with enable := true, st := .running }) := by
  have hen := State.qEnable_of_open hx (by simp [hst])
  have hy := State.nth_updQ_const hq { x with enable := true }
  have hz := State.nth_updQ_const hq { x with enable := true, st := .running }
  simp only [State.qAct, hb, hb1, hen, if_true, State.qResume_quiet hy hst hh, State.updQ_updQ]
  split
  · exact State.qClearErr_of_ok hz (by simp) (by simp)
  · rfl

theorem State.qAct_resume_inRing {v : Word} (hb : bit w 0 = true) (hb1 : bit w 1 = true) (hst : x.st = .suspended) (hh : x.heldTail = some v)
    (hin : (v - x.sqHead).toNat ≤ 2 ^ x.sqSize) :
    s.qAct q w = s.updQ q (fun _ => { x with enable := true, st := .running, heldTail := none, sqTail := v }) := by
  have hen := State.qEnable_of_open hx (by simp [hst])
  have hy := State.nth_updQ_const hq { x with enable := true }
  have hz := State.nth_updQ_const hq { x with enable := true, st := .running, heldTail := none }
  have hu := State.nth_updQ_const hq { x with enable := true, st := .running, heldTail := none, sqTail := v }
  simp only [State.qAct, hb, hb1, hen, if_true, State.qResume_rings hy hst hh, State.updQ_updQ, State.doorbell_inRing hz (by simp) hin]
  rw [State.updQ_congr (g := fun _ => { x with enable := true, st := .running, heldTail := none, sqTail := v }) hx rfl]
  split
  · exact State.qClearErr_of_ok hu (by simp) (by simp)
  · rfl

theorem State.qAct_resume_overrun {v : Word} (hb : bit w 0 = true) (hb1 : bit w 1 = true) (hb2 : bit w 2 = false) (hst : x.st = .suspended)
    (hh : x.heldTail = some v) (hout : 2 ^ x.sqSize < (v - x.sqHead).toNat) :
    s.qAct q w = ((s.updQ q (fun _ => { x with enable := true, st := .running, heldTail := none })).log CONTAINED bCP 5 q v.toNat).updQ q
      (fun x => { x with st := .overrun, overrunDue := x.overrunDue ++ [v], overrunCnt := min 65535 (x.overrunCnt + 1) }) := by
  have hen := State.qEnable_of_open hx (by simp [hst])
  have hy := State.nth_updQ_const hq { x with enable := true }
  have hz := State.nth_updQ_const hq { x with enable := true, st := .running, heldTail := none }
  simp only [State.qAct, hb, hb1, hb2, hen, if_true, Bool.false_eq_true, if_false, State.qResume_rings hy hst hh, State.updQ_updQ,
    State.doorbell_overrun hz (.inl rfl) hout]

theorem State.qAct_clearErr (hb : bit w 0 = true) (hb2 : bit w 2 = true) (hst : x.st = .overrun ∨ x.st = .fetchError) :
    s.qAct q w = s.updQ q (fun _ => { x with enable := true, st := .running, sqTail := x.sqHead }) := by
  have hopen : x.st ≠ .disabled ∧ x.st ≠ .suspended := by obtain h | h := hst <;> simp [h]
  have hen := State.qEnable_of_open hx hopen.1
  have hy := State.nth_updQ_const hq { x with enable := true }
  simp only [State.qAct, hb, hb2, hen, if_true, State.qResume_of_open hy hopen.2, ite_self, State.qClearErr_of_error hy hst, State.updQ_updQ]

end Act

/-! ### EQ_CTL -/

/-- What a whole write of EQ_CTL makes of an event queue (R273, R295, R297). -/
def EventQueue.ctl (x : EventQueue) (v : Nat) : EventQueue :=
  let open_ := x.st == .disabled || x.st == .suspended
  let x := { x with irqEn := bit v 2, size := if open_ && 5 ≤ fld v 7 4 && fld v 7 4 ≤ 12 then fld v 7 4 else x.size, enable := bit v 0 }
  let x := if bit v 0 && x.st == .disabled then { x with st := .running, head := 0, tail := 0 } else x
  let x := if bit v 1 && x.st == .suspended then { x with st := .running } else x
  if !bit v 0 && x.st != .disabled && x.held.isEmpty then { x with st := .disabled } else x

theorem State.eqCtl_eq {s : State} {e : Nat} {x : EventQueue} (hx : nth s.cp.eqs e = x) (v : Nat) : s.eqCtl e v = s.updEq e (fun _ => x.ctl v) := by
  simp only [State.eqCtl, State.updEq]
  rw [upd_nth_congr (g := fun _ => x.ctl v) hx rfl]

/-- What a whole write of EQ_CTL sets whatever bits 0 and 1 say (R297). -/
def EventQueue.sized (x : EventQueue) (w : Nat) : EventQueue :=
  { x with irqEn := bit w 2, size := if (x.st == .disabled || x.st == .suspended) && 5 ≤ fld w 7 4 && fld w 7 4 ≤ 12 then fld w 7 4 else x.size }

section EqCtl

variable {x : EventQueue} {w : Nat}

theorem EventQueue.ctl_enable (hb : bit w 0 = true) (hst : x.st = .disabled) :
    x.ctl w = { x.sized w with enable := true, st := .running, head := 0, tail := 0 } := by
  simp [EventQueue.ctl, EventQueue.sized, hb, hst]

theorem EventQueue.ctl_unmoved (hb : bit w 0 = true) (hst : x.st = .running ∨ x.st = .suspended ∧ bit w 1 = false) :
    x.ctl w = { x.sized w with enable := true } := by
  obtain hst | ⟨hst, hb1⟩ := hst
  · simp [EventQueue.ctl, EventQueue.sized, hb, hst]
  · simp [EventQueue.ctl, EventQueue.sized, hb, hst, hb1]

theorem EventQueue.ctl_disable_empty (hb : bit w 0 = false) (hh : x.held = []) : x.ctl w = { x.sized w with enable := false, st := .disabled } := by
  cases hst : x.st <;> cases hb1 : bit w 1 <;> simp [EventQueue.ctl, EventQueue.sized, hb, hst, hb1, hh]

theorem EventQueue.ctl_disable_held (hb : bit w 0 = false) (hh : x.held ≠ []) (hr : x.st ≠ .suspended ∨ bit w 1 = false) :
    x.ctl w = { x.sized w with enable := false } := by
  cases hst : x.st <;> cases hb1 : bit w 1 <;> simp_all [EventQueue.ctl, EventQueue.sized]

theorem EventQueue.ctl_resume (hb1 : bit w 1 = true) (hst : x.st = .suspended) (hh : bit w 0 = true ∨ x.held ≠ []) :
    x.ctl w = { x.sized w with enable := bit w 0, st := .running } := by
  cases hb : bit w 0 <;> simp_all [EventQueue.ctl, EventQueue.sized]

end EqCtl

/-! ### The rows of Q_CTL and EQ_CTL -/

theorem Queue.sized_congr (x : Queue) {w w' : Nat} (h3 : bit w 3 = bit w' 3) (hs : fld w 7 4 = fld w' 7 4) (hc : fld w 11 8 = fld w' 11 8) :
    x.sized w = x.sized w' := by simp only [Queue.sized, h3, hs, hc]

theorem Queue.sized_or (x : Queue) (w : Nat) {k : Nat} (h : k < 3) : x.sized (w ||| 2 ^ k) = x.sized w := by
  have hpow : 2 ^ k < 2 ^ 3 := Nat.pow_lt_pow_right (by decide) h
  exact x.sized_congr (bit_or_of_ne w (Nat.ne_of_lt h)) (fld_or_of_lt (by omega)) (fld_or_of_lt (by omega))

theorem Queue.sized_clear (x : Queue) (v : Word) : x.sized (v &&& ~~~1).toNat = x.sized v.toNat :=
  x.sized_congr (by rw [Word.bit_clear_zero]; simp) (Word.fld_clear_zero v (by decide)) (Word.fld_clear_zero v (by decide))

theorem EventQueue.sized_congr (x : EventQueue) {w w' : Nat} (h2 : bit w 2 = bit w' 2) (hs : fld w 7 4 = fld w' 7 4) : x.sized w = x.sized w' := by
  simp only [EventQueue.sized, h2, hs]

theorem EventQueue.sized_or (x : EventQueue) (w : Nat) {k : Nat} (h : k < 2) : x.sized (w ||| 2 ^ k) = x.sized w := by
  have hpow : 2 ^ k < 2 ^ 2 := Nat.pow_lt_pow_right (by decide) h
  exact x.sized_congr (bit_or_of_ne w (Nat.ne_of_lt h)) (fld_or_of_lt (by omega))

theorem EventQueue.sized_clear (x : EventQueue) (v : Word) : x.sized (v &&& ~~~1).toNat = x.sized v.toNat :=
  x.sized_congr (by rw [Word.bit_clear_zero]; simp) (Word.fld_clear_zero v (by decide))

section Rows

variable {s : State} {q : Nat} {x : Queue} (hx : nth s.cp.queues q = x) (hd : s.domOn 45 = true) (v : Word)
include hx hd

theorem State.qCtlWrite_on : s.tlp.qCtlWrite q v = (s.tlp.updQ q (fun _ => x.sized v.toNat)).qAct q v.toNat := by
  have hd' : s.tlp.domOn 45 = true := hd
  rw [State.qCtlWrite, if_pos hd', State.qCtl_eq (s := s.tlp) (x := x) hx]

theorem execQEnable_on : execQEnable q v s = .next ((s.tlp.updQ q (fun _ => x.sized v.toNat)).qAct q (v.toNat ||| 2 ^ 0)) := by
  rw [execQEnable, State.qCtlWrite_on hx hd, Word.toNat_or_one, Queue.sized_or x _ (by decide)]

theorem execQDisable_on : execQDisable q v s = .next ((s.tlp.updQ q (fun _ => x.sized v.toNat)).qAct q (v &&& ~~~1).toNat) := by
  rw [execQDisable, State.qCtlWrite_on hx hd, Queue.sized_clear]

theorem execQResume_on : execQResume q v s = .next ((s.tlp.updQ q (fun _ => x.sized v.toNat)).qAct q (v.toNat ||| 2 ^ 1)) := by
  rw [execQResume, State.qCtlWrite_on hx hd, Word.toNat_or_two, Queue.sized_or x _ (by decide)]

theorem execClearErr_on : execClearErr q v s = .next ((s.tlp.updQ q (fun _ => x.sized v.toNat)).qAct q (v.toNat ||| 2 ^ 2)) := by
  rw [execClearErr, State.qCtlWrite_on hx hd, Word.toNat_or_four, Queue.sized_or x _ (by decide)]

end Rows

section EqRows

variable {s : State} {e : Nat} {x : EventQueue} (hx : nth s.cp.eqs e = x) (hd : s.domOn 45 = true) (v : Word)
include hx hd

theorem State.eqCtlWrite_on : s.tlp.eqCtlWrite e v = s.tlp.updEq e (fun _ => x.ctl v.toNat) := by
  have hd' : s.tlp.domOn 45 = true := hd
  rw [State.eqCtlWrite, if_pos hd', State.eqCtl_eq (s := s.tlp) (x := x) hx]

theorem execEqEnable_on : execEqEnable e v s = .next (s.tlp.updEq e (fun _ => x.ctl (v.toNat ||| 2 ^ 0))) := by
  rw [execEqEnable, State.eqCtlWrite_on hx hd, Word.toNat_or_one]

theorem execEqDisable_on : execEqDisable e v s = .next (s.tlp.updEq e (fun _ => x.ctl (v &&& ~~~1).toNat)) := by
  rw [execEqDisable, State.eqCtlWrite_on hx hd]

theorem execEqResume_on : execEqResume e v s = .next (s.tlp.updEq e (fun _ => x.ctl (v.toNat ||| 2 ^ 1))) := by
  rw [execEqResume, State.eqCtlWrite_on hx hd, Word.toNat_or_two]

end EqRows

/-- A control write is discarded while PD45 is off (R431). -/
theorem State.ctlWrites_off {s : State} (hd : s.domOn 45 = false) (k : Nat) (v : Word) :
    s.tlp.qCtlWrite k v = s.tlp ∧ s.tlp.eqCtlWrite k v = s.tlp := by
  have hd' : s.tlp.domOn 45 = false := hd
  simp [State.qCtlWrite, State.eqCtlWrite, hd']

/-- The sizes of a queue after a whole write of Q_CTL, as the obligation writes them. -/
theorem Queue.sized_eq (x : Queue) (w : Nat) :
    x.sized w = { x with
      irqEn := bit w 3,
      sqSize := if (x.st = .disabled ∨ x.st = .suspended) ∧ 4 ≤ fld w 7 4 ∧ fld w 7 4 ≤ 12 then fld w 7 4 else x.sqSize,
      cqSize := if (x.st = .disabled ∨ x.st = .suspended) ∧ 5 ≤ fld w 11 8 ∧ fld w 11 8 ≤ 13 then fld w 11 8 else x.cqSize } := by
  simp [Queue.sized, and_assoc]

theorem EventQueue.sized_eq (x : EventQueue) (w : Nat) :
    x.sized w = { x with
      irqEn := bit w 2,
      size := if (x.st = .disabled ∨ x.st = .suspended) ∧ 5 ≤ fld w 7 4 ∧ fld w 7 4 ≤ 12 then fld w 7 4 else x.size } := by
  simp [EventQueue.sized, and_assoc]

/-- Settles O19: the sizes first, then what the row's bit does in the queue's state. -/
theorem queueControlCompletes : Obligations.QueueControlCompletes := by
  refine ⟨fun s q v x y hx hq hlen hd hy => ?_, fun s e v x y hx he hlen hd hy => ?_, fun s k v hd => ?_⟩
  · rw [← Queue.sized_eq] at hy
    subst hy
    have hin : q < s.tlp.cp.queues.length := hlen.symm ▸ hq
    have hz := State.nth_updQ_const hin (x.sized v.toNat)
    have hlt : q < (s.tlp.updQ q (fun _ => x.sized v.toNat)).cp.queues.length := by rwa [State.updQ_queues_length]
    have c0 : bit (v &&& ~~~1).toNat 0 = false := by rw [Word.bit_clear_zero]; simp
    have keep {k n : Nat} (h : k ≠ n) := bit_or_of_ne v.toNat h
    have set_ (k : Nat) := bit_or_self v.toNat k
    change (_ → execQEnable q v s = _) ∧ (_ → execQEnable q v s = _) ∧ (_ → execQDisable q v s = _) ∧ (_ → _ → _ → execQDisable q v s = _) ∧
      (_ → _ → _ → _ → execQDisable q v s = _) ∧ (_ → _ → _ → execQResume q v s = _) ∧
      (∀ w, _ → _ → _ → (_ → execQResume q v s = _) ∧ (_ → _ → execQResume q v s = _)) ∧ (_ → _ → execClearErr q v s = _) ∧
      (_ → execQResume q v s = execQDisable q v s ∧ execClearErr q v s = execQDisable q v s) ∧
      (_ → _ → execQResume q v s = execQEnable q v s ∧ (_ → _ → execClearErr q v s = execQEnable q v s))
    rw [execQEnable_on hx hd, execQDisable_on hx hd, execQResume_on hx hd, execClearErr_on hx hd]
    refine ⟨fun h => ?_, fun h => ?_, fun h => ?_, fun ha hb ho => ?_, fun ha hb hj ho => ?_, fun h hb hh => ?_,
      fun w h hb hh => ⟨fun hin => ?_, fun hout hc => ?_⟩, fun h hb => ?_, fun hb => ?_, fun hb h => ⟨?_, fun ho hf => ?_⟩⟩
    · rw [State.qAct_enable hz hlt (set_ 0) h, State.updQ_updQ]
    · rw [State.qAct_unmoved hz hlt (set_ 0) (by rwa [Queue.unmoved, keep (by decide), keep (by decide)]), State.updQ_updQ]
    · rw [State.qAct_disable hz hlt c0, State.qDisable_of_idle hz h, State.updQ_updQ]
    · have ho' : (∃ e ∈ s.cp.jrn, e.queue = q) ∨ x.overrunDue ≠ [] := by simpa [List.filter_eq_nil_iff] using ho
      rw [State.qAct_disable hz hlt c0, State.qDisable_owing hz hlt ha hb ho', State.updQ_updQ]
    · have hj' : ∀ e ∈ s.cp.jrn, e.queue ≠ q := by simpa [List.filter_eq_nil_iff] using hj
      rw [State.qAct_disable hz hlt c0, State.qDisable_done hz hlt ha hb hj' ho, State.updQ_updQ]
    · rw [State.qAct_resume hz hlt ((keep (by decide)).trans hb) (set_ 1) h hh, State.updQ_updQ]
    · rw [State.qAct_resume_inRing hz hlt ((keep (by decide)).trans hb) (set_ 1) h hh hin, State.updQ_updQ]
    · rw [State.qAct_resume_overrun hz hlt ((keep (by decide)).trans hb) (set_ 1) ((keep (by decide)).trans hc) h hh hout, State.updQ_updQ]
    · rw [State.qAct_clearErr hz hlt ((keep (by decide)).trans hb) (set_ 2) h, State.updQ_updQ]
      rfl
    · rw [State.qAct_disable hz hlt c0, State.qAct_disable hz hlt ((keep (by decide)).trans hb), State.qAct_disable hz hlt ((keep (by decide)).trans hb)]
      exact ⟨rfl, rfl⟩
    · rw [State.qAct_of_notSuspended hz hlt ((keep (by decide)).trans hb) h, State.qAct_of_notSuspended hz hlt (set_ 0) h, keep (by decide),
        keep (by decide)]
    · rw [State.qAct_of_notSuspended hz hlt ((keep (by decide)).trans hb) h, State.qAct_of_notSuspended hz hlt (set_ 0) h,
        State.qClearErr_qEnable hz hlt ho hf, ite_self, ite_self]
  · rw [← EventQueue.sized_eq] at hy
    subst hy
    have c0 : bit (v &&& ~~~1).toNat 0 = false := by rw [Word.bit_clear_zero]; simp
    have c1 : bit (v &&& ~~~1).toNat 1 = bit v.toNat 1 := by rw [Word.bit_clear_zero]; simp
    have keep {k n : Nat} (h : k ≠ n) := bit_or_of_ne v.toNat h
    have set_ (k : Nat) := bit_or_self v.toNat k
    change (_ → execEqEnable e v s = _) ∧ (_ → execEqEnable e v s = _) ∧ (_ → execEqDisable e v s = _) ∧ (_ → _ → execEqDisable e v s = _) ∧
      (_ → _ → execEqResume e v s = _) ∧ (_ → _ → _ → execEqResume e v s = _)
    rw [execEqEnable_on hx hd, execEqDisable_on hx hd, execEqResume_on hx hd]
    refine ⟨fun h => ?_, fun h => ?_, fun h => ?_, fun h hr => ?_, fun h hb => ?_, fun h hb hh => ?_⟩
    · rw [EventQueue.ctl_enable (set_ 0) h, EventQueue.sized_or x _ (by decide)]
    · rw [EventQueue.ctl_unmoved (set_ 0) (by rwa [keep (by decide)]), EventQueue.sized_or x _ (by decide)]
    · rw [EventQueue.ctl_disable_empty c0 h, EventQueue.sized_clear]
    · rw [EventQueue.ctl_disable_held c0 h (by rwa [c1]), EventQueue.sized_clear]
    · rw [EventQueue.ctl_resume (set_ 1) h (.inl ((keep (by decide)).trans hb)), keep (by decide), hb, EventQueue.sized_or x _ (by decide)]
    · rw [EventQueue.ctl_resume (set_ 1) h (.inr hh), keep (by decide), hb, EventQueue.sized_or x _ (by decide)]
  · have hq (w : Word) := congrArg (Host.Outcome.next (φ := Fault) (ρ := Refusal)) (State.ctlWrites_off hd k w).1
    have he (w : Word) := congrArg (Host.Outcome.next (φ := Fault) (ρ := Refusal)) (State.ctlWrites_off hd k w).2
    exact ⟨hq _, hq _, hq _, hq _, he _, he _, he _⟩

end Sys2Proof.Machine
end

