-- ==== Sys2Proof/Proofs/Posting.lean ====
section
/-! PROOFS. The posting of completions and events, and the holding of events (R266 to R268, R271, R277, R280, R428). -/

namespace Sys2Proof.Machine

/-! ### Posting a completion -/

@[simp] theorem State.signal_cp (s : State) (v : Nat) : (s.signal v).cp = s.cp := by rw [State.signal_frame]

@[simp] theorem State.signal_pwr (s : State) (v : Nat) : (s.signal v).pwr = s.pwr := by rw [State.signal_frame]

@[simp] theorem State.hostWrite_cp (s : State) (a : Nat) (bs : List Byte) : (s.hostWrite a bs).cp = s.cp := by
  unfold State.hostWrite; split <;> rfl

theorem State.postCpl_eq (s : State) (q seq status : Nat) (recovered dup : Bool) (result : List Byte) :
    s.postCpl q seq status recovered dup result = s.posted q (completion (nth s.cp.queues q) q seq status recovered dup result) := rfl

/-- Of the command processor a posting changes CQ_TAIL of its queue alone. -/
theorem State.posted_cp (s : State) (q : Nat) (c : List Byte) :
    (s.posted q c).cp = { s.cp with queues := upd s.cp.queues q (fun y => { y with cqTail := y.cqTail + 1 }) } := by
  unfold State.posted
  dsimp only
  split <;> simp [State.updQ]

/-- A power sequence that waits for the queues' completions goes on after a posting (R428). -/
theorem execCqPost_eq (q : Nat) (s : State) : execCqPost q s = .next (s.cqPost q).goesOn := by
  have hgo (t : State) : (match t.pwr.trans with
      | some { steps := .retain :: _, .. } => t.sequencer
      | _ => t) = t.goesOn := by
    unfold State.goesOn
    cases h : t.pwr.trans with
    | none => rfl
    | some x =>
      obtain ⟨target, old, steps, start⟩ := x
      cases steps with
      | nil => rfl
      | cons y r => cases y <;> rfl
  exact congrArg _ (hgo _)

section Post

variable {s : State} {q : Nat} {x : Queue} (hx : nth s.cp.queues q = x) (hsus : x.st ≠ .suspended) (hdis : x.st ≠ .disabled)
  (hroom : (x.cqTail - x.cqHead).toNat < 2 ^ x.cqSize) (hbus : s.busOk = true) (hd : s.domOn 45 = true)
include hx hsus hdis hroom hbus hd

/-- The queue's posting of a refused tail, or nothing. -/
def State.postOverrun (s : State) (q : Nat) : State :=
  match (nth s.cp.queues q).overrunDue with
  | v :: rest =>
    ((s.postCpl q (nth s.cp.queues q).lastSeq.toNat QUEUE_OVERRUN false false (leBytes 4 v.toNat)).updQ q
      (fun x => { x with overrunDue := rest })).drained q
  | [] => s

theorem State.cqPost_open : s.cqPost q =
    (match s.cp.current q with
    | none => s.postOverrun q
    | some e =>
      if e.rollbackDue then
        (s.postCpl q (pktSeq e.pkt) ROLLED_BACK_REQUEUED true e.dup []).updJ e.idx (fun e => { e with rollbackDue := false })
      else match e.acceptedDue with
        | some r => (s.postCpl q (pktSeq e.pkt) ACCEPTED e.recovered e.dup r).updJ e.idx (fun e => { e with acceptedDue := none })
        | none =>
          if e.finalDue then
            (s.postCpl q (pktSeq e.pkt) e.status e.recovered e.dup e.result).updJ e.idx (fun e => { e with posted := true, cqPos := x.cqTail })
          else s.postOverrun q) := by
  have hopen : (x.st == .suspended || x.st == .disabled || x.cqFull || !s.busOk || !s.domOn 45) = false := by
    have hfull : x.cqFull = false := decide_eq_false (Nat.not_le.2 hroom)
    simp [hsus, hdis, hbus, hd, hfull]
  subst hx
  simp only [State.cqPost, hopen, Bool.false_eq_true, if_false]
  rfl

theorem State.cqPost_rollback {e : JEntry} (he : s.cp.current q = some e) (hr : e.rollbackDue = true) :
    s.cqPost q = (s.posted q (completion x q (pktSeq e.pkt) ROLLED_BACK_REQUEUED true e.dup [])).updJ e.idx (fun e => { e with rollbackDue := false }) := by
  rw [State.cqPost_open hx hsus hdis hroom hbus hd, he]
  simp only [hr, if_true, State.postCpl_eq, hx]

theorem State.cqPost_accepted {e : JEntry} {r : List Byte} (he : s.cp.current q = some e) (hr : e.rollbackDue = false) (ha : e.acceptedDue = some r) :
    s.cqPost q = (s.posted q (completion x q (pktSeq e.pkt) ACCEPTED e.recovered e.dup r)).updJ e.idx (fun e => { e with acceptedDue := none }) := by
  rw [State.cqPost_open hx hsus hdis hroom hbus hd, he]
  simp only [hr, ha, Bool.false_eq_true, if_false, State.postCpl_eq, hx]

theorem State.cqPost_final {e : JEntry} (he : s.cp.current q = some e) (hr : e.rollbackDue = false) (ha : e.acceptedDue = none) (hf : e.finalDue = true) :
    s.cqPost q = (s.posted q (completion x q (pktSeq e.pkt) e.status e.recovered e.dup e.result)).updJ e.idx
      (fun e => { e with posted := true, cqPos := x.cqTail }) := by
  rw [State.cqPost_open hx hsus hdis hroom hbus hd, he]
  simp only [hr, ha, hf, Bool.false_eq_true, if_false, if_true, State.postCpl_eq, hx]

theorem State.cqPost_overrun (hn : ∀ e, s.cp.current q = some e → e.rollbackDue = false ∧ e.acceptedDue = none ∧ e.finalDue = false) :
    s.cqPost q = s.postOverrun q := by
  rw [State.cqPost_open hx hsus hdis hroom hbus hd]
  cases he : s.cp.current q with
  | none => rfl
  | some e =>
    obtain ⟨hr, ha, hf⟩ := hn e he
    simp [hr, ha, hf]

end Post

/-- The queue after its oldest refused tail has been posted. -/
theorem State.nth_posted_overrun {s : State} {q : Nat} {c : List Byte} {rest : List Word} (hq : q < s.cp.queues.length) :
    nth ((s.posted q c).updQ q (fun y => { y with overrunDue := rest })).cp.queues q =
      { nth s.cp.queues q with cqTail := (nth s.cp.queues q).cqTail + 1, overrunDue := rest } := by
  rw [State.updQ_cp, State.posted_cp]
  simp only [upd_upd, nth_upd_self _ hq]

theorem State.posted_jrn (s : State) (q : Nat) (c : List Byte) : (s.posted q c).cp.jrn = s.cp.jrn := by
  rw [State.posted_cp]; rfl

/-! ### Posting an event -/

section EventPost

variable {s : State} {e : Nat} {x : EventQueue}

theorem State.updEq_updEq (s : State) (e : Nat) (f g : EventQueue → EventQueue) : (s.updEq e f).updEq e g = s.updEq e (fun x => g (f x)) := by
  simp only [State.updEq, upd_upd]

theorem State.updEq_congr {f g : EventQueue → EventQueue} (hx : nth s.cp.eqs e = x) (hfg : f x = g x) : s.updEq e f = s.updEq e g := by
  simp only [State.updEq, upd_nth_congr hx hfg]

theorem State.updEq_id {f : EventQueue → EventQueue} (hx : nth s.cp.eqs e = x) (hf : f x = x) : s.updEq e f = s := by
  simp only [State.updEq, upd_nth_id hx hf]

theorem State.nth_updEq (he : e < s.cp.eqs.length) (f : EventQueue → EventQueue) : nth (s.updEq e f).cp.eqs e = f (nth s.cp.eqs e) :=
  nth_upd_self f he

/-- An event queue that is enabled, or still holds an event, stays as it is (R297). -/
theorem State.eqDrained_of_open (hx : nth s.cp.eqs e = x) (h : x.enable = true ∨ x.held ≠ []) : s.eqDrained e = s := by
  refine State.updEq_id hx ?_
  obtain h | h := h <;> simp [h]

theorem State.eqDrained_of_done (hx : nth s.cp.eqs e = x) (hst : x.st = .running) (hen : x.enable = false) (hh : x.held = []) :
    s.eqDrained e = s.updEq e (fun y => { y with st := .disabled }) := by
  refine State.updEq_congr hx ?_
  simp [hst, hen, hh]

/-- The oldest held event of an event queue is written to its ring and leaves it. -/
def State.eventWritten (s : State) (e : Nat) (ev : Event) (rest : List Event) : State :=
  (s.hostWrite ((nth s.cp.eqs e).base.toNat + 32 * ((nth s.cp.eqs e).tail.toNat % 2 ^ (nth s.cp.eqs e).size)) (eventRecord (nth s.cp.eqs e) e ev)).updEq e
    (fun y => { y with held := rest, tail := y.tail + 1 })

theorem State.nth_eventWritten (he : e < s.cp.eqs.length) (ev : Event) (rest : List Event) :
    nth (s.eventWritten e ev rest).cp.eqs e = { nth s.cp.eqs e with held := rest, tail := (nth s.cp.eqs e).tail + 1 } := by
  rw [State.eventWritten, State.nth_updEq (by rwa [State.hostWrite_cp]), State.hostWrite_cp]

theorem execEventPost_writes {ev : Event} {rest : List Event} (hst : (nth s.cp.eqs e).st = .running)
    (hroom : ((nth s.cp.eqs e).tail - (nth s.cp.eqs e).head).toNat < 2 ^ (nth s.cp.eqs e).size)
    (hbus : s.busOk = true) (hd : s.domOn 45 = true) (hh : (nth s.cp.eqs e).held = ev :: rest) :
    execEventPost e s = .next ((if (nth s.cp.eqs e).irqEn then (s.eventWritten e ev rest).signal (8 + e) else s.eventWritten e ev rest).eqDrained e) := by
  have hopen : ¬ ((nth s.cp.eqs e).st ≠ .running || decide (2 ^ (nth s.cp.eqs e).size ≤ ((nth s.cp.eqs e).tail - (nth s.cp.eqs e).head).toNat) ||
      !s.busOk || !s.domOn 45) = true := by
    rw [decide_eq_false (Nat.not_le.2 hroom)]
    simp [hst, hbus, hd]
  simp only [execEventPost, if_neg hopen, hh]
  rfl

end EventPost

/-- Settles O20: what the queue owes first is posted; and the oldest event an event queue holds. -/
theorem posting : Obligations.Posting := by
  refine ⟨?_, ?_⟩
  · intro s q x hx hsus hdis hroom hbus hd
    refine ⟨fun e he hr => ?_, fun e r he hr ha => ?_, fun e he hr ha hf => ?_, fun v rest t hn hv ht => ?_⟩
    · rw [← State.cqPost_rollback hx hsus hdis hroom hbus hd he hr]
      exact execCqPost_eq q s
    · rw [← State.cqPost_accepted hx hsus hdis hroom hbus hd he hr ha]
      exact execCqPost_eq q s
    · rw [← State.cqPost_final hx hsus hdis hroom hbus hd he hr ha hf]
      exact execCqPost_eq q s
    · have hq : q < s.cp.queues.length := lt_length_of_nth_ne (by rw [hx]; rintro rfl; cases hv)
      have hpost : s.cqPost q = t.drained q := by
        rw [State.cqPost_overrun hx hsus hdis hroom hbus hd hn, State.postOverrun, hx, hv, ht]
        simp only [State.postCpl_eq, hx]
      have hnth : nth t.cp.queues q = { x with cqTail := x.cqTail + 1, overrunDue := rest } := by
        rw [ht, State.nth_posted_overrun hq, hx]
      have hjrn : t.cp.jrn = s.cp.jrn := by rw [ht, State.updQ_jrn, State.posted_jrn]
      refine ⟨fun h => (execCqPost_eq q s).trans ?_, fun hst hrest hj => (execCqPost_eq q s).trans ?_⟩
      · rw [hpost, State.drained_of_owing]
        rw [hnth, hjrn]
        obtain h | h | h := h
        exacts [.inl h, .inr (.inr h), .inr (.inl h)]
      · rw [hpost, State.drained_of_done (by rwa [hnth]) (by rwa [hjrn]) (by rw [hnth]; exact hrest)]
  · rintro s e x ev rest rfl he hst hroom hbus hd hh t rfl
    have hnth : ∀ u, u = (if (nth s.cp.eqs e).irqEn then (s.eventWritten e ev rest).signal (8 + e) else s.eventWritten e ev rest) →
        nth u.cp.eqs e = { nth s.cp.eqs e with held := rest, tail := (nth s.cp.eqs e).tail + 1 } := by
      rintro u rfl
      rw [← State.nth_eventWritten he ev rest]
      split
      · rw [State.signal_cp]
      · rfl
    refine ⟨fun h => (execEventPost_writes hst hroom hbus hd hh).trans ?_, fun hen hrest => (execEventPost_writes hst hroom hbus hd hh).trans ?_⟩
    · rw [State.eqDrained_of_open (hnth _ rfl) h]
      rfl
    · rw [State.eqDrained_of_done (hnth _ rfl) hst hen hrest]
      rfl

/-! ### Holding events -/

/-- A PME needs D3hot (R365). -/
theorem State.pme_of_d0 {s : State} (h : s.pcie.cfg.d3hot = false) : s.pme = s := by simp [State.pme, h]

/-- Settles O21. -/
theorem eventsAreHeldOrCounted : Obligations.EventsAreHeldOrCounted := by
  intro s type source tag tb payload x hx he hd h0
  have hpme (t : State) (ht : t.pcie = s.pcie) : t.pme = t := State.pme_of_d0 (by rw [ht, h0])
  refine ⟨fun hlt => ?_, fun hge => ?_⟩
  · simp only [State.event, State.eventW, hd, hx, hlt, if_true]
    rw [hpme (s.updEq _ _) rfl, ite_self]
    exact State.updEq_congr hx rfl
  · simp only [State.event, State.eventW, hd, hx, Nat.not_lt.2 hge, if_true, if_false]
    exact State.updEq_congr hx rfl

end Sys2Proof.Machine
end

