-- ==== Sys2Proof/Proofs/Engine.lean ====
section
/-! PROOFS. The sequencer pair, micro-traps, requeued commands and the journal copies (R282, R285 to R290). -/

namespace Sys2Proof.Machine

/-! ### A detection leaves the command processor alone -/

@[simp] theorem State.logK_cp (s : State) (cls blk code inst detail : Nat) (kpr : Option Nat) : (s.logK cls blk code inst detail kpr).cp = s.cp := by
  rw [State.logK_frame]

@[simp] theorem State.log_cp (s : State) (cls blk code inst detail : Nat) : (s.log cls blk code inst detail).cp = s.cp := State.logK_cp ..

/-! ### Lockstep (R285) -/

theorem execLockstepMismatch_few {s : State} (hrun : s.cp.st = .running) (hl : s.cp.lockstep = true) (hfew : s.cp.mismatchTb.length < 15) :
    execLockstepMismatch s = .next
      ((s.updCp (fun c => { c with mismatchCnt := satAdd 65535 c.mismatchCnt 1, mismatchTb := s.tb.count :: c.mismatchTb })).startRestart
        { kind := 4, mismatch := true }) := by
  have htake : (s.tb.count :: s.cp.mismatchTb).take 16 = s.tb.count :: s.cp.mismatchTb := List.take_of_length_le (by simp; omega)
  have hlen : ((s.tb.count :: s.cp.mismatchTb).length == 16) = false := by simp; omega
  simp only [execLockstepMismatch, hrun, hl, htake, hlen]
  rfl

/-- Sixteen mismatches within one second are a storm, the last of them being now. -/
theorem mismatch_storm {t : BitVec 64} {tbs : List (BitVec 64)} {fs : Nat} (hlen : 15 ≤ tbs.length) (hall : ∀ x ∈ tbs, (t - x).toNat < fs)
    (hfs : 0 < fs) : (((t :: tbs).take 16).length == 16 && ((t :: tbs).take 16).all (fun x => (t - x).toNat < fs)) = true := by
  have hlast : ∀ x ∈ (t :: tbs).take 16, (t - x).toNat < fs := by
    intro x hx
    obtain rfl | hx := List.mem_cons.1 (List.mem_of_mem_take hx)
    · simpa using hfs
    · exact hall x hx
  rw [Bool.and_eq_true, List.all_eq_true]
  exact ⟨by simp; omega, fun x hx => decide_eq_true (hlast x hx)⟩

theorem execLockstepMismatch_storm {s : State} (hrun : s.cp.st = .running) (hl : s.cp.lockstep = true) (hlen : 15 ≤ s.cp.mismatchTb.length)
    (hall : ∀ x ∈ s.cp.mismatchTb, (s.tb.count - x).toNat < s.fs) (hfs : 0 < s.fs) :
    execLockstepMismatch s = .next
      (((s.updCp (fun c => { c with mismatchCnt := satAdd 65535 c.mismatchCnt 1, mismatchTb := (s.tb.count :: c.mismatchTb).take 16 })).raiseAlarm 5 0).startRestart
        { kind := 4, mismatch := true }) := by
  have hstorm := mismatch_storm hlen hall hfs
  have hgo : ¬ (s.cp.st ≠ .running || !s.cp.lockstep) = true := by simp [hrun, hl]
  exact (if_neg hgo).trans (congrArg (fun t : State => Host.Outcome.next (t.startRestart { kind := 4, mismatch := true })) (if_pos hstorm))

/-- Settles O22. -/
theorem lockstepCompletes : Obligations.LockstepCompletes := by
  refine ⟨fun s hrun hl => ⟨execLockstepMismatch_few hrun hl, execLockstepMismatch_storm hrun hl⟩, fun s r hr hst ha hb => ?_⟩
  change (_ → execSequencerSelfTestDone true true s = _) ∧ execSequencerSelfTestDone true false s = _ ∧ execSequencerSelfTestDone false false s = _
  refine ⟨fun hm => ?_, ?_, ?_⟩
  · simp only [execSequencerSelfTestDone, hr, hst, State.selfTest, ha, hb, hm]
    rfl
  · simp only [execSequencerSelfTestDone, hr, hst, State.selfTest, ha, hb]
    rfl
  · simp only [execSequencerSelfTestDone, hr, hst, State.selfTest, ha, hb]
    rfl

/-! ### Micro-traps (R286, R287) -/

theorem JEntry.open_of_no_wait {e : JEntry} (hw : e.wait = none) : e.open = !e.finalDue := by simp [JEntry.open, hw]

theorem State.dropAsked_of_no_wait {s : State} {e : JEntry} (hw : e.wait = none) : s.dropAsked e = s := by simp [State.dropAsked, hw]

/-- A command that has not made its micro-commit ends with the status, its cause logged (R286). -/
theorem State.endCommand_open {s : State} {k status : Nat} {e : JEntry} (he : s.cp.current k = some e) (hf : e.finalDue = false) (hw : e.wait = none) :
    s.endCommand k status true = (s.logCp7 e).finish e.idx status [] := by
  simp [State.endCommand, he, JEntry.open_of_no_wait hw, hf, State.dropAsked_of_no_wait hw]

/-- How much of its change list stands in the change log is at most what the command changes and what there is room for (R288). -/
theorem State.listAtTrap_bounded {s : State} {k n : Nat} {e : JEntry} (he : s.cp.current k = some e) (hw : e.wait = none) :
    ∃ l, l ≤ changesOf e.pkt ∧ l ≤ s.cp.logSpace k ∧
      s.listAtTrap k n = (if e.finalDue = false ∧ (nth s.cp.threads k).frames = [] then s.updCp (fun p => { p with changeLog := upd p.changeLog k (fun _ => l) }) else s) := by
  refine ⟨min (Config.freeNat n % (changesOf e.pkt + 1)) (s.cp.logSpace k), ?_, Nat.min_le_right .., ?_⟩
  · exact Nat.le_trans (Nat.min_le_left ..) (Nat.lt_succ_iff.1 (Nat.mod_lt _ (Nat.succ_pos _)))
  · simp only [State.listAtTrap, he, JEntry.open_of_no_wait hw, Bool.and_eq_true, Bool.not_eq_true', List.isEmpty_iff]
    rfl

/-- The list a trap leaves changes no journal entry. -/
theorem State.listAtTrap_current (s : State) (k n j : Nat) : (s.listAtTrap k n).cp.current j = s.cp.current j := by
  unfold State.listAtTrap
  split
  · split <;> rfl
  · rfl

/-- Thread k's micro-state is saved in a new frame, and the handler runs (R286). -/
def State.trapEntered (s : State) (k : Nat) : State :=
  (({ s with freeCtr := s.freeCtr + 23 } : State).listAtTrap k (s.freeCtr + 22)).updThread k (fun x =>
    { x with frames := x.cur :: x.frames, cur := freeFrame s.freeCtr, st := if x.frames.isEmpty then .trap1 else .trap2 })

theorem State.trapEntered_current (s : State) (k j : Nat) : (s.trapEntered k).cp.current j = s.cp.current j :=
  State.listAtTrap_current ..

section Trap

variable {s : State} {k : Nat} {e : JEntry} (hrun : s.cp.st = .running) (he : s.cp.current k = some e) (hl : (nth s.cp.threads k).st ≠ .locked)
include hrun he hl

theorem State.trapReady_of_current : s.trapReady k = true := by simp [State.trapReady, hrun, he, hl]

section Handler

variable (hnest : (nth s.cp.threads k).frames.length < 2)
include hnest

theorem execMicroTrap_corrected (a : Nat) : execMicroTrap k (.corrected a) s = .next ((s.trapEntered k).log CORRECTED bCP 8 k a) := by
  simp only [execMicroTrap, State.trapReady_of_current hrun he hl, if_neg (Nat.not_le.2 hnest)]
  rfl

theorem execMicroTrap_uncorrectable : execMicroTrap k .uncorrectable s = .next ((s.trapEntered k).startRestart { kind := 4 }) := by
  simp only [execMicroTrap, State.trapReady_of_current hrun he hl, if_neg (Nat.not_le.2 hnest)]
  rfl

theorem execMicroTrap_abortAll : execMicroTrap k .abortAll s = .next (s.trapEntered k) := by
  simp only [execMicroTrap, State.trapReady_of_current hrun he hl, if_neg (Nat.not_le.2 hnest)]
  rfl

variable (hf : e.finalDue = false) (hw : e.wait = none)
include hf hw

theorem execMicroTrap_bulkReadError :
    execMicroTrap k .bulkReadError s = .next ((((s.trapEntered k).logCp7 e).finish e.idx PARAM_RANGE []).updThread k (fun _ => {})) := by
  rw [← State.endCommand_open ((s.trapEntered_current k k).trans he) hf hw]
  simp only [execMicroTrap, State.trapReady_of_current hrun he hl, if_neg (Nat.not_le.2 hnest)]
  rfl

theorem execMicroTrap_noReply :
    execMicroTrap k .noReply s = .next ((((s.trapEntered k).logCp7 e).finish e.idx INTERNAL_FAULT []).updThread k (fun _ => {})) := by
  rw [← State.endCommand_open ((s.trapEntered_current k k).trans he) hf hw]
  simp only [execMicroTrap, State.trapReady_of_current hrun he hl, if_neg (Nat.not_le.2 hnest)]
  rfl

end Handler

/-- The third nested trap locks the thread and restarts the engine, its command noted as the one that did (R287). -/
theorem execMicroTrap_locks (hnest : 2 ≤ (nth s.cp.threads k).frames.length) (hf : e.finalDue = false) (hw : e.wait = none)
    (honce : e.lockedOnce = false) (a : Nat) :
    execMicroTrap k (.corrected a) s = .next
      (((((s.log FATAL bCP 4 k (nth s.cp.threads k).cur.microPc).updCp (fun c => { c with trapLockCnt := satAdd 255 c.trapLockCnt 1 })).updJ e.idx
        (fun x => { x with lockedOnce := true, st := .executing })).startRestart { kind := 4 }).updThread k (fun x => { x with st := .locked })) := by
  have hcur : ((s.log FATAL bCP 4 k (nth s.cp.threads k).cur.microPc).updCp
      (fun c => { c with trapLockCnt := satAdd 255 c.trapLockCnt 1 })).cp.current k = some e := by
    rw [← he, State.updCp_cp, State.log_cp]
    rfl
  have hopen : e.open = true := by rw [JEntry.open_of_no_wait hw, hf]; rfl
  simp only [execMicroTrap, State.trapReady_of_current hrun he hl, if_pos hnest, State.lockThread, hcur, hopen, honce]
  rfl

end Trap

theorem execMicroTrap_handlerEnd {s : State} {k : Nat} {e : JEntry} {f : Frame} (he : s.cp.current k = some e)
    (hfr : (nth s.cp.threads k).frames = [f]) (hw : e.wait = none) :
    execMicroTrap k .handlerEnd s = .next (s.updThread k (fun x => { x with cur := f, frames := [], st := .idle })) := by
  simp [execMicroTrap, hfr, he, hw]

/-! ### Requeued commands and the journal copies -/

theorem execRequeuedExecute_begins {s : State} {q : Nat} {e : JEntry} (he : s.cp.current q = some e) (hst : e.st = .requeued)
    (hrun : s.cp.st = .running) (hstart : s.pwr.starting = false) (hq : (nth s.cp.queues q).st ≠ .suspended)
    (hturn : ∀ f ∈ s.cp.jrn, f.st = .requeued → e.idx ≤ f.idx) (hfence : fence e.pkt = false) :
    execRequeuedExecute q s = .next (s.updJ e.idx (fun x => { x with st := .executing })) := by
  have hall : s.cp.requeueTurn e = true := by
    rw [Cp.requeueTurn, List.all_eq_true]
    intro f hf
    by_cases h : f.st = .requeued
    · simp [hturn f hf h]
    · simp [h]
  simp [execRequeuedExecute, he, hst, hrun, hstart, hq, hall, hfence]

/-- Settles O23. -/
theorem engineEventsComplete : Obligations.EngineEventsComplete := by
  refine ⟨?_, fun s q e => ⟨fun hrun he hl hf hw => ?_, execRequeuedExecute_begins, fun cause ha hb => ?_, fun cause ha hb => ?_, fun ha hb hr hd => ?_⟩⟩
  · rintro s k t e rfl hrun he hl
    refine ⟨State.listAtTrap_bounded he, ?_, fun f hfr hw => execMicroTrap_handlerEnd he hfr hw,
      fun hnest hf hw honce a => execMicroTrap_locks hrun he hl hnest hf hw honce a⟩
    rintro s' rfl hnest
    exact ⟨execMicroTrap_corrected hrun he hl hnest,
      fun hf hw => ⟨execMicroTrap_bulkReadError hrun he hl hnest hf hw, execMicroTrap_noReply hrun he hl hnest hf hw⟩,
      execMicroTrap_uncorrectable hrun he hl hnest, execMicroTrap_abortAll hrun he hl hnest⟩
  · rw [← State.endCommand_open he hf hw]
    exact congrArg _ (if_pos (State.trapReady_of_current hrun he hl))
  · change execJournalCopyFail 0 cause s = _ ∧ execJournalCopyFail 1 cause s = _
    simp [execJournalCopyFail, State.copyFail, ha, hb]
  · change execJournalCopyFail 0 cause s = _
    simp [execJournalCopyFail, State.copyFail, ha, hb]
  · change execJournalBRebuild s = _
    simp [execJournalBRebuild, ha, hb, hr, hd]

end Sys2Proof.Machine
end


-- ==== Sys2Proof/Proofs/Boundaries.lean ====
section
/-! PROOFS. What an event and a boundary leave alone, the oldest generation applied (R34, R36), and ACQ_BOUNDARY (R35). -/

namespace Sys2Proof.Machine

/-! ### Folds that leave a part of the state alone -/

theorem foldl_proj {σ α β : Type} (p : σ → β) {f : σ → α → σ} (hf : ∀ s a, p (f s a) = p s) (xs : List α) (s : σ) : p (xs.foldl f s) = p s := by
  induction xs generalizing s with
  | nil => rfl
  | cons a r ih => exact (ih (f s a)).trans (hf s a)

theorem forEach_proj {α β : Type} (p : State → β) {f : State → α → State} (hf : ∀ s a, p (f s a) = p s) (xs : List α) (s : State) :
    p (forEach xs s f) = p s := foldl_proj p hf xs s

/-! ### Events (R277 to R280, R432) -/

theorem State.pme_frame (s : State) : s.pme = { s with pcie := s.pme.pcie, msgSent := s.pme.msgSent } := by
  unfold State.pme
  split
  · rfl
  · rw [State.message_frame]

theorem State.askWake_frame (s : State) (door : Bool) : s.askWake door = { s with pwr := (s.askWake door).pwr } := by
  unfold State.askWake State.wake
  cases door <;> dsimp only <;> repeat' split
  all_goals rfl

/-- An event touches the event queues, the events PD49 holds, the wake it asks for and the PM_PME message alone. -/
theorem State.eventW_frame (s : State) (wakes : Bool) (type source : Nat) (tag : Option Nat) (tb : BitVec 64) (payload : List Byte) :
    s.eventW wakes type source tag tb payload =
      { s with cp := (s.eventW wakes type source tag tb payload).cp, stby := (s.eventW wakes type source tag tb payload).stby,
               pwr := (s.eventW wakes type source tag tb payload).pwr, pcie := (s.eventW wakes type source tag tb payload).pcie,
               msgSent := (s.eventW wakes type source tag tb payload).msgSent } := by
  have hp := State.pme_frame
  have ha := fun t : State => State.askWake_frame t false
  unfold State.eventW
  dsimp only
  repeat' split
  all_goals first
    | rfl
    | (rw [hp]; rfl)
    | (rw [ha, hp]; rfl)
    | (rw [ha]; rfl)

theorem State.event_frame (s : State) (type source : Nat) (tag : Option Nat) (tb : BitVec 64) (payload : List Byte) :
    s.event type source tag tb payload =
      { s with cp := (s.event type source tag tb payload).cp, stby := (s.event type source tag tb payload).stby,
               pwr := (s.event type source tag tb payload).pwr, pcie := (s.event type source tag tb payload).pcie,
               msgSent := (s.event type source tag tb payload).msgSent } := State.eventW_frame ..

section
variable (s : State) (type source : Nat) (tag : Option Nat) (tb : BitVec 64) (payload : List Byte)

@[simp] theorem State.event_units : (s.event type source tag tb payload).units = s.units := by rw [State.event_frame]
@[simp] theorem State.event_cfg : (s.event type source tag tb payload).cfg = s.cfg := by rw [State.event_frame]
@[simp] theorem State.event_rsv : (s.event type source tag tb payload).rsv = s.rsv := by rw [State.event_frame]
@[simp] theorem State.event_acq : (s.event type source tag tb payload).acq = s.acq := by rw [State.event_frame]
@[simp] theorem State.event_now : (s.event type source tag tb payload).now = s.now := by rw [State.event_frame]
@[simp] theorem State.event_freeCtr : (s.event type source tag tb payload).freeCtr = s.freeCtr := by rw [State.event_frame]

end

/-! ### The ends of commands and the log leave the registers and the units alone -/

@[simp] theorem State.finish_cfg (s : State) (idx status : Nat) (result : List Byte) : (s.finish idx status result).cfg = s.cfg := by
  rw [State.finish_frame]

theorem State.finishWaits_frame (s : State) (p : JEntry → Bool) (status : Nat) (result : JEntry → List Byte) :
    s.finishWaits p status result = { s with cp := (s.finishWaits p status result).cp } := by
  unfold State.finishWaits forEach
  generalize s.cp.jrn.filter _ = es
  induction es generalizing s with
  | nil => rfl
  | cons e r ih => rw [List.foldl_cons, ih, State.finish_frame]

@[simp] theorem State.finishWaits_cfg (s : State) (p : JEntry → Bool) (status : Nat) (result : JEntry → List Byte) :
    (s.finishWaits p status result).cfg = s.cfg := by rw [State.finishWaits_frame]
@[simp] theorem State.finishWaits_units (s : State) (p : JEntry → Bool) (status : Nat) (result : JEntry → List Byte) :
    (s.finishWaits p status result).units = s.units := by rw [State.finishWaits_frame]

@[simp] theorem State.log_units (s : State) (cls blk code inst detail : Nat) : (s.log cls blk code inst detail).units = s.units := by
  unfold State.log; rw [State.logK_frame]

/-! ### The oldest pending generation applies (R34, R36) -/

@[simp] theorem State.putRegs_units (s : State) (regs : List (Nat × Word)) : (s.putRegs regs).units = s.units :=
  forEach_proj State.units (f := fun s (x : Nat × Word) => s.setReg x.1 x.2) (fun _ _ => rfl) ..

theorem State.putRegs_cons (s : State) (a : Nat) (v : Word) (regs : List (Nat × Word)) :
    s.putRegs ((a, v) :: regs) = (s.setReg a v).putRegs regs := rfl

theorem State.reg_setReg_self {s : State} (hs : s.cfgOk) (a : Nat) (v : Word) : (s.setReg a v).reg a = v.toNat := by
  have hs' : swfFrom shReset 0 s.cfg := (swf_iff_swfFrom ..).1 hs
  simp only [State.reg, State.setReg, sget_sput_same shReset hs']

theorem State.reg_setReg_of_ne (s : State) {a b : Nat} (v : Word) (h : b ≠ a) : (s.setReg a v).reg b = s.reg b := by
  simp only [State.reg, State.setReg, sget_sput_other shReset _ _ h]

theorem State.setReg_cfgOk {s : State} (hs : s.cfgOk) (a : Nat) (v : Word) : (s.setReg a v).cfgOk := swf_sput _ hs a v

/-- A register that a list of writes does not name reads as before it. -/
theorem State.reg_putRegs_of_not_mem {a : Nat} {regs : List (Nat × Word)} (h : a ∉ regs.map Prod.fst) (s : State) :
    (s.putRegs regs).reg a = s.reg a := by
  induction regs generalizing s with
  | nil => rfl
  | cons p r ih =>
    obtain ⟨b, v⟩ := p
    obtain ⟨hne, hr⟩ := not_or.1 (mt List.mem_cons.2 h)
    rw [State.putRegs_cons, ih hr, State.reg_setReg_of_ne _ _ hne]

/-- A register that a list of writes names once reads as the list says. -/
theorem State.reg_putRegs_of_mem {s : State} (hs : s.cfgOk) {a : Nat} {v : Word} {regs : List (Nat × Word)} (hn : (regs.map Prod.fst).Nodup)
    (h : (a, v) ∈ regs) : (s.putRegs regs).reg a = v.toNat := by
  induction regs generalizing s with
  | nil => cases h
  | cons p r ih =>
    obtain ⟨b, w⟩ := p
    obtain ⟨hb, hr⟩ := List.nodup_cons.1 hn
    rw [State.putRegs_cons]
    rcases List.mem_cons.1 h with heq | hmem
    · obtain ⟨rfl, rfl⟩ := Prod.mk.inj heq
      rw [State.reg_putRegs_of_not_mem hb, State.reg_setReg_self hs]
    · exact ih (State.setReg_cfgOk hs b w) hr hmem

/-- A unit's oldest generation leaves its pending sets; LAST_GEN and the boundary's TB_COUNT are recorded (R34, R42). -/
theorem State.genDone_units {s : State} {u : Nat} {gen : Gen} {rest : List Gen} (h : (nth s.units u).pend = gen :: rest) (bnd : BitVec 64)
    (flags : Nat) : (s.genDone u bnd flags).units = upd s.units u (fun x => { x with pend := rest, lastGen := gen.num, bnd := bnd }) := by
  simp [State.genDone, h]

@[simp] theorem State.genDone_cfg (s : State) (u : Nat) (bnd : BitVec 64) (flags : Nat) : (s.genDone u bnd flags).cfg = s.cfg := by
  unfold State.genDone; split <;> simp

theorem State.genDone_reg (s : State) (u : Nat) (bnd : BitVec 64) (flags a : Nat) : (s.genDone u bnd flags).reg a = s.reg a := by
  simp [State.reg]

theorem State.nextRegs_of_pend {s : State} {u : Nat} {gen : Gen} {rest : List Gen} (h : (nth s.units u).pend = gen :: rest) :
    s.nextRegs u = gen.regs := by simp [State.nextRegs, h]

/-- Settles O30: the generation's registers are put one by one, and the unit's sets change at the unit alone. -/
theorem generationAppliesAsOne : Obligations.GenerationAppliesAsOne := by
  intro s u bnd gen rest hs hu hp hn
  have hunits : (s.applyGen u bnd).units = upd s.units u (fun x => { x with pend := rest, lastGen := gen.num, bnd := bnd }) := by
    unfold State.applyGen
    rw [State.genDone_units (gen := gen) (rest := rest) (by simpa using hp), State.putRegs_units]
  have hreg : ∀ a, (s.applyGen u bnd).reg a = (s.putRegs gen.regs).reg a := fun a => by
    rw [State.applyGen, State.genDone_reg, State.nextRegs_of_pend hp]
  refine ⟨?_, ?_, ?_, ?_⟩
  · rw [hunits, nth_upd_self _ hu]
  · intro v hv
    rw [hunits, nth_upd_of_ne _ hv]
  · intro a v h
    rw [hreg, State.reg_putRegs_of_mem hs hn h]
  · intro a h
    rw [hreg, State.reg_putRegs_of_not_mem h]

/-! ### A boundary leaves the units' sets alone but for the generation that applies -/

section
variable (s : State)

@[simp] theorem State.remember_units : s.remember.units = s.units := by unfold State.remember; split <;> rfl
@[simp] theorem State.clearNumbering_units (u : Nat) : (s.clearNumbering u).units = s.units := rfl
@[simp] theorem State.newPeriod_units (n : Nat) : (s.newPeriod n).units = s.units := rfl
@[simp] theorem State.openWindow_units (n w : Nat) : (s.openWindow n w).units = s.units := rfl
@[simp] theorem State.setLive_units (n : Nat) (fresh : Bool) : (s.setLive n fresh).units = s.units := by
  unfold State.setLive; dsimp only; split <;> rfl
@[simp] theorem State.setBank_units (n b : Nat) : (s.setBank n b).units = s.units := rfl
@[simp] theorem State.standby_units (n : Nat) (cold : Nat → Bool) : (s.standby n cold).units = s.units := rfl
@[simp] theorem State.restart_units (n : Nat) (sync stage3 : Bool) : (s.restart n sync stage3).units = s.units := rfl
@[simp] theorem State.syncReset_units (n : Nat) : (s.syncReset n).units = s.units := rfl
@[simp] theorem State.postProgram_units (s0 : State) (regs : List (Nat × Word)) (u : Nat) : (s.postProgram s0 regs u).units = s.units := by
  unfold State.postProgram; split <;> rfl

@[simp] theorem decChange_units (s0 : State) (n : Nat) : (decChange s0 s n).units = s.units := by
  unfold decChange; dsimp only; split <;> rfl

@[simp] theorem swapBank_units (s0 : State) (regs : List (Nat × Word)) (n : Nat) (sync : Bool) : (swapBank s0 s regs n sync).units = s.units := by
  unfold swapBank; dsimp only; repeat' split
  all_goals rfl

@[simp] theorem deferBank_units (s0 : State) (regs : List (Nat × Word)) (n : Nat) : (deferBank s0 s regs n).1.units = s.units := by
  unfold deferBank; dsimp only; repeat' split
  all_goals rfl

@[simp] theorem weirBoundary_units (s0 : State) (regs : List (Nat × Word)) (n : Nat) : (weirBoundary s0 s regs n).1.units = s.units := by
  unfold weirBoundary; dsimp only; repeat' split
  all_goals simp

@[simp] theorem State.clearMap_units (n : Nat) : (s.clearMap n).units = s.units :=
  forEach_proj State.units (f := fun s k => s.updPondCh k (fun x => { x with stacked := false })) (fun _ _ => rfl) ..

@[simp] theorem pondBoundary_units (s0 : State) (n : Nat) : (pondBoundary s0 s n).units = s.units := by
  unfold pondBoundary; dsimp only; repeat' split
  all_goals simp

@[simp] theorem State.setCal_units (n : Nat) (new : CalSt) : (s.setCal n new).units = s.units := by
  unfold State.setCal; dsimp only; split <;> simp

@[simp] theorem State.gangRuns_units (s0 : State) (m : Nat) : (State.gangRuns s0 s m).units = s.units := by
  unfold State.gangRuns; split <;> rfl

@[simp] theorem calBoundary_units (s0 : State) (regs : List (Nat × Word)) (n : Nat) : (calBoundary s0 s regs n).units = s.units := by
  unfold calBoundary; dsimp only; repeat' split
  all_goals simp

@[simp] theorem State.prepare_units (n : Nat) : (s.prepare n).units = s.units := rfl
@[simp] theorem State.takeSet_units (n u e : Nat) : (s.takeSet n u e).units = s.units := by unfold State.takeSet; split <;> rfl
@[simp] theorem State.spareEvent_units (m j ty spare crit epoch : Nat) : (s.spareEvent m j ty spare crit epoch).units = s.units := by
  simp [State.spareEvent]
@[simp] theorem State.updSpare_units (n i : Nat) (f : Spare → Spare) : (s.updSpare n i f).units = s.units := rfl
@[simp] theorem State.markFail_units (m : Nat) : (s.markFail m).units = s.units := rfl
@[simp] theorem State.restartRuns_units (m : Nat) (taken : Nat → Bool) : (s.restartRuns m taken).units = s.units := rfl
@[simp] theorem State.reportNoneLeft_units (m j : Nat) : (s.reportNoneLeft m j).units = s.units := by simp [State.reportNoneLeft]
@[simp] theorem State.assignSpare_units (m j : Nat) : (s.assignSpare m j).units = s.units := by unfold State.assignSpare; dsimp only; split <;> simp
@[simp] theorem State.retireSpare_units (m i : Nat) : (s.retireSpare m i).units = s.units := by
  unfold State.retireSpare; dsimp only; repeat' split
  all_goals simp

@[simp] theorem State.substitute_units (m j e : Nat) : (s.substitute m j e).1.units = s.units := by
  unfold State.substitute; dsimp only; repeat' split
  all_goals simp

@[simp] theorem substAll_units (n e : Nat) : (substAll s n e).1.units = s.units := by
  unfold substAll
  generalize s.toSubst n = l
  generalize false = b
  induction l generalizing s b with
  | nil => rfl
  | cons p r ih =>
    obtain ⟨m, j⟩ := p
    have hsub := State.substitute_units s m j e
    rw [List.foldl_cons]
    dsimp only
    revert hsub
    rcases s.substitute m j e with ⟨t, d⟩
    intro hsub
    exact (ih t (b || d)).trans hsub

@[simp] theorem ditherBoundary_units (n : Nat) : (ditherBoundary s n).units = s.units := by
  unfold ditherBoundary; repeat' split
  all_goals rfl

@[simp] theorem State.calUnit_units (u : Nat) (moved : Bool) : (s.calUnit u moved).units = s.units := by
  have hsubst := fun (e : Nat) (ns : List Nat) (t : State) => foldl_proj State.units
    (f := fun s n => if (substAll s n e).2 then (substAll s n e).1.prepare n else (substAll s n e).1)
    (fun s n => by split <;> simp) ns t
  have htake := fun (e : Nat) (ns : List Nat) (t : State) => forEach_proj State.units (f := fun s n => s.takeSet n u e) (fun _ _ => State.takeSet_units ..) ns t
  unfold State.calUnit
  rw [forEach_proj State.units (fun _ _ => ditherBoundary_units ..)]
  dsimp only
  split
  · rw [htake]; exact hsubst ..
  · rw [State.event_units]; exact (htake _ _ _).trans (hsubst _ _ _)

theorem chanBoundary_units (s0 : State) (u : Nat) (regs : List (Nat × Word)) (acc : State × Flags) (n : Nat) :
    (chanBoundary s0 u regs acc n).1.units = acc.1.units := by
  unfold chanBoundary
  dsimp only
  rw [pondBoundary_units, calBoundary_units, State.setLive_units]
  split <;> split <;> simp

end

/-- At a boundary of a unit with a generation pending, its oldest one leaves its sets, and no other unit's change (R36). -/
theorem State.acqBoundaryAt_units {s : State} {u : Nat} {gen : Gen} {rest : List Gen} (h : (nth s.units u).pend = gen :: rest) :
    ∃ bnd, (s.acqBoundaryAt u).units = upd s.units u (fun x => { x with pend := rest, lastGen := gen.num, bnd := bnd }) := by
  have hns : ∀ s0 regs (ns : List Nat) (p : State × Flags), (ns.foldl (chanBoundary s0 u regs) p).1.units = p.1.units :=
    fun s0 regs ns p => foldl_proj (fun p : State × Flags => p.1.units) (chanBoundary_units s0 u regs) ns p
  have hmoved := fun (us : List Nat) (t : State) => forEach_proj State.units (f := fun s v => s.calUnit v true) (fun _ _ => State.calUnit_units ..) us t
  have h0 : (if s.boundaryChanges u then s.remember else s).units = s.units := by split <;> simp
  unfold State.acqBoundaryAt
  simp only [h, List.isEmpty_cons, Bool.false_eq_true, if_false, hmoved, State.calUnit_units]
  rw [State.genDone_units (gen := gen) (rest := rest) (by split <;> simp [hns, h0, h])]
  refine ⟨_, congrArg (fun us => upd us u _) ?_⟩
  split <;> simp [hns, h0]

/-! ### ACQ_BOUNDARY -/

section
variable {s : State} {u : Nat} {r : Run}

theorem execAcqBoundary_idle (hu : u ≤ 32) (h : (nth s.rsv.grp u).run = none) : execAcqBoundary u s = .next (s.acqBoundaryAt u) := by
  simp [execAcqBoundary, Nat.not_lt.2 hu, h]

theorem execAcqBoundary_average (hu : u ≤ 32) (h : (nth s.rsv.grp u).run = some r) (hm : r.mode = 4) :
    execAcqBoundary u s = .next (s.closeDue u) := by simp [execAcqBoundary, Nat.not_lt.2 hu, h, hm]

theorem execAcqBoundary_between (hu : u ≤ 32) (h : (nth s.rsv.grp u).run = some r) (hm : r.mode = 1) (hst : (nth s.trg.grp u).st = .rearm)
    (ht : r.openT ≤ 4096 * s.now) : execAcqBoundary u s = .next ((s.acqBoundaryAt u).openSeg u (4096 * s.now)) := by
  simp [execAcqBoundary, Nat.not_lt.2 hu, h, hm, hst, ht]

theorem execAcqBoundary_due (hu : u ≤ 32) (h : (nth s.rsv.grp u).run = some r) (hm : r.mode = 3 ∨ r.mode = 1 ∧ (nth s.trg.grp u).st ≠ .rearm)
    (hd : s.boundaryDue u r = true) :
    execAcqBoundary u s = .next ((s.acqBoundaryAt u).updRun u (fun x => { x with cut := some (s.now, !(nth s.units u).pend.isEmpty) })) := by
  rcases hm with hm | ⟨hm, hst⟩
  · simp [execAcqBoundary, Nat.not_lt.2 hu, h, hm, hd]
  · simp [execAcqBoundary, Nat.not_lt.2 hu, h, hm, hst, hd]

/-- A boundary that is none changes nothing. -/
theorem execAcqBoundary_none (hu : u ≤ 32) (h : (nth s.rsv.grp u).run = some r) (hm : r.mode = 0 ∨ r.mode = 2) (hd : s.boundaryDue u r = false) :
    execAcqBoundary u s = .next s := by
  rcases hm with hm | hm <;> simp [execAcqBoundary, Nat.not_lt.2 hu, h, hm, hd]

/-- The frame that runs began at this very edge: a generation that applies now makes its samples the first ones stamped from the edge on. -/
theorem execAcqBoundary_frame {s' : State} (hu : u ≤ 32) (h : (nth s.rsv.grp u).run = some r) (hm : r.mode = 3) (hd : s.boundaryDue u r = false)
    (hb : r.bndAt = some s.now) (hs : s' = (s.acqBoundaryAt u).updRun u (fun x => { x with bndAt := none })) :
    execAcqBoundary u s = .next (if !(nth s.units u).pend.isEmpty then s'.frameFrom u (s'.firstFrom r (4096 * s.now)) else s') := by
  subst hs
  simp [execAcqBoundary, Nat.not_lt.2 hu, h, hm, hd, hb]

end

/-- Settles O31: each kind of acquisition's boundary, and what a boundary does to the unit's sets. -/
theorem acquisitionBoundaryCompletes : Obligations.AcquisitionBoundaryCompletes := by
  intro s u hu
  refine ⟨execAcqBoundary_idle hu, ?_, fun r => execAcqBoundary_average hu, fun r => execAcqBoundary_between hu, fun r => execAcqBoundary_due hu, ?_,
    fun r => execAcqBoundary_none hu⟩
  · intro gen rest hlen hp
    obtain ⟨bnd, hunits⟩ := State.acqBoundaryAt_units hp
    rw [hunits, nth_upd_self _ hlen]
    exact ⟨rfl, rfl, rfl⟩
  · intro r s' h hm hd hb hs
    have hexec : exec (.acqBoundary u) s = _ := execAcqBoundary_frame hu h hm hd hb hs
    constructor <;> intro hp <;> simp [hexec, hp]

end Sys2Proof.Machine
end


-- ==== Sys2Proof/Proofs/Acquisitions.lean ====
section
/-! PROOFS. The commands of acquisitions and of records: starting, forcing, stopping, releasing and querying (R149, R174, R178, R184, R296, R314 to
R319). -/

namespace Sys2Proof.Machine

/-- In LOCKDOWN and ZEROISED a command that Keeper refuses ends with SECURITY_DENIED (R301). -/
theorem runCmd_denied {s : State} {q op : Nat} {e : JEntry} {pre : Packet → Bool} {spans : List (Nat × Nat)} {body : State → JEntry → CmdOut}
    (h : CmdReady s q op e) (hp : PktGood e spans pre) (hk : keeperRefuses op = true) (ha : s.kpr.alarm ≠ .clear) :
    runCmd s q op spans pre body = .next (s.finish e.idx SECURITY_DENIED []) := by
  obtain ⟨hcur, hop, hdup, hready, -⟩ := h
  obtain ⟨hok, hpre⟩ := hp
  have hconclude := State.conclude_refused (s := s) (t := s) (e := e) (st := SECURITY_DENIED) (r := []) (by decide)
  simp [runCmd, runCmdSel, hcur, hop, hdup, hready, hok, hpre, hk, ha, refuse, hconclude]

/-! ### ARM and STREAM_START (R314) -/

section
variable {s : State} {e : JEntry} {g : Nat} {stream : Bool}

theorem armBody_busy (hi : pktIndex e.pkt = g) (ha : s.armed g = true) : armBody stream s e = .done s GROUP_BUSY [] := by
  simp [armBody, hi, ha, refuse]

theorem armBody_refused {st : Nat} (hi : pktIndex e.pkt = g) (ha : s.armed g = false) (hm : s.movePending g = false)
    (hc : (s.acqBoundaryAt g).armChecks g stream ((s.acqBoundaryAt g).layout g) = st) (hst : st ≠ OK) :
    armBody stream s e = .done (s.acqBoundaryAt g) st [] := by
  simp [armBody, hi, ha, hm, hc, hst, refuse]

theorem armBody_starts {l : Layout} (hi : pktIndex e.pkt = g) (ha : s.armed g = false) (hm : s.movePending g = false)
    (hl : (s.acqBoundaryAt g).layout g = l) (hc : (s.acqBoundaryAt g).armChecks g stream l = OK) :
    armBody stream s e = .done ((s.acqBoundaryAt g).startRun g l (doneTag e.pkt)) OK
      (leBytes 4 (nth ((s.acqBoundaryAt g).startRun g l (doneTag e.pkt)).rsv.grp g).acqNum ++ leBytes 4 l.slots ++
        leBytes 8 ((s.acqBoundaryAt g).startRun g l (doneTag e.pkt)).tb.count.toNat) := by
  subst hl
  simp [armBody, hi, ha, hm, hc]

/-- Settles O24: the checks of R314 decide, in the state the boundary leaves, whether the acquisition starts. -/
theorem armAndStreamStartComplete : Obligations.ArmAndStreamStartComplete := by
  have hgood : ∀ {e : JEntry} {g : Nat}, pktIndex e.pkt = g → pktOk e.pkt [] = true → g ≤ 31 → PktGood e [] (fun p => pktIndex p ≤ 31) := by
    rintro e g rfl hok hg
    exact ⟨hok, decide_eq_true hg⟩
  constructor
  · intro s q e g l hi hok hg halarm ha hm hl
    have hp := hgood hi hok hg
    refine ⟨fun hr hc => ⟨_, rfl, ?_⟩, fun hr hc => ⟨_, rfl, ?_⟩⟩
    · exact show execArm q s = _ from runCmd_done hr hp (.inr halarm) (armBody_starts hi ha hm hl hc) (.inl (by decide))
    · exact show execStreamStart q s = _ from runCmd_done hr hp (.inr halarm) (armBody_starts hi ha hm hl hc) (.inl (by decide))
  · intro s q e g hi hok hg
    have hp := hgood hi hok hg
    refine ⟨fun halarm ha => ⟨fun hr => ?_, fun hr => ?_⟩, fun st halarm ha hm hc hok hstate hr => ?_, fun halarm => ⟨fun hr => ?_, fun hr => ?_⟩⟩
    · exact show execArm q s = _ from runCmd_done hr hp (.inr halarm) (armBody_busy hi ha) (.inl (by decide))
    · exact show execStreamStart q s = _ from runCmd_done hr hp (.inr halarm) (armBody_busy hi ha) (.inl (by decide))
    · exact show execArm q s = _ from runCmd_done hr hp (.inr halarm) (armBody_refused hi ha hm hc hok) (.inl hstate)
    · exact show execArm q s = _ from runCmd_denied hr hp rfl halarm
    · exact show execStreamStart q s = _ from runCmd_denied hr hp rfl halarm

end

/-! ### FORCE_TRIGGER (R149, R315) -/

/-- Settles O26: the force is judged at the stamp the group's logic processes, after the close that is due. -/
theorem forceTriggerCompletes : Obligations.ForceTriggerCompletes := by
  rintro s q e g t s1 s' hi rfl ht hr hp rfl
  subst hi ht
  refine ⟨fun hj ha => ?_, fun hj ha hw => ?_, fun hj ha hw => ?_, fun hj hs => ?_⟩
  · exact show execForceTrigger q s = _ from
      runCmd_done hr hp (.inl rfl) ((if_neg (by simp [hj])).trans (if_pos ha)) (.inl (by decide))
  · exact show execForceTrigger q s = _ from
      runCmd_done hr hp (.inl rfl) ((if_neg (by simp [hj])).trans ((if_neg (Bool.eq_false_iff.1 ha)).trans (if_pos hw))) (.inl (by decide))
  · exact show execForceTrigger q s = _ from
      runCmd_wait hr hp (.inl rfl) ((if_neg (by simp [hj])).trans ((if_neg (Bool.eq_false_iff.1 ha)).trans (if_neg (by simp [hw]))))
  · exact show execForceTrigger q s = _ from runCmd_done hr hp (.inl rfl) (if_pos (by simp [hj])) (.inr hs)

/-! ### STOP, ABORT and STREAM_STOP (R174, R176, R178, R199, R316) -/

section
variable {s : State} {g : Nat} {r : Run} {abort : Bool}

/-- A STOP or ABORT after another one, or after the acquisition has begun to end, changes nothing more. -/
theorem State.stopRun_again (h : (nth (s.closeDue g).rsv.grp g).run = some r) (hr : r.ending.isSome = true ∨ r.after.isSome = true) :
    s.stopRun g abort = s.closeDue g := by
  simp only [State.closeDue] at h ⊢
  simp [State.stopRun, State.stopAt, h, hr]

variable (h : (nth (s.closeDue g).rsv.grp g).run = some r) (he : r.ending = none) (ha : r.after = none)
include h he ha

/-- One that comes after the fill or frame has ended acts once that is stored (R174). -/
theorem State.stopRun_late (hf : ((s.closeDue g).abortForces g).fillEnded g = true) :
    s.stopRun g abort = ((s.closeDue g).abortForces g).updRun g
      (fun r => { r with after := some (if abort then .abort else .stop, s.now) }) := by
  simp only [State.closeDue] at h hf ⊢
  simp [State.stopRun, State.stopAt, h, he, ha, hf]

variable (hf : ((s.closeDue g).abortForces g).fillEnded g = false)
include hf

/-- STOP lets the fill that runs complete (R174). -/
theorem State.stopRun_filling (hst : (nth (s.closeDue g).trg.grp g).st = .postFill) :
    s.stopRun g false = (((s.closeDue g).abortForces g).updRun g (fun r => { r with stopping := true })).updTrg g
      (fun x => { x with seqWaitB := false, seqNb := 0, hoEnd := none, hoLeft := 0, held := 0 }) := by
  simp only [State.closeDue] at h hf hst ⊢
  simp [State.stopRun, State.stopAt, h, he, ha, hf, hst]

/-- STOP outside a fill closes capture, and the record being accumulated with it (R174, R199). -/
theorem State.stopRun_closes (hst : (nth (s.closeDue g).trg.grp g).st ≠ .postFill) :
    s.stopRun g false = ((if r.mode = 4 ∧ r.sweeps ≠ 0 then ((s.closeDue g).abortForces g).closeRecord g true
      else (s.closeDue g).abortForces g).updRun g
        (fun r => { r with ending := some .stop, endNow := s.now, closeAt := none, shut := none })).stopJudging g := by
  simp only [State.closeDue] at h hf hst ⊢
  simp [State.stopRun, State.stopAt, h, he, ha, hf, hst, b2n]

/-- ABORT closes capture and frees the open slot (R174, R178). -/
theorem State.stopRun_aborts :
    s.stopRun g true = (((s.closeDue g).abortForces g).updRun g (fun y =>
      { y with ending := some .abort, endNow := s.now, closeAt := none, shut := none,
               freed := y.freed + (if r.mode ≤ 1 ∧ (nth (s.closeDue g).trg.grp g).st = .postFill ∨
                 r.mode = 4 ∧ ((nth (s.closeDue g).trg.grp g).st = .postFill ∨ r.sweeps ≠ 0) ∨ r.mode = 3 ∧ r.dropping = false then 1 else 0) })).stopJudging
      g := by
  simp only [State.closeDue] at h hf ⊢
  simp [State.stopRun, State.stopAt, h, he, ha, hf, b2n, or_assoc]
  congr!

end

section
variable {s : State} {e : JEntry} {g : Nat} {r : Run} {bad : Run → Bool} {act : State → State} {accepted : Bool}

theorem stopBody_idle (hi : pktIndex e.pkt = g) (h : (nth s.rsv.grp g).run = none) :
    stopBody s e bad act accepted = .done s OK (zeros 13 ++ [1]) := by
  subst hi
  simp [stopBody, h, idleResult]

theorem stopBody_bad (hi : pktIndex e.pkt = g) (h : (nth s.rsv.grp g).run = some r) (hb : bad r = true) :
    stopBody s e bad act accepted = .done s STATE [] := by
  subst hi
  simp [stopBody, h, hb, refuse]

theorem stopBody_waits (hi : pktIndex e.pkt = g) (h : (nth s.rsv.grp g).run = some r) (hb : bad r = false) :
    stopBody s e bad act accepted = .wait (act s) (.ending g) (if accepted then some [] else none) := by
  subst hi
  simp [stopBody, h, hb]

end

section
variable {s t : State} {q : Nat} {e : JEntry} {g : Nat} {r : Run} (hi : pktIndex e.pkt = g) (hp : PktGood e [] (fun p => pktIndex p ≤ 31))
include hi hp

theorem execStop_waits (hr : CmdReady s q 0x22 e) (h : (nth s.rsv.grp g).run = some r) (hm : r.mode ≠ 3) (ht : s.stopRun g false = t) :
    execStop q s = .next (t.waitsFor e (.ending g) (some [])) := by
  subst ht hi
  exact runCmd_wait hr hp (.inl rfl) (stopBody_waits rfl h (beq_eq_false_iff_ne.2 hm))

theorem execAbort_waits (hr : CmdReady s q 0x23 e) (h : (nth s.rsv.grp g).run = some r) (ht : s.stopRun g true = t) :
    execAbort q s = .next (t.waitsFor e (.ending g) none) := by
  subst ht hi
  exact runCmd_wait hr hp (.inl rfl) (stopBody_waits rfl h rfl)

theorem execStreamStop_waits (hr : CmdReady s q 0x25 e) (h : (nth s.rsv.grp g).run = some r) (hm : r.mode = 3) (ht : s.stopStream g = t) :
    execStreamStop q s = .next (t.waitsFor e (.ending g) (some [])) := by
  subst ht hi
  exact runCmd_wait hr hp (.inl rfl) (stopBody_waits rfl h (by simp [hm]))

end

/-- A change of a run depends on the run alone. -/
theorem State.updRun_congr {s : State} {g : Nat} {r : Run} {f f' : Run → Run} (h : (nth s.rsv.grp g).run = some r) (hf : f r = f' r) :
    s.updRun g f = s.updRun g f' := by
  simp only [State.updRun, State.updRec]
  rw [upd_nth_congr (g := fun x => { x with run := x.run.map f' }) rfl (by simp [h, hf])]

/-- STREAM_STOP before the frame has ended, or after another command asked for the end, makes the frame that runs the last (R178). -/
theorem State.stopStream_now {s : State} {g : Nat} {r : Run} (h : (nth s.rsv.grp g).run = some r) (hr : s.fillEnded g = false ∨ r.after.isSome = true) :
    s.stopStream g = s.updRun g (fun r => { r with streamStop := true }) := by
  refine State.updRun_congr h (if_neg ?_)
  rcases hr with hr | hr
  · simp [hr]
  · simp [Option.isSome_iff_ne_none.1 hr]

/-- One that comes after the frame has ended acts once that is stored (R178). -/
theorem State.stopStream_late {s : State} {g : Nat} {r : Run} (h : (nth s.rsv.grp g).run = some r) (hf : s.fillEnded g = true) (ha : r.after = none) :
    s.stopStream g = s.updRun g (fun r => { r with after := some (.stop, s.now) }) :=
  State.updRun_congr h (if_pos (by simp [hf, ha]))

/-! ### ABORT_ALL (R296) -/

theorem State.abortAll_key {s : State} {v : Nat} (hd : s.domOn 45 = true) (hk : fld v 15 0 = 0xAB07) :
    s.abortAll v = (List.range 32).foldl (fun s g => s.stopRun g true) (s.updCp (fun c => { c with abortCnt := min 65535 (c.abortCnt + 1) })) := by
  simp [State.abortAll, hd, hk, forEach, satAdd]

theorem State.abortAll_ignored {s : State} {v : Nat} (h : s.domOn 45 = false ∨ fld v 15 0 ≠ 0xAB07) : s.abortAll v = s := by
  rcases h with h | h <;> simp [State.abortAll, h]

/-- Settles O28: what acts is what the run has come to when the command executes. -/
theorem stopAndAbortComplete : Obligations.StopAndAbortComplete := by
  refine ⟨fun s q e g hi hp => ⟨fun h => ⟨fun hr => ?_, fun hr => ?_, fun hr => ?_⟩, ?_, fun r h => ⟨fun hr hm hf => ?_, fun hr hm hf ha hg => ?_, fun hs =>
    ⟨fun hr hm => ?_, fun hr hm => ?_⟩⟩⟩, fun s v hd => ⟨fun hk => ?_, fun hk => ?_⟩, fun s v hd => ?_⟩
  · exact show execStop q s = _ from runCmd_done hr hp (.inl rfl) (stopBody_idle hi h) (.inl (by decide))
  · exact show execAbort q s = _ from runCmd_done hr hp (.inl rfl) (stopBody_idle hi h) (.inl (by decide))
  · exact show execStreamStop q s = _ from runCmd_done hr hp (.inl rfl) (stopBody_idle hi h) (.inl (by decide))
  · rintro r0 r s1 h0 h rfl
    refine ⟨fun hagain => ⟨fun hr hm => ?_, fun hr => ?_⟩, fun he ha hf => ⟨fun hr hm => ?_, fun hr => ?_⟩, fun he ha hf =>
      ⟨fun hr hm hst => ?_, fun s2 hs2 hr hm hst => ?_, fun hr => ?_⟩⟩
    · exact execStop_waits hi hp hr h0 hm (State.stopRun_again h hagain)
    · exact execAbort_waits hi hp hr h0 (State.stopRun_again h hagain)
    · exact execStop_waits hi hp hr h0 hm (State.stopRun_late h he ha hf)
    · exact execAbort_waits hi hp hr h0 (State.stopRun_late h he ha hf)
    · exact execStop_waits hi hp hr h0 hm (State.stopRun_filling h he ha hf hst)
    · subst hs2
      exact execStop_waits hi hp hr h0 hm (State.stopRun_closes h he ha hf hst)
    · exact execAbort_waits hi hp hr h0 (State.stopRun_aborts h he ha hf)
  · exact execStreamStop_waits hi hp hr h hm (State.stopStream_now h hf)
  · exact execStreamStop_waits hi hp hr h hm (State.stopStream_late h hf ha)
  · exact show execStop q s = _ from runCmd_done hr hp (.inl rfl) (stopBody_bad hi h (by simp [hm])) (.inr hs)
  · exact show execStreamStop q s = _ from runCmd_done hr hp (.inl rfl) (stopBody_bad hi h (by simp [hm])) (.inr hs)
  · exact congrArg Host.Outcome.next (State.abortAll_key (s := s.tlp) hd hk)
  · exact congrArg Host.Outcome.next (State.abortAll_ignored (s := s.tlp) (.inr hk))
  · exact congrArg Host.Outcome.next (State.abortAll_ignored (s := s.tlp) (.inl hd))

/-! ### RECORD_RELEASE and RECORD_QUERY (R184, R318, R319) -/

section
variable {s : State} {g acq first count : Nat} {a : AcqRec}

theorem State.tryRelease_ended (h : s.rsv.find g acq = some a) (ha : a.active = false) :
    s.tryRelease g acq first count = some (s.releaseSegs a (fun n => first ≤ n && n < first + count),
      a.segs.countP (fun x => first ≤ x.num && x.num < first + count)) := by
  simp [State.tryRelease, h, State.reached, ha]

theorem State.tryRelease_gone (h : s.rsv.find g acq = none) (hn : acq ≤ (nth s.rsv.grp g).acqNum) : s.tryRelease g acq first count = some (s, 0) := by
  simp [State.tryRelease, h, Nat.not_lt.2 hn]

theorem State.tryRelease_notBegun (h : s.rsv.find g acq = none) (hn : (nth s.rsv.grp g).acqNum < acq) : s.tryRelease g acq first count = none := by
  simp [State.tryRelease, h, hn]

theorem State.tryRelease_open {k : Nat} (h : s.rsv.find g acq = some a) (hk : s.reached a = some k) (hlt : k < first + count) :
    s.tryRelease g acq first count = none := by
  simp [State.tryRelease, h, hk, hlt]

end

/-- The check of RECORD_RELEASE on its packet (R318). -/
def releaseOk (p : Packet) : Bool := pktIndex p ≤ 31 && 1 ≤ rd p 24 4 && rd p 24 4 ≤ 16777216

section
variable {s : State} {q : Nat} {e : JEntry} (hr : CmdReady s q 0x28 e) (hp : PktGood e [(16, 4), (20, 4), (24, 4)] releaseOk)
include hr hp

theorem execRecordRelease_done {t : State} {n : Nat} (h : s.tryRelease (pktIndex e.pkt) (rd e.pkt 16 4) (rd e.pkt 20 4) (rd e.pkt 24 4) = some (t, n)) :
    execRecordRelease q s = .next (t.finish e.idx OK (leBytes 4 n ++ leBytes 4 (rd e.pkt 24 4 - n))) :=
  runCmd_done hr hp (.inl rfl) (by simp only [h]) (.inl (by decide))

theorem execRecordRelease_refused (h : s.tryRelease (pktIndex e.pkt) (rd e.pkt 16 4) (rd e.pkt 20 4) (rd e.pkt 24 4) = none)
    (hs : s.pwr.starting = false) : execRecordRelease q s = .next (s.finish e.idx STATE []) :=
  runCmd_done hr hp (.inl rfl) (by simp only [h, refuse]) (.inr hs)

end

section
variable {s : State} {q : Nat} {e : JEntry} (hr : CmdReady s q 0x29 e) (hok : pktOk e.pkt [(16, 4), (20, 4), (24, 4), (48, 16)] = true)
  (hb : bulkOk e.pkt = true)
include hr hok hb

/-- RECORD_QUERY of the directory's acquisitions (R319). -/
theorem execRecordQuery_directory {w : Bool} {t : State} {all : List AcqRec} (ha : rd e.pkt 16 4 = 0) (hz : rd e.pkt 20 8 = 0)
    (hg : pktIndex e.pkt ≤ 31 ∨ pktIndex e.pkt = 255)
    (hall : all = (s.rsv.dir.filter (fun a => pktIndex e.pkt == 255 || a.group == pktIndex e.pkt)).take (bulkLen e.pkt / 32))
    (hw : ∀ k, withReport s e w (all.flatMap AcqRec.entry) k = k t) :
    execRecordQuery q w s = .next (t.finish e.idx OK (leBytes 4 all.length ++ leBytes 4 (all.map AcqRec.unrel).sum ++
      leBytes 4 ((all.map (fun a => a.segs.countP (fun x => x.st == .lost))).sum))) := by
  subst hall
  refine runCmd_done hr ⟨hok, ?_⟩ (.inl rfl) ?_ (.inl (by decide))
  · rcases hg with hg | hg <;> simp [hb, ha, hz, hg]
  · simp only [ha, hw, if_true]

/-- RECORD_QUERY of one acquisition's segments (R319). -/
theorem execRecordQuery_segments {t : State} {n : Nat} {cs : List Nat} (ha : rd e.pkt 16 4 ≠ 0) (hg : pktIndex e.pkt ≤ 31)
    (hn : n = min (rd e.pkt 24 4) (4 * bulkLen e.pkt))
    (hcs : cs = (List.range n).map (fun j => s.segCode (s.rsv.find (pktIndex e.pkt) (rd e.pkt 16 4)) (rd e.pkt 20 4 + j)))
    (hw : ∀ k, withReport s e true (packCodes cs) k = k t) :
    execRecordQuery q true s = .next (t.finish e.idx OK
      (leBytes 4 n ++ leBytes 4 (cs.countP (fun c => c == 1 || c == 3)) ++ leBytes 4 (cs.countP (· == 3)))) := by
  subst hcs hn
  refine runCmd_done hr ⟨hok, ?_⟩ (.inl rfl) ?_ (.inl (by decide))
  · simp [hb, ha, hg]
  · simp only [ha, hw, if_false]

end

theorem AcqRec.entries_ne_nil {all : List AcqRec} (h : all ≠ []) : all.flatMap AcqRec.entry ≠ [] := by
  obtain ⟨a, r, rfl⟩ := List.exists_cons_of_ne_nil h
  simp [AcqRec.entry, leBytes]

/-- Settles O29: a release answers by what the directory holds of its acquisition, and a query writes and counts what it finds there. -/
theorem recordCommandsComplete : Obligations.RecordCommandsComplete := by
  rintro s q e g acq first count rfl rfl rfl rfl
  refine ⟨fun hr hp => ⟨fun a h ha => ?_, fun h hn => ?_, fun h hn hs => ?_, fun a k h hk hlt hs => ?_⟩, fun all w hr hok hb ha hz hg hlen hall => ?_,
    fun all hr hok hb ha hz hg hbus hall hne => ?_, fun n cs hr hok hb ha hg hn hcs hbus hne => ?_⟩
  · exact execRecordRelease_done hr hp (State.tryRelease_ended h ha)
  · exact execRecordRelease_done hr hp (State.tryRelease_gone h hn)
  · exact execRecordRelease_refused hr hp (State.tryRelease_notBegun h hn) hs
  · exact execRecordRelease_refused hr hp (State.tryRelease_open h hk hlt) hs
  · exact execRecordQuery_directory (all := []) hr hok hb ha hz hg (by simp [hlen]) (withReport_nil s e w)
  · exact execRecordQuery_directory hr hok hb ha hz hg hall fun k => withReport_written (AcqRec.entries_ne_nil hne) hbus
  · exact execRecordQuery_segments hr hok hb ha hg hn hcs fun k => withReport_written hne hbus

end Sys2Proof.Machine
end


-- ==== Sys2Proof/Proofs/Records.lean ====
section
/-! PROOFS. The record side of a start, of an accepted trigger and of a completed segment (R145 to R149, R166, R171 to R179, R194 to R199). -/

namespace Sys2Proof.Machine

/-! ### What a start leaves alone -/

/-- What the record side and the commit units hold of the state: what most operations on channels, triggers and memory leave alone. -/
def State.records (s : State) : List RsvGrp × List AcqRec × List (Nat × Word) × Cp × List CUnit := (s.rsv.grp, s.rsv.dir, s.cfg, s.cp, s.units)

theorem State.records_fields {s : State} {grp : List RsvGrp} {dir : List AcqRec} {cfg : List (Nat × Word)} {cp : Cp} {units : List CUnit}
    (h : s.records = (grp, dir, cfg, cp, units)) : s.rsv.grp = grp ∧ s.rsv.dir = dir ∧ s.cfg = cfg ∧ s.cp = cp ∧ s.units = units := by
  simpa [State.records] using h

theorem State.records_inj {s t : State} (h : s.records = t.records) :
    s.rsv.grp = t.rsv.grp ∧ s.rsv.dir = t.rsv.dir ∧ s.cfg = t.cfg ∧ s.cp = t.cp ∧ s.units = t.units :=
  State.records_fields h

section
variable (s : State)

@[simp] theorem State.undefine_records (a n : Nat) : (s.undefine a n).records = s.records := rfl
@[simp] theorem State.captures_records : s.captures.records = s.records := rfl
@[simp] theorem State.updSnd_records (g : Nat) (f : SndGrp → SndGrp) : (s.updSnd g f).records = s.records := rfl
@[simp] theorem State.slewSettle_records : s.slewSettle.records = s.records := rfl

@[simp] theorem State.startPond_records (l : Layout) : (s.startPond l).records = s.records := by
  unfold State.startPond
  split
  · rfl
  · exact forEach_proj State.records (by intros; rfl) ..

theorem State.newPeriods_records (ns : List Nat) : (forEach ns s State.newPeriod).records = s.records :=
  forEach_proj State.records (by intros; rfl) ..

@[simp] theorem State.openSlot_records (g acq j : Nat) : (s.openSlot g acq j).records = s.records := by
  unfold State.openSlot; split <;> rfl

end

/-! ### The next segment opens (R172, R194, R196) -/

/-- A group's record state once its next segment opens for samples from t on, or waits for its slot. -/
def RsvGrp.opened (x : RsvGrp) (t : Nat) (free : Bool) : RsvGrp :=
  { x with run := x.run.map (fun r => { r with openT := t, waited := if free then r.waited else true }),
           waitFullCnt := if free then x.waitFullCnt else satAdd 0xFFFFFFFF x.waitFullCnt 1 }

theorem State.openSeg_records {s : State} {g : Nat} {r : Run} (h : (nth s.rsv.grp g).run = some r) (t : Nat) :
    (s.openSeg g t).records = (upd s.rsv.grp g (fun x => x.opened t (s.slotFree g r)), s.rsv.dir, s.cfg, s.cp, s.units) := by
  have hslot : ∀ (c : Prop) [Decidable c] (v : State) (acq j : Nat), (if c then v.openSlot g acq j else v).records = v.records := by
    intros; split <;> simp
  simp only [State.openSeg, h]
  split <;> rename_i hf
  · rw [hslot]
    simp [State.records, State.updRun, State.updRec, State.updTrg, State.updSnd, RsvGrp.opened, hf]
  · simp [State.records, State.updRun, State.updRec, State.updTrg, State.updSnd, upd_upd, RsvGrp.opened, hf]

/-! ### The start of an acquisition (R38, R183, R314) -/

/-- A group's record state at the start of an acquisition. -/
def RsvGrp.started (x : RsvGrp) (l : Layout) (r : Run) : RsvGrp :=
  { x with run := some r, acqNum := r.acqNum, segsDone := 0, slots := l.slots, nextSlot := 0, dropped := 0, waitFullCnt := 0 }

/-- The directory entry of an acquisition that starts. -/
def Layout.entry (l : Layout) (g acq : Nat) : AcqRec :=
  { group := g, acqNum := acq, mode := l.mode, rgnBase := l.base, descBase := l.desc, slots := l.slots,
    slotBlocks := l.members.length * l.area, rgnBlocks := l.rgn, descSlots := l.descSlots }

/-- The run of an acquisition that starts now under a layout, with group g's next ACQ_NUM. -/
def State.firstRun (s : State) (g : Nat) (l : Layout) (tag : Option Nat) : Run :=
  { acqNum := if (nth s.rsv.grp g).acqNum = 0xFFFFFFFF then 1 else (nth s.rsv.grp g).acqNum + 1, mode := l.mode, members := l.members, area := l.area,
    slots := l.slots, pre := if l.mode = 3 then 0 else l.pre, post := if l.mode = 3 then l.frame else l.post,
    segCount := if l.mode = 0 then 1 else s.reg (recA g 0xC), tag := tag, openT := 4096 * s.now }

/-- A start arms the group with a run of the layout, and then opens its first segment or slot. -/
theorem State.startRun_eq (s : State) (g : Nat) (l : Layout) (tag : Option Nat) :
    ∃ t : State, t.records = (upd s.rsv.grp g (fun x => x.started l (s.firstRun g l tag)),
        s.rsv.dir ++ [l.entry g (s.firstRun g l tag).acqNum], s.cfg, s.cp, s.units) ∧
      s.startRun g l tag = if l.mode = 2 || l.mode = 3 then t.openSlot g (s.firstRun g l tag).acqNum 0 else t.openSeg g (4096 * t.now) := by
  have hpre : (((forEach (s.unitChans g) s.slewSettle State.newPeriod).startPond l).captures).records = s.records := by
    simp [State.newPeriods_records]
  refine ⟨_, ?_, rfl⟩
  obtain ⟨hgrp, hdir, hcfg, hcp, hunits⟩ := State.records_inj hpre
  simp [State.records, State.updRec, State.updRsv, State.updTrg, State.updSnd, hgrp, hdir, hcfg, hcp, hunits, RsvGrp.started, Layout.entry, State.firstRun]

/-- Settles O25: the run and the entry that a start makes are those of the layout, and the opening of the first segment leaves them. -/
theorem startOpensTheAcquisition : Obligations.StartOpensTheAcquisition := by
  intro s g l tag hg
  obtain ⟨t, ht, hstart⟩ := State.startRun_eq s g l tag
  obtain ⟨hgrp, hdir, hcfg, hcp, hunits⟩ := State.records_fields ht
  have hself : nth t.rsv.grp g = (nth s.rsv.grp g).started l (s.firstRun g l tag) := by rw [hgrp, nth_upd_self _ hg]
  have hother : ∀ h, h ≠ g → nth t.rsv.grp h = nth s.rsv.grp h := fun h hne => by rw [hgrp, nth_upd_of_ne _ hne]
  have hlen : g < t.rsv.grp.length := by rw [hgrp, upd_length]; exact hg
  rw [hstart]
  split
  · obtain ⟨hgrp', hdir', hcfg', hcp', hunits'⟩ := State.records_inj (State.openSlot_records t g (s.firstRun g l tag).acqNum 0)
    rw [hgrp', hdir', hcfg', hcp', hunits', hself]
    exact ⟨_, rfl, rfl, rfl, rfl, rfl, rfl, rfl, rfl, rfl, rfl, hother, hdir, hcfg, hcp, hunits⟩
  · have hopen := State.openSeg_records (r := s.firstRun g l tag) (by rw [hself]; rfl) (4096 * t.now)
    obtain ⟨hgrp', hdir', hcfg', hcp', hunits'⟩ := State.records_fields hopen
    have hself' : nth (t.openSeg g (4096 * t.now)).rsv.grp g = ((nth s.rsv.grp g).started l (s.firstRun g l tag)).opened (4096 * t.now) (t.slotFree g (s.firstRun g l tag)) := by
      rw [hgrp', nth_upd_self _ hlen, hself]
    rw [hself', hdir', hcfg', hcp', hunits']
    exact ⟨_, rfl, rfl, rfl, rfl, rfl, rfl, rfl, rfl, rfl, rfl, fun h hne => by rw [hgrp', nth_upd_of_ne _ hne, hother h hne],
      hdir, hcfg, hcp, hunits⟩

/-! ### The directory (R175, R184) -/

/-- A change of an acquisition's entry that keeps its name changes what the directory holds under that name. -/
theorem State.find_updDir (s : State) (g acq : Nat) {f : AcqRec → AcqRec} (hf : ∀ a, (f a).group = a.group ∧ (f a).acqNum = a.acqNum) :
    (s.updDir g acq f).rsv.find g acq = (s.rsv.find g acq).map f := by
  have hname : ∀ a : AcqRec, ((if a.group = g && a.acqNum = acq then f a else a).group == g && (if a.group = g && a.acqNum = acq then f a else a).acqNum == acq) =
      (a.group == g && a.acqNum == acq) := by
    intro a; obtain ⟨hg, ha⟩ := hf a
    split <;> simp [hg, ha]
  have hpick : ∀ a : AcqRec, (a.group == g && a.acqNum == acq) = true → (if a.group = g && a.acqNum = acq then f a else a) = f a := by
    intro a ha; simp at ha; simp [ha]
  simp only [Rsv.find, State.updDir, State.updRsv_rsv, List.find?_map, Function.comp_def, hname]
  cases h : s.rsv.dir.find? (fun a => a.group == g && a.acqNum == acq) with
  | none => rfl
  | some a => simp only [Option.map_some, hpick a (List.find?_some (p := fun a : AcqRec => a.group == g && a.acqNum == acq) h)]

/-! ### A segment completes (R173, R175) -/

section
variable (s : State) (g acq : Nat) (x : Seg)

@[simp] theorem State.segDone_rsv : (s.segDone g acq x).rsv = s.rsv := by unfold State.segDone; dsimp only; split <;> simp
@[simp] theorem State.segDone_cfg : (s.segDone g acq x).cfg = s.cfg := by unfold State.segDone; dsimp only; split <;> simp
@[simp] theorem State.segDone_units : (s.segDone g acq x).units = s.units := by unfold State.segDone; dsimp only; split <;> simp

end

/-- The entry of an acquisition whose queued segment x has become complete. -/
def AcqRec.completed (a : AcqRec) (x : Seg) : AcqRec :=
  { a with segs := a.segs.map (fun y => if y.num = x.num then { y with st := .complete } else y), done := satAdd 0xFFFFFFFF a.done 1 }

theorem State.completeSeg_queued {s : State} {g : Nat} {r : Run} {a : AcqRec} {x : Seg} (ha : s.rsv.find g r.acqNum = some a)
    (hx : a.segs.find? (fun x => x.st == .queued) = some x) :
    s.completeSeg g r = ((s.updDir g r.acqNum (fun a => a.completed x)).updRec g
      (fun y => { y with segsDone := satAdd 0xFFFFFFFF y.segsDone 1 })).segDone g r.acqNum x := by
  simp only [State.completeSeg, ha, Option.bind_some, hx]
  rfl

/-! ### Write-outs -/

section
variable {s : State} {g : Nat} {r : Run} {a : AcqRec} {w : WriteOut} {rest : List WriteOut}
  (h : (nth s.rsv.grp g).run = some r) (ha : s.rsv.find g r.acqNum = some a) (hw : r.writeout = w :: rest)
include h ha hw

/-- While other write-outs wait, the members' banks stay in use (R196, R199). -/
theorem State.writeoutDone_more (hrest : rest ≠ []) : s.writeoutDone g =
    (((s.storeRecord r w).putDesc (a.descBase + w.num % r.slots) w.desc).updRun g (fun r => { r with writeout := rest })).completeSeg g r := by
  simp [State.writeoutDone, h, ha, hw, hrest]

theorem State.writeoutDone_last (hrest : rest = []) : s.writeoutDone g =
    (r.members.foldl (fun s n => s.updPondCh n (fun x => { x with writeout := false }))
      (((s.storeRecord r w).putDesc (a.descBase + w.num % r.slots) w.desc).updRun g (fun r => { r with writeout := rest }))).completeSeg g r := by
  simp [State.writeoutDone, h, ha, hw, hrest, forEach]

end

/-! ### The ends of fills, frames and acquisitions -/

/-- No boundary, STOP or ABORT has come between the end of the fill and its row: the fill is stored, and nothing else. -/
theorem State.fillDone_plain {s : State} {g : Nat} {r : Run} {a : AcqRec} {t : TrigInfo} {ps : List Part} (hc : r.cut = none) (haft : r.after = none) :
    s.fillDone g r a t ps = (s.under (r.openT / 4096) (fun v => if r.mode = 4 then v.fillSweep g r t ps else v.fillSegment g r a t ps)).updRun g
      (fun r => { r with cut := none, after := none }) := by
  unfold State.fillDone
  rw [hc]
  dsimp only
  rw [haft]

section
variable {s0 s : State} {g : Nat} {feeds : List Feed} {r : Run} {a : AcqRec} (hs : s = s0.take feeds) (h : (nth s.rsv.grp g).run = some r)
  (ha : s.rsv.find g r.acqNum = some a)
include hs h ha

theorem execPostFillEnd_stores {v : State} {t : TrigInfo} {ps : List Part} (hv : v = s.asOf (r.openT / 4096)) (ht : r.trig = some t)
    (hst : (nth s.trg.grp g).st = .postFill) (hend : s.fillEnded g = true) (hj : s.fillJudged g = true)
    (hps : v.parts (r.members.filter v.produces) (fun n => (v.trigSample n t.t - r.pre * v.perBlock n, (r.pre + r.post) * v.perBlock n)) = some ps) :
    execPostFillEnd g feeds s0 = .next (s.fillDone g r a t ps) := by
  subst hv
  unfold execPostFillEnd
  rw [← hs]
  dsimp only
  rw [h]
  dsimp only
  rw [ht, ha]
  dsimp only
  rw [if_neg (by simp [hst, hend, hj]), hps]

section
variable {last : Nat} (hm : r.mode = 3) (he : r.ending = none) (hlast : s.fillLast g = some last) (hlt : last < 4096 * s.now) (hj : s.fillJudged g = true)
include hm he hlast hlt hj

theorem execStreamFrameEnd_drops (hd : r.dropping = true) : execStreamFrameEnd g feeds s0 = .next (s.frameDone g r) := by
  unfold execStreamFrameEnd
  rw [← hs]
  dsimp only
  rw [h]
  dsimp only
  rw [ha, hlast]
  dsimp only
  rw [if_neg (by simp [hm, he, Nat.not_le.2 hlt, hj]), if_pos hd]

theorem execStreamFrameEnd_stores {v : State} {ps : List Part} (hv : v = s.asOf (r.openT / 4096)) (hd : r.dropping = false)
    (hps : v.parts (r.members.filter v.produces) (fun n => (v.countLt n r.openT, r.post * v.perBlock n)) = some ps) :
    execStreamFrameEnd g feeds s0 = .next ((s.under (r.openT / 4096) (fun v => v.storeFrame g r a ps)).frameDone g r) := by
  subst hv
  unfold execStreamFrameEnd
  rw [← hs]
  dsimp only
  rw [h]
  dsimp only
  rw [ha, hlast]
  dsimp only
  rw [if_neg (by simp [hm, he, Nat.not_le.2 hlt, hj]), if_neg (by simp [hd]), hps]

end
end

section
variable {s0 s : State} {g : Nat} {feeds : List Feed} {r : Run} {a : AcqRec} {why : EndReason} (hs : s = (s0.take feeds).closeDue g)
  (h : (nth s.rsv.grp g).run = some r) (ha : s.rsv.find g r.acqNum = some a) (he : r.ending = some why)
include hs h ha he

theorem execAcquisitionEnded_drained (hm : r.mode ≠ 2) (hw : why ≠ .complete) (hd : s.drainedAcq g r = true) :
    execAcquisitionEnded g feeds s0 = .next (s.endAcq g why) := by
  unfold execAcquisitionEnded
  rw [← hs]
  dsimp only
  rw [h]
  dsimp only
  rw [he, ha]
  dsimp only
  rw [if_neg hm, if_pos (by simp [hw, hd])]

theorem execAcquisitionEnded_roll {ps : List Part} (hm : r.mode = 2) (hps : s.rollParts r = some ps) :
    execAcquisitionEnded g feeds s0 = .next (((s.storeRoll g r a ps).completeSeg g r).endAcq g why) := by
  unfold execAcquisitionEnded
  rw [← hs]
  dsimp only
  rw [h]
  dsimp only
  rw [he, ha]
  dsimp only
  rw [if_pos hm, hps]

end

/-- Settles O34: each row stores what the members' samples make of its fill, frame, record or ring, and a completed segment is one entry's and one
group's change. -/
theorem fillsAndFramesComplete : Obligations.FillsAndFramesComplete := by
  unfold Obligations.FillsAndFramesComplete
  refine ⟨?_, ?_, ?_, ?_⟩
  · intro s0 s g feeds r a v hs h ha hv
    refine ⟨?_, ?_⟩
    · intro t ps ht hst hend hj hps
      exact ⟨show execPostFillEnd g feeds s0 = _ from execPostFillEnd_stores hs h ha hv ht hst hend hj hps, fun hc haft => State.fillDone_plain hc haft⟩
    · intro last hm he hlast hlt hj
      exact ⟨fun hd => show execStreamFrameEnd g feeds s0 = _ from execStreamFrameEnd_drops hs h ha hm he hlast hlt hj hd,
        fun ps hd hps => show execStreamFrameEnd g feeds s0 = _ from execStreamFrameEnd_stores hs h ha hm he hlast hlt hj hv hd hps⟩
  · intro s g r a h ha
    refine ⟨fun hm => ?_, fun hm => ?_, fun w rest t hc hw ht => ⟨fun hrest => ?_, fun hrest => ?_⟩⟩
    · exact show execSegmentComplete g s = _ by simp [execSegmentComplete, h, hm]
    · exact show execSegmentComplete g s = _ by simp [execSegmentComplete, h, hm]
    · subst ht
      exact show execAvgWriteoutDone g s = _ by rw [execAvgWriteoutDone, hc, State.writeoutDone_more h ha hw hrest]
    · subst ht
      exact show execAvgWriteoutDone g s = _ by rw [execAvgWriteoutDone, hc, State.writeoutDone_last h ha hw hrest]
  · intro s0 s g feeds r a why hs h ha he
    exact ⟨fun hm hw hd => show execAcquisitionEnded g feeds s0 = _ from execAcquisitionEnded_drained hs h ha he hm hw hd,
      fun ps hm hps => show execAcquisitionEnded g feeds s0 = _ from execAcquisitionEnded_roll hs h ha he hm hps⟩
  · intro s g r a x hg ha hx
    rw [State.completeSeg_queued ha hx]
    simp only [State.segDone_rsv, State.segDone_cfg, State.segDone_units]
    refine ⟨⟨a.completed x, ?_, rfl, rfl⟩, ?_, fun k hne => ?_, rfl, rfl⟩
    · refine (State.find_updDir s g r.acqNum (f := fun a => a.completed x) fun a => ⟨rfl, rfl⟩).trans ?_
      rw [ha]; rfl
    · exact congrArg RsvGrp.segsDone (nth_upd_self (fun y : RsvGrp => { y with segsDone := satAdd 0xFFFFFFFF y.segsDone 1 }) hg)
    · exact nth_upd_of_ne (fun y : RsvGrp => { y with segsDone := satAdd 0xFFFFFFFF y.segsDone 1 }) hne

end Sys2Proof.Machine
end


-- ==== Sys2Proof/Proofs/Judging.lean ====
section
/-! PROOFS. Triggers judged (R145 to R149), the start of acceptance (R38, R146, R172), and what TRIG_IN and the group's logic do (R135, R141, R147,
R153, R157). -/

namespace Sys2Proof.Machine

/-- Steps that each put one part of the state put that part, all of them together. -/
theorem forEach_frame {α β : Type} {put : State → β → State} (hput : ∀ s b c, put (put s b) c = put s c) (hself : ∀ s, ∃ b, s = put s b)
    {f : State → α → State} (hf : ∀ s a, ∃ b, f s a = put s b) (xs : List α) (s : State) : ∃ b, forEach xs s f = put s b := by
  unfold forEach
  induction xs generalizing s with
  | nil => exact hself s
  | cons a r ih =>
    obtain ⟨b, hb⟩ := hf s a
    obtain ⟨c, hc⟩ := ih (f s a)
    exact ⟨c, by rw [List.foldl_cons, hc, hb, hput]⟩

/-! ### What an accepted trigger sends out -/

/-- A group's trigger state but for what its inbox holds and for the events that came too late for it. -/
def TrgGrp.judged (x : TrgGrp) : TrgGrp := { x with inbox := [], bevLate := 0 }

section
variable (s : State)

theorem State.pushSweeps_frame (g t : Nat) : s.pushSweeps g t = { s with pond := (s.pushSweeps g t).pond } := by
  unfold State.pushSweeps forEach
  generalize List.filter _ _ = ns
  induction ns generalizing s with
  | nil => rfl
  | cons n r ih => rw [List.foldl_cons, ih]; rfl

/-- Pulses are the outputs' alone (R156). -/
theorem State.outPulse_frame (g what t step3 : Nat) : ∃ out, s.outPulse g what t step3 = { s with trg := { s.trg with out := out } } := by
  unfold State.outPulse
  refine forEach_frame (put := fun s out => { s with trg := { s.trg with out := out } }) (fun _ _ _ => rfl) (fun s => ⟨s.trg.out, rfl⟩) ?_ ..
  intro s i
  dsimp only
  repeat' split
  all_goals exact ⟨_, rfl⟩

@[simp] theorem State.outPulse_rsv (g what t step3 : Nat) : (s.outPulse g what t step3).rsv = s.rsv := by
  obtain ⟨out, h⟩ := s.outPulse_frame g what t step3; rw [h]
@[simp] theorem State.outPulse_grp (g what t step3 : Nat) : (s.outPulse g what t step3).trg.grp = s.trg.grp := by
  obtain ⟨out, h⟩ := s.outPulse_frame g what t step3; rw [h]
@[simp] theorem State.outPulse_cfg (g what t step3 : Nat) : (s.outPulse g what t step3).cfg = s.cfg := by
  obtain ⟨out, h⟩ := s.outPulse_frame g what t step3; rw [h]
@[simp] theorem State.outPulse_regB (g what t step3 a i : Nat) : (s.outPulse g what t step3).regB a i = s.regB a i := by
  simp [State.regB, State.reg]

@[simp] theorem State.log_rsv (cls blk code inst detail : Nat) : (s.log cls blk code inst detail).rsv = s.rsv := by
  unfold State.log; rw [State.logK_frame]
@[simp] theorem State.log_trg (cls blk code inst detail : Nat) : (s.log cls blk code inst detail).trg = s.trg := by
  unfold State.log; rw [State.logK_frame]

@[simp] theorem State.bevQueue_rsv (p : Nat) (e : BevEvent) : (s.bevQueue p e).rsv = s.rsv := by unfold State.bevQueue; split <;> simp
@[simp] theorem State.bevQueue_trg (p : Nat) (e : BevEvent) : (s.bevQueue p e).trg = s.trg := by unfold State.bevQueue; split <;> simp

@[simp] theorem State.bevDeliver_rsv (line : Nat) (t : Int) (arrival : Nat) : (s.bevDeliver line t arrival).rsv = s.rsv := by
  unfold State.bevDeliver
  refine forEach_proj State.rsv ?_ ..
  intro s g
  repeat' split
  all_goals rfl

/-- An event on a line reaches the groups' inboxes, or is late for them, and nothing else of their trigger state. -/
theorem State.bevDeliver_judged (line : Nat) (t : Int) (arrival h : Nat) :
    (nth (s.bevDeliver line t arrival).trg.grp h).judged = (nth s.trg.grp h).judged := by
  have hupd : ∀ (s : State) (g : Nat) (f : TrgGrp → TrgGrp), (∀ x, (f x).judged = x.judged) →
      (nth (s.updTrg g f).trg.grp h).judged = (nth s.trg.grp h).judged := fun s g f hf => nth_upd_proj hf s.trg.grp g h
  unfold State.bevDeliver
  refine forEach_proj (fun s => (nth s.trg.grp h).judged) ?_ ..
  intro s g
  repeat' split
  · rfl
  · exact hupd _ _ _ fun _ => rfl
  · rfl
  · exact hupd _ _ _ fun _ => rfl

@[simp] theorem State.bevOriginate_rsv (line t dec back : Nat) : (s.bevOriginate line t dec back).rsv = s.rsv := by
  unfold State.bevOriginate
  rw [State.bevDeliver_rsv, forEach_proj State.rsv]
  · rfl
  · intro s p; split <;> simp

theorem State.bevOriginate_judged (line t dec back h : Nat) :
    (nth (s.bevOriginate line t dec back).trg.grp h).judged = (nth s.trg.grp h).judged := by
  unfold State.bevOriginate
  rw [State.bevDeliver_judged, forEach_proj State.trg]
  · rfl
  · intro s p; split <;> simp

end

/-! ### An accepted trigger (R145, R146, R148) -/

/-- The run whose segment, sweep or frame takes an accepted trigger. -/
def Run.accepts (info : TrigInfo) (r : Run) : Run :=
  if r.mode = 3 then { r with trig := some (r.trig.getD info), accTimes := r.accTimes ++ [info.t] }
  else if r.mode = 4 then { r with trig := some info, heldSum := r.heldSum + info.held, accTimes := r.accTimes ++ [info.t] }
  else { r with trig := some info, accTimes := [info.t] }

/-- The run that logs a judged trigger (R147). -/
def Run.logs (t : Nat) (accepted : Bool) (r : Run) : Run :=
  if accepted && r.mode < 3 then r
  else if r.log.length < 16 then { r with log := r.log ++ [(t, accepted)] } else { r with logDropped := true }

theorem Run.logs_trig (t : Nat) (accepted : Bool) (r : Run) : (r.logs t accepted).trig = r.trig := by unfold Run.logs; repeat' split
                                                                                                      all_goals rfl
theorem Run.logs_accTimes (t : Nat) (accepted : Bool) (r : Run) : (r.logs t accepted).accTimes = r.accTimes := by unfold Run.logs; repeat' split
                                                                                                                  all_goals rfl

/-- What the group knows of the trigger it accepts at t. -/
def State.trigInfo (s : State) (g t src : Nat) : TrigInfo :=
  { t := t, src := src, held := (nth s.trg.grp g).held, hoMode := s.regF (trgA g 0) 1 0 }

/-- The group's trigger state after an accepted trigger (R145, R146, R148). -/
def State.trigTaken (s : State) (g t src : Nat) (x : TrgGrp) : TrgGrp :=
  { x with accCnt := satAdd 0xFFFFFFFF x.accCnt 1, lastTb := s.trigTb g t, lastFrac := t % 4096, lastSrc := src, hoMode := s.regF (trgA g 0) 1 0,
           hoEnd := some (t + 4096 * (s.reg (trgA g 4) + 2 ^ 32 * s.regF (trgA g 8) 8 0)), hoLeft := s.reg (trgA g 0xC), held := 0,
           st := if x.st == .streaming then .streaming else .postFill, openAt := if x.st == .streaming then x.openAt else none }

theorem State.acceptTrig_rsv (s : State) (g t src dec back : Nat) :
    (s.acceptTrig g t src dec back).rsv = ((s.updRun g (Run.accepts (s.trigInfo g t src))).updRun g (Run.logs t true)).rsv := by
  have horig : ∀ (c : Prop) [Decidable c] (v : State) (line : Nat), (if c then v.bevOriginate line t dec back else v).rsv = v.rsv := by
    intros; split <;> simp
  unfold State.acceptTrig
  dsimp only
  rw [horig, State.outPulse_rsv, State.updTrg_rsv, State.pushSweeps_frame]
  rfl

theorem State.acceptTrig_trg {s : State} {g : Nat} (hg : g < s.trg.grp.length) (t src dec back : Nat) :
    (nth (s.acceptTrig g t src dec back).trg.grp g).judged = (s.trigTaken g t src (nth s.trg.grp g)).judged := by
  have horig : ∀ (c : Prop) [Decidable c] (v : State) (line : Nat),
      (nth (if c then v.bevOriginate line t dec back else v).trg.grp g).judged = (nth v.trg.grp g).judged := by
    intros; split
    · exact State.bevOriginate_judged ..
    · rfl
  unfold State.acceptTrig
  dsimp only
  rw [horig, State.outPulse_grp, State.updTrg_trg, State.pushSweeps_frame]
  exact congrArg TrgGrp.judged (nth_upd_self (s.trigTaken g t src) hg)

/-- The run of a group that accepts a trigger. -/
theorem State.acceptTrig_run {s : State} {g : Nat} {r : Run} (hg : g < s.rsv.grp.length) (h : (nth s.rsv.grp g).run = some r)
    (t src dec back : Nat) : (nth (s.acceptTrig g t src dec back).rsv.grp g).run = some ((r.accepts (s.trigInfo g t src)).logs t true) := by
  rw [State.acceptTrig_rsv]
  simp only [State.updRun, State.updRec, upd_upd]
  rw [nth_upd_self _ hg, h]
  rfl

theorem State.acceptTrig_other (s : State) {g h : Nat} (hne : h ≠ g) (t src dec back : Nat) :
    nth (s.acceptTrig g t src dec back).rsv.grp h = nth s.rsv.grp h := by
  rw [State.acceptTrig_rsv]
  simp only [State.updRun, State.updRec, upd_upd]
  rw [nth_upd_of_ne _ hne]

theorem Run.accepts_trig (info : TrigInfo) (r : Run) :
    (r.accepts info).trig = some (if r.mode = 3 then r.trig.getD info else info) := by
  unfold Run.accepts; repeat' split
  all_goals simp_all

theorem Run.accepts_accTimes (info : TrigInfo) (r : Run) :
    (r.accepts info).accTimes = if r.mode = 3 ∨ r.mode = 4 then r.accTimes ++ [info.t] else [info.t] := by
  unfold Run.accepts; repeat' split
  all_goals simp_all

/-! ### A qualified trigger is judged (R145, R147) -/

/-- A qualified trigger is counted, and shown on the outputs that ask for it. -/
def State.qualified (s : State) (g t step3 : Nat) : State :=
  (s.updTrg g (fun x => { x with qualCnt := min 0xFFFFFFFF (x.qualCnt + 1) })).outPulse g 1 t step3

section
variable {s : State} {g : Nat} (hg : g < s.trg.grp.length) (t src dec back : Nat)
include hg

theorem State.qualified_hoMode (step3 : Nat) : (nth (s.qualified g t step3).trg.grp g).hoMode = (nth s.trg.grp g).hoMode := by
  simp [State.qualified, nth_upd_self _ hg]
theorem State.qualified_hoEnd (step3 : Nat) : (nth (s.qualified g t step3).trg.grp g).hoEnd = (nth s.trg.grp g).hoEnd := by
  simp [State.qualified, nth_upd_self _ hg]
theorem State.qualified_hoLeft (step3 : Nat) : (nth (s.qualified g t step3).trg.grp g).hoLeft = (nth s.trg.grp g).hoLeft := by
  simp [State.qualified, nth_upd_self _ hg]

/-- Inside hold-off a trigger is held (R145). -/
theorem State.judge_held (h : (nth s.trg.grp g).hoMode % 2 = 1 ∧ (∃ e, (nth s.trg.grp g).hoEnd = some e ∧ t < e) ∨
    2 ≤ (nth s.trg.grp g).hoMode ∧ (nth s.trg.grp g).hoLeft ≠ 0) : s.judge g t src dec back = (s.qualified g t (dec + back)).holdTrig g := by
  refine if_pos (c := _) ?_
  have h1 := State.qualified_hoMode hg t (dec + back)
  have h2 := State.qualified_hoEnd hg t (dec + back)
  have h3 := State.qualified_hoLeft hg t (dec + back)
  unfold State.qualified at h1 h2 h3
  simp only [satAdd, h1, h2, h3]
  rcases h with ⟨hm, e, he, hlt⟩ | ⟨hm, hl⟩
  · simp [hm, he, hlt]
  · simp [Nat.not_lt.2 hm, hl]

/-- Past hold-off it is rejected or accepted as the group accepts at its time (R145 to R147). -/
theorem State.judge_past (ht : (nth s.trg.grp g).hoMode % 2 = 0 ∨ ∀ e, (nth s.trg.grp g).hoEnd = some e → e ≤ t)
    (hl : (nth s.trg.grp g).hoMode < 2 ∨ (nth s.trg.grp g).hoLeft = 0) :
    s.judge g t src dec back = if !(s.qualified g t (dec + back)).accepting g t then (s.qualified g t (dec + back)).reject g t
      else ((s.qualified g t (dec + back)).acceptTrig g t src dec back).satisfyForces g t := by
  refine if_neg (c := _) ?_
  have h1 := State.qualified_hoMode hg t (dec + back)
  have h2 := State.qualified_hoEnd hg t (dec + back)
  have h3 := State.qualified_hoLeft hg t (dec + back)
  unfold State.qualified at h1 h2 h3
  simp only [satAdd, h1, h2, h3]
  have hev : 1 < (nth s.trg.grp g).hoMode → (nth s.trg.grp g).hoLeft = 0 := by omega
  rcases ht with ht | ht
  · simpa [ht] using hev
  · cases he : (nth s.trg.grp g).hoEnd with
    | none => simpa using hev
    | some e => simpa [ht e he] using hev

end

theorem State.reject_unlogged {s : State} {g : Nat} (h : s.regB (trgA g 0) 4 = false) (t : Nat) :
    s.reject g t = s.updTrg g (fun x => { x with rejCnt := min 0xFFFFFFFF (x.rejCnt + 1), rejSeg := min 0xFFFFFFFF (x.rejSeg + 1) }) := by
  refine if_neg (c := _) ?_
  exact Bool.eq_false_iff.1 h

theorem State.reject_logged {s : State} {g : Nat} (h : s.regB (trgA g 0) 4 = true) (t : Nat) :
    s.reject g t = (s.updTrg g (fun x => { x with rejCnt := min 0xFFFFFFFF (x.rejCnt + 1), rejSeg := min 0xFFFFFFFF (x.rejSeg + 1) })).updRun g (fun r =>
      if r.log.length < 16 then { r with log := r.log ++ [(t, false)] } else { r with logDropped := true }) := if_pos h

/-- Settles O27: the record side of an accepted trigger is one run's, and a qualified trigger is held, rejected or accepted as hold-off and the
group's acceptance say. -/
theorem triggersAreJudgedOnce : Obligations.TriggersAreJudgedOnce := by
  constructor
  · rintro s g t src dec back r info v htrg hrsv h rfl rfl
    have hj := State.acceptTrig_trg htrg t src dec back
    have hrun := State.acceptTrig_run hrsv h t src dec back
    refine ⟨⟨?_, ?_, congrArg TrgGrp.accCnt hj, congrArg TrgGrp.lastTb hj, congrArg TrgGrp.lastFrac hj, congrArg TrgGrp.lastSrc hj,
      congrArg TrgGrp.held hj, congrArg TrgGrp.hoMode hj, congrArg TrgGrp.hoEnd hj, congrArg TrgGrp.hoLeft hj⟩, ?_, ?_, ?_,
      fun k hne => State.acceptTrig_other s hne ..⟩
    · exact (congrArg TrgGrp.st hj).trans (by simp [State.trigTaken, TrgGrp.judged])
    · exact (congrArg TrgGrp.openAt hj).trans (by simp [State.trigTaken, TrgGrp.judged])
    · intro hm
      rw [hrun, Option.bind_some, Run.logs_trig, Run.accepts_trig, if_neg hm]; rfl
    · intro hm
      rw [hrun, Option.bind_some, Run.logs_trig, Run.accepts_trig, if_pos hm]; rfl
    · rw [hrun, Option.map_some, Run.logs_accTimes, Run.accepts_accTimes]; rfl
  · rintro s g t src dec back x rfl s' rfl hg
    refine ⟨State.judge_held hg t src dec back, fun ht hl => ⟨?_, fun hacc => ?_⟩⟩
    · rintro hacc v rfl
      have hjudge := (State.judge_past hg t src dec back ht hl).trans (if_pos (by rw [State.qualified, hacc]; rfl))
      have hreg : (s.qualified g t (dec + back)).regB (trgA g 0) 4 = s.regB (trgA g 0) 4 := State.outPulse_regB ..
      exact ⟨fun hb => hjudge.trans (State.reject_unlogged (hreg.trans hb) t), fun hb => hjudge.trans (State.reject_logged (hreg.trans hb) t)⟩
    · exact (State.judge_past hg t src dec back ht hl).trans (if_neg (by rw [State.qualified, hacc]; decide))

/-! ### A group's trigger state after changes of it -/

section
variable (s : State) (g : Nat)

theorem State.updTrg_updTrg (f f' : TrgGrp → TrgGrp) : (s.updTrg g f).updTrg g f' = s.updTrg g (fun x => f' (f x)) := by
  simp only [State.updTrg, upd_upd]

theorem State.updTrg_const (f : TrgGrp → TrgGrp) : s.updTrg g f = s.updTrg g (fun _ => f (nth s.trg.grp g)) := by
  simp only [State.updTrg]
  rw [upd_nth_congr rfl]
  rfl

theorem State.updTrg_self {f : TrgGrp → TrgGrp} (h : f (nth s.trg.grp g) = nth s.trg.grp g) : s.updTrg g f = s := by
  simp only [State.updTrg]
  rw [upd_nth_id rfl h]

variable {s g}

theorem State.nth_updTrg (hg : g < s.trg.grp.length) (f : TrgGrp → TrgGrp) : nth (s.updTrg g f).trg.grp g = f (nth s.trg.grp g) :=
  nth_upd_self f hg

end

/-! ### The start of acceptance and the end of WAIT_FULL (R38, R146, R149, R172) -/

section
variable {s : State} {g o t i : Nat} {rest : List Nat}

theorem State.judgeForce_none (h : (nth s.trg.grp g).forces = [] ∨ s.accepting g t = false) : s.judgeForce g t = s := by
  unfold State.judgeForce
  split
  · rename_i i rest hf
    rw [if_neg (by rcases h with h | h <;> simp_all)]
  · rfl

/-- The oldest force that waits is accepted (R149). -/
theorem State.judgeForce_accepts (h : (nth s.trg.grp g).forces = i :: rest) (ha : s.accepting g t = true) :
    s.judgeForce g t = ((s.updTrg g (fun x => { x with forces := rest })).acceptForce g t).finish i OK
      (forceResult ((s.updTrg g (fun x => { x with forces := rest })).acceptForce g t) g t (((nth s.rsv.grp g).run.map Run.seg).getD 0) 0) := by
  unfold State.judgeForce
  rw [h]
  exact if_pos ha

theorem State.forceBelow_open {below : Nat} (hst : (nth s.trg.grp g).st = .accepting) (ho : (nth s.trg.grp g).openAt = some o) :
    s.forceBelow g below = if s.ceil16 g o < below then s.judgeForce g (s.ceil16 g o) else s := by
  unfold State.forceBelow
  rw [hst, ho]

/-- With its pre-trigger region full the group accepts, and a force that waits is judged at the first stamp (R146, R149). -/
theorem execAcceptanceOpens_open {s1 : State} (h1 : s1 = s.closeDue g) (hg : g < s1.trg.grp.length)
    (hst : (nth s1.trg.grp g).st = .preFill ∨ (nth s1.trg.grp g).st = .rearm ∨ (nth s1.trg.grp g).st = .accepting)
    (ho : (nth s1.trg.grp g).openAt = some o) (hnow : o ≤ 4096 * s1.now) :
    execAcceptanceOpens g s = .next (if (s1.updTrg g (fun x => { x with st := .accepting })).ceil16 g o < s1.logicPos g then
      (s1.updTrg g (fun x => { x with st := .accepting })).judgeForce g ((s1.updTrg g (fun x => { x with st := .accepting })).ceil16 g o)
      else s1.updTrg g (fun x => { x with st := .accepting })) := by
  have hx := State.nth_updTrg hg (fun x => { x with st := .accepting })
  have hpos : (s1.updTrg g (fun x => { x with st := .accepting })).logicPos g = s1.logicPos g := by
    unfold State.logicPos
    rw [hx]
    rfl
  rw [← State.forceBelow_open (by rw [hx]) (by rw [hx]; exact ho), ← hpos]
  unfold execAcceptanceOpens
  rw [← h1]
  dsimp only
  rw [ho]
  rcases hst with hst | hst | hst <;> rw [hst] <;> simp [hnow]

/-- In a stream a force that waits is judged where the logic stands (R149). -/
theorem execAcceptanceOpens_stream {s1 : State} (h1 : s1 = s.closeDue g) (hst : (nth s1.trg.grp g).st = .streaming) :
    execAcceptanceOpens g s = .next (if s1.forceTime g < s1.logicPos g then s1.judgeForce g (s1.forceTime g) else s1) := by
  unfold execAcceptanceOpens
  rw [← h1]
  dsimp only
  rw [hst]

/-- The logic of a group that uses no slot has passed the stamp it processes now. -/
theorem State.forceTime_lt_logicPos (h : s.usedSlots g = [] ∨ s.forceTime g < (nth s.trg.grp g).pos) : s.forceTime g < s.logicPos g := by
  unfold State.logicPos
  rcases h with h | h
  · simp only [h, List.isEmpty_nil, if_true, State.forceTime]
    omega
  · split
    · simp only [State.forceTime]
      omega
    · exact h

theorem execWaitFullEnd_free {r : Run} (h : (nth s.rsv.grp g).run = some r) (hst : (nth s.trg.grp g).st = .waitFull) (hf : s.slotFree g r = true)
    (ht : r.openT ≤ 4096 * s.now) : execWaitFullEnd g s = .next (s.openSeg g (4096 * s.now)) := by
  simp [execWaitFullEnd, h, hst, hf, Nat.not_lt.2 ht, Nat.max_eq_left ht]

/-- A slot that frees before the dead time has ended was never waited for (R172). -/
theorem execWaitFullEnd_early {r : Run} (h : (nth s.rsv.grp g).run = some r) (hst : (nth s.trg.grp g).st = .waitFull) (hf : s.slotFree g r = true)
    (ht : 4096 * s.now < r.openT) : execWaitFullEnd g s = .next
      (((s.updRun g (fun r => { r with waited := false })).updRec g (fun x => { x with waitFullCnt := x.waitFullCnt - 1 })).openSeg g r.openT) := by
  simp [execWaitFullEnd, h, hst, hf, ht, Nat.max_eq_right ht.le]

end

/-- Settles O32: acceptance opens in the state the close that is due leaves, and a force that waits is judged only below what the logic has passed. -/
theorem acceptanceAndTimeoutsComplete : Obligations.AcceptanceAndTimeoutsComplete := by
  intro s g
  refine ⟨?_, ?_, ?_, ?_⟩
  · intro s1 s2 o below h1 hg hst ho hnow h2 hbelow
    have hexec : exec (.acceptanceOpens g) s = .next (if s2.ceil16 g o < below then s2.judgeForce g (s2.ceil16 g o) else s2) := by
      have hpos : s1.logicPos g = below := by simp [hbelow, State.logicPos]
      rw [h2, ← hpos]
      exact execAcceptanceOpens_open h1 hg hst ho hnow
    have hx : nth s2.trg.grp g = { nth s1.trg.grp g with st := .accepting } := by rw [h2, State.nth_updTrg hg]
    refine ⟨fun h => ?_, fun i rest hf hlt ha => ⟨_, rfl, ?_⟩⟩
    · rw [hexec]
      split
      · rename_i hlt
        rw [State.judgeForce_none]
        rcases h with h | h | h
        · exact .inl (by rw [hx]; exact h)
        · exact absurd hlt (Nat.not_lt.2 h)
        · exact .inr h
      · rfl
    · rw [hexec, if_pos hlt, State.judgeForce_accepts (by rw [hx]; exact hf) ha]
  · intro s1 i rest h1 hst hf ha hlt
    refine ⟨_, rfl, ?_⟩
    have hexec : exec (.acceptanceOpens g) s = _ := execAcceptanceOpens_stream h1 hst
    rw [hexec, if_pos (State.forceTime_lt_logicPos hlt), State.judgeForce_accepts hf ha]
  · intro r h hst hf
    exact ⟨fun ht => show execWaitFullEnd g s = _ from execWaitFullEnd_free h hst hf ht,
      fun ht => show execWaitFullEnd g s = _ from execWaitFullEnd_early h hst hf ht⟩
  · intro hw ht hlt
    exact show execSequenceTimeout g s = _ by simp [execSequenceTimeout, hw, ht, hlt]

end Sys2Proof.Machine
end


-- ==== Sys2Proof/Proofs/TriggerEvents.lean ====
section
/-! PROOFS. Transitions of TRIG_IN, the logic's decisions, and a TIMED pulse (R133 to R141, R147, R149, R153, R157). -/

namespace Sys2Proof.Machine

/-! ### A transition of TRIG_IN (R135, R153) -/

theorem execTrigInTransition_seen {s : State} {i t u : Nat} {rise : Bool} {item : InboxItem} (hd : s.domOn 43 = true)
    (hen : s.regB (trgA 0 (0x390 + 4 * i)) 0 = true)
    (hu : u = t + 4096 * fld (s.reg (trgA 0 (0x398 + 4 * i))) 27 12 + fld (s.reg (trgA 0 (0x398 + 4 * i))) 11 0)
    (hitem : item = { src := 0x80 + i, rise := rise, t := u, dec := u }) :
    execTrigInTransition i t rise s = .next
      ((List.range 32).foldl (fun s g =>
        if s.judging g then s.updTrg g (fun x => { x with inbox := insItem { item with sets := decide (u < x.pos) } x.inbox })
        else s) { s with trg := { s.trg with
          inLevel := s.trg.inLevel.set i rise,
          ahead := (if 4096 * s.now ≤ u then insItem item s.trg.ahead else s.trg.ahead).filter (fun x => 4096 * s.now ≤ x.t) } }) := by
  subst hitem hu
  exact if_neg (by simp [hd, hen])

/-! ### The logic's decisions (R133, R147, R149, R153) -/

section
variable {s s0 : State} {g upTo : Nat} {feeds : List Feed} (h0 : s0 = (s.take feeds).closeDue g)
include h0

theorem execTriggerDecision_idle (hj : s0.judging g = false) : execTriggerDecision g feeds upTo s = .next s0 := by
  unfold execTriggerDecision
  rw [← h0]
  exact if_pos (by rw [hj]; rfl)

theorem execTriggerDecision_judges {s1 s2 : State} {known below : Nat} (hj : s0.judging g = true)
    (h1 : s1 = (List.range 4).foldl (fun s k => s.feedGroupSlot g k) s0)
    (hk : known = (s1.usedSlots g).foldl (fun m k => if s1.slotSrc g k < 128 then min m (nth (nth s1.trg.grp g).slots k).known else m)
      (min upTo (4096 * (s1.now - s1.logicBack g))))
    (h2 : s2 = State.batches (nth s1.trg.grp g).inbox.length s1 g known)
    (hb : below = (match s2.logicEnd g with | some e => min known e | none => known) + 1) :
    execTriggerDecision g feeds upTo s = .next
      ((if s2.judging g then s2.forceBelow g below else s2).updTrg g (fun x => { x with pos := max x.pos below })).drawMaps := by
  subst hb
  unfold execTriggerDecision
  rw [← h0]
  dsimp only
  rw [if_neg (by rw [hj]; decide)]
  unfold forEach
  rw [← h1, ← hk, ← h2]
  all_goals cases s2.logicEnd g <;> rfl

end

/-! ### One transition and an EDGE event (R137, R140, R141) -/

/-- A change of a group's trigger state depends on that state alone. -/
theorem State.updTrg_congr {s : State} {g : Nat} {f f' : TrgGrp → TrgGrp} (h : f (nth s.trg.grp g) = f' (nth s.trg.grp g)) :
    s.updTrg g f = s.updTrg g f' := by
  rw [State.updTrg_const, h, ← State.updTrg_const]

/-- A crossing moves the states of the group's slots alone. -/
theorem State.moveHigh_frame (s : State) (g : Nat) (i : InboxItem) : ∃ slots, s.moveHigh g i = s.updTrg g (fun x => { x with slots := slots }) := by
  have hself : ∀ s : State, ∃ slots, s = s.updTrg g (fun x => { x with slots := slots }) :=
    fun s => ⟨(nth s.trg.grp g).slots, (State.updTrg_self s g rfl).symm⟩
  unfold State.moveHigh
  split
  · exact hself s
  · refine forEach_frame (put := fun s slots => s.updTrg g (fun x => { x with slots := slots })) ?_ hself ?_ ..
    · intro s b c
      exact State.updTrg_updTrg ..
    · intro s k
      exact ⟨_, State.updTrg_congr rfl⟩

/-- An EDGE event is met by a transition of its polarity (R137). -/
theorem evItem_edge {c : EvCfg} {e : EvSt} {ks : List Nat} {p : PatBatch} {n : Nat} {i : InboxItem} (hty : c.type = 1) (hslot : c.slot ∈ ks)
    (hi : i.ignored = false) (hs : i.sets = false) (hl : i.lvlB = false) (hpol : c.pol = 2 ∨ c.pol = (if i.rise then 0 else 1)) :
    evItem c e ks p n i = (e, true) := by
  have hdir : c.dirOk i.rise = true := by
    rcases hpol with hpol | hpol
    · simp [EvCfg.dirOk, hpol]
    · cases hr : i.rise <;> simp [EvCfg.dirOk, hpol, hr]
  simp [evItem, evCrossing, hty, hslot, hi, hs, hl, hdir]

theorem evItem_off {c : EvCfg} {e : EvSt} {ks : List Nat} {p : PatBatch} {n : Nat} {i : InboxItem} (hty : c.type = 0) :
    evItem c e ks p n i = (e, false) := by
  simp [evItem, hty]

/-- A batch of one item (R140). -/
theorem State.batchItems_one {s : State} {g k : Nat} {ca cb : EvCfg} {pa pb : PatBatch} {i : InboxItem} {ea eb : EvSt} {ma mb : Bool}
    (ha : evItem ca (nth s.trg.grp g).evA (s.itemSlots g i) pa k i = (ea, ma)) (hb : evItem cb (nth s.trg.grp g).evB (s.itemSlots g i) pb k i = (eb, mb))
    {t : State} (ht : t = s.updTrg g (fun x => { x with evA := ea, evB := eb, invSupp := satAdd 0xFFFFFFFF x.invSupp (b2n i.ignored) })) :
    s.batchItems g ca cb pa pb k [i] = if t.judging g then t.sequence g i ma mb (t.pointSlot g ca i) (t.pointSlot g cb i) else t := by
  subst ht
  simp only [State.batchItems, ha, hb]

/-- With no sequence, a met event A is a qualified trigger (R141). -/
theorem State.sequence_none {s : State} {g : Nat} (h : s.seqMode g = 0) (i : InboxItem) (metB : Bool) (kA kB : Nat) :
    s.sequence g i true metB kA kB = s.judge g i.t (trigSrc i kA false) (cdiv i.dec 4096) (s.decisionBack g i) := if_pos h

/-- The group's trigger state as a batch of one transition finds it: the slots moved, the events' states kept. -/
theorem State.batch_edge {s : State} {g k : Nat} {i : InboxItem} (hj : s.judging g = true) (hg : g < s.trg.grp.length) (hp : i.program = none)
    (hi : i.ignored = false) (hs : i.sets = false) (hl : i.lvlB = false) (hslot : i.slot = none) (hty : (s.evCfg g false).type = 1)
    (hk : (s.evCfg g false).slot = k) (hk4 : k < 4) (hsrc : s.slotSrc g k = i.src)
    (hpol : (s.evCfg g false).pol = 2 ∨ (s.evCfg g false).pol = (if i.rise then 0 else 1)) (htyB : (s.evCfg g true).type = 0)
    (hseq : s.seqMode g = 0) :
    ∃ s' x', s.batch g [i] = s'.judge g i.t (trigSrc i k false) (cdiv i.dec 4096) (s'.decisionBack g i) ∧ s' = s.updTrg g (fun _ => x') ∧
      x'.inbox = (nth s.trg.grp g).inbox ∧ x'.pos = (nth s.trg.grp g).pos ∧ x'.st = (nth s.trg.grp g).st ∧ x'.openAt = (nth s.trg.grp g).openAt := by
  obtain ⟨slots, hmove⟩ := s.moveHigh_frame g i
  have hmem : k ∈ s.itemSlots g i := by simp [State.itemSlots, hslot, allBelow, hk4, hsrc]
  subst hk
  let x' : TrgGrp := { nth s.trg.grp g with slots := slots, invSupp := satAdd 0xFFFFFFFF (nth s.trg.grp g).invSupp 0 }
  have hjudging : (s.updTrg g (fun _ => x')).judging g = true := by
    simp only [State.judging, State.armed, State.updTrg_trg, State.updTrg_rsv, nth_upd_self _ hg] at hj ⊢
    exact hj
  refine ⟨s.updTrg g (fun _ => x'), x', ?_, rfl, rfl, rfl, rfl, rfl⟩
  let m := s.updTrg g (fun x => { x with slots := slots })
  have hm : s.batch g [i] = m.batchItems g (s.evCfg g false) (s.evCfg g true) (s.patBatch m g (s.evCfg g false) [i])
      (s.patBatch m g (s.evCfg g true) [i]) 0 [i] := by
    simp only [State.batch, List.foldl_cons, List.foldl_nil, List.filter_cons, List.filter_nil, hp, Option.isNone_none, if_true, hmove, m]
  have hx' : s.updTrg g (fun _ => x') = m.updTrg g (fun x =>
      { x with evA := (nth m.trg.grp g).evA, evB := (nth m.trg.grp g).evB, invSupp := satAdd 0xFFFFFFFF x.invSupp (b2n i.ignored) }) := by
    simp only [m, State.updTrg_updTrg, State.nth_updTrg hg, hi]
    exact State.updTrg_congr rfl
  have hpoint : ∀ t : State, t.pointSlot g (s.evCfg g false) i = (s.evCfg g false).slot := fun t => by simp [State.pointSlot, hty]
  rw [hm, State.batchItems_one (s := m) (evItem_edge hty hmem hi hs hl hpol) (evItem_off htyB) hx', if_pos hjudging, State.sequence_none (s := s.updTrg g (fun _ => x')) hseq, hpoint]

/-- Settles O33: what a row finds is what its channels and inputs have brought, in order of time. -/
theorem triggerEventsComplete : Obligations.TriggerEventsComplete := by
  intro s g
  refine ⟨?_, ?_, ?_, ?_, ?_⟩
  · intro i t rise u item hd hen hu hitem
    exact show execTrigInTransition i t rise s = _ from execTrigInTransition_seen hd hen hu hitem
  · intro feeds upTo hj
    exact show execTriggerDecision g feeds upTo s = _ from execTriggerDecision_idle rfl hj
  · intro feeds upTo s0 s1 known below s2 h0 hj h1 hk h2 hb
    have hexec : execTriggerDecision g feeds upTo s = _ := execTriggerDecision_judges h0 hj h1 hk h2 hb
    refine ⟨fun hj2 => show execTriggerDecision g feeds upTo s = _ from ?_, fun hj2 => show execTriggerDecision g feeds upTo s = _ from ?_⟩
    · rw [hexec, if_pos hj2]
    · rw [hexec, if_neg (Bool.eq_false_iff.1 hj2)]
  · intro i k hj hg hp hi hs hl hslot _ hty hk hk4 hsrc hpol htyB hseq
    exact State.batch_edge hj hg hp hi hs hl hslot hty hk hk4 hsrc hpol htyB hseq
  · intro i t rest e hdue he
    subst he
    exact show execTrigOutTimedEdge i s = _ by simp only [execTrigOutTimedEdge, hdue]; rfl

end Sys2Proof.Machine
end


-- ==== Sys2Proof/Proofs/Calibration.lean ====
section
/-! PROOFS. Estimator windows, trim ticks and CAL_STATE (R74 to R92); foreground calibration, CAL_REPORT and SKEW_MEASURE (R75, R83, R95 to R97,
R320, R321). -/

namespace Sys2Proof.Machine

/-! ### Estimator windows (R74) -/

section
variable {s0 s : State} {n e : Nat} {x : WindowIn} (hs : s = s0.take x.feeds) (he : e = s.windowEnd)
include hs he

/-- A window that the channel does not run, that was evaluated before, or that did not run whole changes nothing. -/
theorem execEstimatorWindowEnd_none (h : s.windowsRun n = false ∨ e ≤ (nth s.acq.cal n).winDone ∨ s.windowSamples n e = none) :
    execEstimatorWindowEnd n x s0 = .next s := by
  subst he
  unfold execEstimatorWindowEnd
  rw [← hs]
  dsimp only
  split
  · rfl
  · rename_i hc
    simp only [Bool.or_eq_true, Bool.not_eq_true', decide_eq_true_eq, not_or] at hc
    obtain ⟨hruns, hdone⟩ := hc
    rw [(h.resolve_left hruns).resolve_left hdone]

theorem execEstimatorWindowEnd_evaluates {ws : List WinSample} (hruns : s.windowsRun n = true) (hdone : (nth s.acq.cal n).winDone < e)
    (hw : s.windowSamples n e = some ws) : execEstimatorWindowEnd n x s0 = .next (s.evalWindow n e x.spares ws) := by
  subst he
  unfold execEstimatorWindowEnd
  rw [← hs]
  dsimp only
  rw [if_neg (by simp [hruns, hdone]), hw]

end

section
variable {s s1 s2 s3 s4 t : State} {n e : Nat} {spares : List SpareIn} {ws : List WinSample} {w : WinStats}

/-- A window with more than an eighth of its samples excluded is void (R74). -/
theorem State.evalWindow_void (h1 : s1 = s.updCal n (fun c => { c with winDone := e })) (hv : ws.length < 8 * ws.countP WinSample.out) :
    s.evalWindow n e spares ws = s1 := by
  subst h1
  exact if_pos hv

/-- What a counted window feeds, in its order (R76, R79, R84, R85, R91, R92). -/
theorem State.evalWindow_counted (h1 : s1 = s.updCal n (fun c => { c with winDone := e })) (hv : 8 * ws.countP WinSample.out ≤ ws.length)
    (h2 : s2 = { s1 with freeCtr := s1.freeCtr + 1 }) (hw : w = winStats (s2.positions n) s1.freeCtr ws) (h3 : s3 = (s2.estimateDue n w).countWindow n w)
    (h4 : s4 = ((s3.converters n).foldl (fun s m => s.spareTick n m) s3).judgeWindow n w.stuck spares ws)
    (ht : t = ((s4.converters n).foldl State.spareMove s4).calWindow n) :
    s.evalWindow n e spares ws =
      if ((nth t.acq.cal n).st == .acquiring || (nth t.acq.cal n).st == .tracking) && t.regF (weirA n 0xC0) 18 11 ≤ (nth t.acq.cal n).sincePrep
      then t.prepare n else t := by
  subst h1 h2 hw h3 h4 ht
  exact if_neg (Nat.not_lt.2 hv)

end

/-! ### CAL_STATE after a counted window (R85) -/

/-- Settles O37: a window is evaluated where it is due, in the order of its judgements, and CAL_STATE follows the runs. -/
theorem estimatorWindowsComplete : Obligations.EstimatorWindowsComplete := by
  unfold Obligations.EstimatorWindowsComplete
  refine ⟨?_, fun s => rfl, ?_⟩
  · intro s0 s n e x hs he
    refine ⟨fun h => show execEstimatorWindowEnd n x s0 = _ from execEstimatorWindowEnd_none hs he h, ?_⟩
    intro ws s1 hruns hdone hw h1
    have hexec := execEstimatorWindowEnd_evaluates hs he hruns hdone hw
    refine ⟨fun hv => show execEstimatorWindowEnd n x s0 = _ by rw [hexec, State.evalWindow_void h1 hv], ?_⟩
    intro w s2 s3 s4 t hv h2 hw h3 h4 ht
    have hval := State.evalWindow_counted h1 hv h2 hw h3 h4 ht
    refine ⟨fun hst hp => show execEstimatorWindowEnd n x s0 = _ from ?_, fun h => show execEstimatorWindowEnd n x s0 = _ from ?_⟩
    · rw [hexec, hval, if_pos (by simpa [hp] using hst)]
    · rw [hexec, hval, if_neg]
      rcases h with hp | hst
      · simp [Nat.not_le.2 hp]
      · simp [hst]
  · rintro s n c rfl
    refine ⟨fun hst h8 => ?_, fun hst h8 hg => ?_, fun hst h8 hb => ?_, fun hst h4 => ?_, fun hst h8 hg => ?_, fun hst h8 hb => ?_, fun hst h4 => ?_,
      fun hst => ?_⟩
    · rcases hst with hst | hst <;> simp [State.calWindow, hst, h8]
    · simp [State.calWindow, hst, Nat.not_le.2 h8, hg]
    · simp [State.calWindow, hst, Nat.not_le.2 h8, hb]
    · simp [State.calWindow, hst, h4]
    · simp [State.calWindow, hst, Nat.not_le.2 h8, Nat.not_le.2 hg]
    · simp [State.calWindow, hst, Nat.not_le.2 h8, Nat.not_le.2 hb]
    · simp [State.calWindow, hst, Nat.not_le.2 h4]
    · rcases hst with hst | hst <;> simp [State.calWindow, hst]

/-! ### Commands that wait for a turn, and reports that fail -/

/-- A body that holds leaves the command waiting to begin, and has changed nothing. -/
theorem runCmd_hold {s : State} {q op : Nat} {e : JEntry} {pre : Packet → Bool} {spans : List (Nat × Nat)} {body : State → JEntry → CmdOut}
    (h : CmdReady s q op e) (hp : PktGood e spans pre) (hk : keeperRefuses op = false ∨ s.kpr.alarm = .clear) (hb : body s e = .hold) :
    runCmd s q op spans pre body = .next (s.threadWaits e.queue) := by
  rw [runCmd, runCmdSel_next h rfl hp hk, awaitStart_of_not_state (by rw [hb]; rfl), hb]
  rfl

/-- A write error ends the command with PARAM_RANGE (R299). -/
theorem withReport_failed {s : State} {e : JEntry} {bs : List Byte} {k : State → CmdOut} (hb : bs ≠ []) (hbus : s.busOk = true) :
    withReport s e false bs k = .done (s.logCp7 e) PARAM_RANGE [] := by
  simp [withReport, hb, hbus]

/-! ### CAL_REPORT (R83, R320) -/

theorem setImage_ne_nil (n : Nat) (x : CorrSet) : setImage n x ≠ [] := by simp [setImage, leBytes]

/-- The body of CAL_REPORT. -/
def calReportBody (w : Bool) (s : State) (e : JEntry) : CmdOut :=
  if rd e.pkt 16 1 = 0 then .done s OK (calResult (nth s.acq.cal (pktIndex e.pkt)) 0)
  else match (nth s.acq.cal (pktIndex e.pkt)).history.find? (fun x => x.epoch == rd e.pkt 18 2) with
    | none => refuse s PARAM_RANGE
    | some x =>
      if bulkLen e.pkt ≠ 0 && bulkLen e.pkt < (setImage (pktIndex e.pkt) x).length then refuse s PARAM_RANGE
      else
        let bs := if bulkLen e.pkt = 0 then [] else setImage (pktIndex e.pkt) x
        withReport s e w bs (fun t => .done t OK (calResult (nth s.acq.cal (pktIndex e.pkt)) bs.length))

section
variable {s : State} {e : JEntry} {n : Nat} {x : CorrSet}

theorem calReportBody_figures (w : Bool) (hn : pktIndex e.pkt = n) (h : rd e.pkt 16 1 = 0) :
    calReportBody w s e = .done s OK (calResult (nth s.acq.cal n) 0) := by
  subst hn
  exact if_pos h

variable (h : rd e.pkt 16 1 = 1)
include h

theorem calReportBody_unknown (w : Bool) (hn : pktIndex e.pkt = n) (hx : (nth s.acq.cal n).history.find? (fun x => x.epoch == rd e.pkt 18 2) = none) :
    calReportBody w s e = .done s PARAM_RANGE [] := by
  subst hn
  simp [calReportBody, h, hx, refuse]

variable (hx : (nth s.acq.cal n).history.find? (fun x => x.epoch == rd e.pkt 18 2) = some x)
include hx

theorem calReportBody_noBuffer (w : Bool) (hn : pktIndex e.pkt = n) (hl : bulkLen e.pkt = 0) :
    calReportBody w s e = .done s OK (calResult (nth s.acq.cal n) 0) := by
  subst hn
  simp [calReportBody, h, hx, hl, withReport_nil]

theorem calReportBody_short (w : Bool) (hn : pktIndex e.pkt = n) (hl : bulkLen e.pkt ≠ 0) (hlt : bulkLen e.pkt < (setImage n x).length) :
    calReportBody w s e = .done s PARAM_RANGE [] := by
  subst hn
  simp [calReportBody, h, hx, hl, hlt, refuse]

theorem calReportBody_set (w : Bool) (hn : pktIndex e.pkt = n) (hle : (setImage n x).length ≤ bulkLen e.pkt) :
    calReportBody w s e = withReport s e w (setImage n x) (fun t => .done t OK (calResult (nth s.acq.cal n) (setImage n x).length)) := by
  subst hn
  have hl : bulkLen e.pkt ≠ 0 := by
    have := List.length_pos_of_ne_nil (setImage_ne_nil (pktIndex e.pkt) x)
    omega
  simp [calReportBody, h, hx, hl, Nat.not_lt.2 hle]

end

/-! ### SKEW_MEASURE (R95 to R97, R321) -/

/-- The body of SKEW_MEASURE. -/
def skewBody (s : State) (e : JEntry) : CmdOut :=
  if (pktMask e.pkt).any (fun n => !s.lead n) then refuse s PARAM_RANGE
  else if (pktMask e.pkt).any (fun n => !s.skewOk n) then refuse s STATE
  else if s.acq.skew.isSome then .hold
  else .wait (s.beginSkew { cmd := some e.idx, mask := rd e.pkt 16 16, n := rd e.pkt 32 4, buf := bulkAddr e.pkt, len := bulkLen e.pkt,
                            tag := doneTag e.pkt }) .skew (some [])

section
variable {s : State} {e : JEntry}

theorem skewBody_notLead {n : Nat} (hn : n ∈ pktMask e.pkt) (h : s.lead n = false) : skewBody s e = .done s PARAM_RANGE [] :=
  if_pos (List.any_eq_true.2 ⟨n, hn, by rw [h]; rfl⟩)

variable (hl : ∀ n ∈ pktMask e.pkt, s.lead n = true)
include hl

theorem skewBody_refused (h : ∃ n ∈ pktMask e.pkt, s.skewOk n = false) : skewBody s e = .done s STATE [] := by
  obtain ⟨n, hn, hs⟩ := h
  have hlead : (pktMask e.pkt).any (fun n => !s.lead n) = false := List.any_eq_false.2 fun n hn => by simp [hl n hn]
  have hok : (pktMask e.pkt).any (fun n => !s.skewOk n) = true := List.any_eq_true.2 ⟨n, hn, by rw [hs]; rfl⟩
  simp [skewBody, hlead, hok, refuse]

theorem skewBody_passed (hok : ∀ n ∈ pktMask e.pkt, s.skewOk n = true) :
    skewBody s e = if s.acq.skew.isSome then .hold
      else .wait (s.beginSkew { cmd := some e.idx, mask := rd e.pkt 16 16, n := rd e.pkt 32 4, buf := bulkAddr e.pkt, len := bulkLen e.pkt,
                                tag := doneTag e.pkt }) .skew (some []) := by
  have hlead : (pktMask e.pkt).any (fun n => !s.lead n) = false := List.any_eq_false.2 fun n hn => by simp [hl n hn]
  have hok' : (pktMask e.pkt).any (fun n => !s.skewOk n) = false := List.any_eq_false.2 fun n hn => by simp [hok n hn]
  simp only [skewBody, hlead, hok', Bool.false_eq_true, if_false]

end

section
variable {s s0 s1 : State} {r : SkewRun} {ns : List Nat} {res : List (Nat × List SkewEdge)} {d : List Int} {w : Bool} (h : s.acq.skew = some r)
  (h0 : s0 = s.endSkew r)
include h h0

section
variable (hns : ns = allBelow 128 (bit r.mask)) (h1 : s1 = ns.foldl (fun s n => s.skewChannel r.n n (edgesOf res n)) s0)
include hns h1

theorem execSkewMeasureDone_own (hc : r.cmd = none) : execSkewMeasureDone res w s = .next s1 := by
  subst hns h0 h1
  simp [execSkewMeasureDone, h, hc, forEach]

variable (hd : d = skewChanges s0 s1 ns) {i : Nat} (hc : r.cmd = some i) {result : List Byte}
  (hr : result = leBytes 4 (ns.countP (fun n => (s0.skewFails r.n n (edgesOf res n)).isNone)) ++
    leBytes 4 (d.foldl (fun m d => Nat.max m d.natAbs) 0) ++ leBytes 8 s1.tb.count.toNat)
include hd hc hr

theorem execSkewMeasureDone_noBuffer (hl : r.len = 0) : execSkewMeasureDone res w s = .next (s1.finish i OK result) := by
  subst hns h0 h1 hd hr
  simp [execSkewMeasureDone, h, hc, hl, forEach]

theorem execSkewMeasureDone_report (hl : r.len ≠ 0) (hbus : s.busOk = true) :
    execSkewMeasureDone res true s = .next ((s1.hostWrite r.buf (d.flatMap (fun d => leBytes 4 (unsgn 32 d)))).finish i OK result) := by
  subst hns h0 h1 hd hr
  simp [execSkewMeasureDone, h, hc, hl, hbus, forEach]

end

theorem execSkewMeasureDone_failed {e : JEntry} {i : Nat} (hc : r.cmd = some i) (hl : r.len ≠ 0) (hbus : s.busOk = true) (he : s.jget i = some e) :
    execSkewMeasureDone res false s = .next ((s0.logCp7 e).finish i PARAM_RANGE []) := by
  subst h0
  simp [execSkewMeasureDone, h, hc, hl, hbus, he]

end

/-! ### Foreground calibration and the start of a quad -/

theorem execForegroundCalDone_ready {s s1 : State} {q : Nat} {fails : List (Nat × Nat)} {found : List FgResult} (hd : s.domOn q = true)
    (hf : (nth s.acq.quads q).fgRun = true)
    (h1 : s1 = (fails.filter (fun f => 64 ≤ f.2) ++ fails.filter (fun f => f.2 < 64)).foldl (fun s f => s.fgFail (4 * q + f.1) f.2) s) :
    execForegroundCalDone q { fails := fails, results := found } s = .next
      ([4 * q, 4 * q + 1, 4 * q + 2, 4 * q + 3].foldl (fun s n => (s.setCal n .acquiring).prepare n)
        ((found.foldl (fun s f => s.fgSet q f) s1).updQuad q (fun x => { x with ready := true, fgRun := false, startDue := true }))) := by
  subst h1
  exact if_neg (by simp [hd, hf])

/-- Settles O38: foreground calibration, the start that follows, CAL_REPORT, and SKEW_MEASURE from its checks to its end. -/
theorem calibrationCompletes : Obligations.CalibrationCompletes := by
  unfold Obligations.CalibrationCompletes
  refine ⟨?_, ?_⟩
  · intro s q
    refine ⟨fun fails found s1 hd hf h1 => ?_, fun hs => ?_, fun found h => ?_⟩
    · exact show execForegroundCalDone q _ s = _ from execForegroundCalDone_ready hd hf h1
    · exact show execQuadStart q s = _ from if_neg (by simp [hs])
    · exact show execForegroundCalDone q found s = _ from if_pos (by rcases h with h | h <;> simp [h])
  · intro s q e
    refine ⟨?_, ?_, ?_⟩
    · intro n w hn hr hp
      refine ⟨fun h => ?_, fun x h hx hl => ?_, fun x h hx hle hbus => ⟨?_, ?_⟩, fun x h hx hl hlt => ?_, fun h hx => ?_⟩
      · exact show execCalReport q w s = _ from runCmd_done hr hp (.inl rfl) (calReportBody_figures w hn h) (.inl (by decide))
      · exact show execCalReport q w s = _ from runCmd_done hr hp (.inl rfl) (calReportBody_noBuffer h hx w hn hl) (.inl (by decide))
      · exact show execCalReport q true s = _ from runCmd_done hr hp (.inl rfl)
          ((calReportBody_set h hx true hn hle).trans (withReport_written (setImage_ne_nil n x) hbus)) (.inl (by decide))
      · exact show execCalReport q false s = _ from runCmd_done hr hp (.inl rfl)
          ((calReportBody_set h hx false hn hle).trans (withReport_failed (setImage_ne_nil n x) hbus)) (.inl (by decide))
      · exact show execCalReport q w s = _ from runCmd_done hr hp (.inl rfl) (calReportBody_short h hx w hn hl hlt) (.inl (by decide))
      · exact show execCalReport q w s = _ from runCmd_done hr hp (.inl rfl) (calReportBody_unknown h w hn hx) (.inl (by decide))
    · intro hr hp
      refine ⟨fun h => ?_, fun hl hbad hs => ?_, fun n hn hl => ?_⟩
      · have hbody := skewBody_passed (fun n hn => (h n hn).1) (fun n hn => (h n hn).2)
        refine ⟨fun hsk => ?_, fun hsk => ?_⟩
        · exact show execSkewMeasure q s = _ from runCmd_wait hr hp (.inl rfl) (hbody.trans (if_neg (by simp [hsk])))
        · exact show execSkewMeasure q s = _ from runCmd_hold hr hp (.inl rfl) (hbody.trans (if_pos hsk))
      · exact show execSkewMeasure q s = _ from runCmd_done hr hp (.inl rfl) (skewBody_refused hl hbad) (.inr hs)
      · exact show execSkewMeasure q s = _ from runCmd_done hr hp (.inl rfl) (skewBody_notLead hn hl) (.inl (by decide))
    · intro r ns res s0 s1 d h hns h0 h1 hd
      refine ⟨fun w hc => ?_, fun i result hc hres => ⟨fun w hl => ?_, fun hl hbus => ⟨?_, fun he => ?_⟩⟩⟩
      · exact show execSkewMeasureDone res w s = _ from execSkewMeasureDone_own h h0 hns h1 hc
      · exact show execSkewMeasureDone res w s = _ from execSkewMeasureDone_noBuffer h h0 hns h1 hd hc hres hl
      · exact show execSkewMeasureDone res true s = _ from execSkewMeasureDone_report h h0 hns h1 hd hc hres hl hbus
      · exact show execSkewMeasureDone res false s = _ from execSkewMeasureDone_failed h h0 hc hl hbus he

end Sys2Proof.Machine
end


-- ==== Sys2Proof/Proofs/MapsAndStacks.lean ====
section
/-! PROOFS. Fades and density maps (R114, R203), and the faults of stacks (R188 to R190). -/

namespace Sys2Proof.Machine

/-! ### Decay passes (R203) -/

section
variable {s s' t : State} {n : Nat} (hd : s.decayDue n = true)
  (hs : s' = ({ s with freeCtr := s.freeCtr + 1 }).updPondCh n (fun x => { x with sweepsSince := 0 }))
include hd hs

/-- Setting the sweeps toward a pass to 0 leaves the end of the pass that runs. -/
theorem execDecayPassStart_due (ht : t = if s.now < (nth s.pond.ch n).decayEnd then s'.updPondCh n (fun x => { x with decayMiss := min 65535 (x.decayMiss + 1) })
    else ({ s' with pond := { s'.pond with mem := decayMem n (fld (s.reg (pondA n 0)) 15 12) (bit (s.reg (pondA n 0)) 2) s'.pond.mem } }).updPondCh n
      (fun x => { x with decayEnd := s.now + Config.freeNat s.freeCtr })) :
    execDecayPassStart n s = .next (t.drawDue (1026 * (nth t.pond.ch n).due.length) n) := by
  have hend : (nth s'.pond.ch n).decayEnd = (nth s.pond.ch n).decayEnd := by
    subst hs
    exact nth_upd_proj (f := fun x : PondCh => { x with sweepsSince := 0 }) (p := PondCh.decayEnd) (fun _ => rfl) s.pond.ch n n
  rw [← hend] at ht
  subst ht hs
  exact if_neg (by rw [hd]; decide)

end

theorem State.decayDue_of {s : State} {n c : Nat} (hc : c = s.reg (pondA n 0)) (hmode : fld c 1 0 = 3) (hshift : fld c 15 12 ≠ 0)
    (hdue : fld c 31 16 ≤ (nth s.pond.ch n).sweepsSince) : s.decayDue n = true := by
  subst hc
  simp [State.decayDue, hmode, hshift, hdue]

/-- Settles O35: the fade's and the clear's ends, and a decay pass that starts or is dropped. -/
theorem fadesAndMapsComplete : Obligations.FadesAndMapsComplete := by
  unfold Obligations.FadesAndMapsComplete
  intro s n
  refine ⟨fun f hf hended hfading => ?_, fun h => ?_, fun h => ?_, ?_⟩
  · exact show execFadeEnd n s = _ by simp [execFadeEnd, hf, hended, hfading]
  · exact show execMapClearDone n s = _ from if_pos h
  · exact show execMapClearDone n s = _ from if_neg (Nat.not_le.2 h)
  · intro c s' hc hmode hshift hdue hs
    have hd := State.decayDue_of hc hmode hshift hdue
    refine ⟨fun t hend ht => show execDecayPassStart n s = _ from execDecayPassStart_due hd hs ?_,
      fun t hlt ht => show execDecayPassStart n s = _ from execDecayPassStart_due hd hs ?_⟩
    · rw [ht, hc, if_neg (Nat.not_lt.2 hend)]
    · rw [ht, if_pos hlt]

/-! ### Stack faults: a run that the directory does not name (R190) -/

/-- A state in which a first stack is missing and a group's run has no entry in the directory. -/
def strayRun : State :=
  { State.reset with rsv := { State.reset.rsv with missing := some 1, grp := upd State.reset.rsv.grp 0 (fun x => { x with run := some {} }) } }

/-- The second stack's fault does not end that run: a forced end acts on an acquisition through its entry in the directory. -/
theorem strayRun_survives : (nth (strayRun.secondStack 0 0).rsv.grp 0).run ≠ none := by decide

/-- Refutes O36: the statement asks that a second stack's fault leaves no group running, in every state. In `strayRun` group 0 runs an acquisition that
the directory does not hold, and it still runs after stack 0 has failed as the second one. -/
theorem not_stackFaultsComplete : ¬ Obligations.StackFaultsComplete := by
  unfold Obligations.StackFaultsComplete
  intro h
  obtain ⟨-, -, hsecond, -⟩ := h strayRun 0 (by decide) (by decide)
  obtain ⟨-, -, -, -, hruns⟩ := hsecond 0 1 (by decide) (by decide)
  exact strayRun_survives (hruns 0 (by decide))

end Sys2Proof.Machine
end


-- ==== Sys2Proof/Proofs/ErrorLog.lean ====
section
/-! PROOFS. The five rules of the error log (R472), alarms (R464), and the commands that read and acknowledge entries (R474). -/

namespace Sys2Proof.Machine

/-! ### The entry of rule 5 (R472) -/

/-- What one general entry does to the choice of the entry that gives way. -/
def preemptStep (es : List (Option ErrEntry)) (best : Option Nat) (i : Nat) : Option Nat :=
  match es.getD i none with
  | some e =>
    if e.cls == 3 then best
    else match best with
      | none => some i
      | some j =>
        let f := (es.getD j none).getD default
        if e.cls < f.cls || (e.cls == f.cls && e.logSeq < f.logSeq) then some i else best
  | none => best

theorem preemptIdx_eq (es : List (Option ErrEntry)) : preemptIdx es = (List.range 56).foldl (preemptStep es) none := rfl

section
variable {es : List (Option ErrEntry)} {i : Nat} {e : ErrEntry} (h : es.getD i none = some e)
include h

theorem preemptStep_fatal (hf : e.cls = 3) (best : Option Nat) : preemptStep es best i = best := by
  rw [preemptStep, h]
  simp [hf]

theorem preemptStep_first (hf : e.cls ≠ 3) : preemptStep es none i = some i := by
  rw [preemptStep, h]
  simp [hf]

theorem preemptStep_lower (hf : e.cls ≠ 3) {j : Nat} {f : ErrEntry} (hj : es.getD j none = some f) (hlt : e.cls < f.cls ∨ e.cls = f.cls ∧ e.logSeq < f.logSeq) :
    preemptStep es (some j) i = some i := by
  rw [preemptStep, h]
  dsimp only
  rw [if_neg (by simpa using hf), hj]
  exact if_pos (by simpa using hlt)

theorem preemptStep_higher {j : Nat} {f : ErrEntry} (hj : es.getD j none = some f) (hlt : f.cls < e.cls ∨ f.cls = e.cls ∧ f.logSeq < e.logSeq) :
    preemptStep es (some j) i = some j := by
  rw [preemptStep, h]
  have hnot : ¬ (e.cls < f.cls ∨ e.cls = f.cls ∧ e.logSeq < f.logSeq) := by omega
  dsimp only
  rw [hj]
  split
  · rfl
  · exact if_neg (by simpa using hnot)

end

theorem preemptStep_free {es : List (Option ErrEntry)} {i : Nat} (h : es.getD i none = none) (best : Option Nat) : preemptStep es best i = best := by
  rw [preemptStep, h]

/-- An entry leaves the choice or becomes it. -/
theorem preemptStep_keeps_or (es : List (Option ErrEntry)) (best : Option Nat) (i : Nat) : preemptStep es best i = best ∨ preemptStep es best i = some i := by
  unfold preemptStep
  dsimp only
  repeat' split
  all_goals simp

/-- The entry chosen is one of those looked at. -/
theorem preemptFold_lt {es : List (Option ErrEntry)} {n i : Nat} (h : (List.range n).foldl (preemptStep es) none = some i) : i < n := by
  induction n with
  | zero => cases h
  | succ n ih =>
    rw [List.range_succ, List.foldl_append, List.foldl_cons, List.foldl_nil] at h
    rcases preemptStep_keeps_or es ((List.range n).foldl (preemptStep es) none) n with hk | hk
    · exact Nat.lt_succ_of_lt (ih (hk ▸ h))
    · rw [hk] at h
      cases h
      exact Nat.lt_succ_self _

/-- Nothing is chosen exactly where every general entry in use is FATAL. -/
theorem preemptFold_none (es : List (Option ErrEntry)) (n : Nat) :
    (List.range n).foldl (preemptStep es) none = none ↔ ∀ i, i < n → ∀ e, es.getD i none = some e → e.cls = 3 := by
  induction n with
  | zero => simp
  | succ n ih =>
    rw [List.range_succ, List.foldl_append, List.foldl_cons, List.foldl_nil]
    constructor
    · intro h
      have hprev : (List.range n).foldl (preemptStep es) none = none := by
        rcases preemptStep_keeps_or es ((List.range n).foldl (preemptStep es) none) n with hk | hk
        · exact hk ▸ h
        · rw [hk] at h; cases h
      rw [hprev] at h
      intro i hi e he
      rcases Nat.lt_succ_iff_lt_or_eq.1 hi with hlt | rfl
      · exact ih.1 hprev i hlt e he
      · by_contra hne
        rw [preemptStep_first he hne] at h
        cases h
    · intro h
      rw [ih.2 fun i hi => h i (by omega)]
      cases he : es.getD n none with
      | none => exact preemptStep_free he none
      | some e => exact preemptStep_fatal he (h n (by omega) e he) none

/-- The entry below all others in class and LOG_SEQ is the one chosen. -/
theorem preemptFold_least {es : List (Option ErrEntry)} {i : Nat} {e : ErrEntry} (hi : es.getD i none = some e) (hcls : e.cls ≤ 2) {n : Nat}
    (hleast : ∀ j f, j < n → j ≠ i → es.getD j none = some f → e.cls < f.cls ∨ e.cls = f.cls ∧ e.logSeq < f.logSeq) :
    (i < n → (List.range n).foldl (preemptStep es) none = some i) ∧
      (n ≤ i → ∀ j, (List.range n).foldl (preemptStep es) none = some j → j < n ∧ ∃ f, es.getD j none = some f) := by
  induction n with
  | zero => simp
  | succ n ih =>
    obtain ⟨hpast, hahead⟩ := ih fun j f hj => hleast j f (by omega)
    rw [List.range_succ, List.foldl_append, List.foldl_cons, List.foldl_nil]
    refine ⟨fun hlt => ?_, fun hle => ?_⟩
    · rcases Nat.lt_succ_iff_lt_or_eq.1 hlt with hlt | rfl
      · rw [hpast hlt]
        cases hf : es.getD n none with
        | none => exact preemptStep_free hf _
        | some f => exact preemptStep_higher hf hi (hleast n f (by omega) (by omega) hf)
      · cases hb : (List.range i).foldl (preemptStep es) none with
        | none => exact preemptStep_first hi (by omega)
        | some j =>
          obtain ⟨hj, f, hf⟩ := hahead le_rfl j hb
          exact preemptStep_lower hi (by omega) hf (hleast j f (by omega) (by omega) hf)
    · intro j hj
      rcases preemptStep_keeps_or es ((List.range n).foldl (preemptStep es) none) n with hk | hk
      · obtain ⟨hlt, hused⟩ := hahead (by omega) j (hk ▸ hj)
        exact ⟨by omega, hused⟩
      · cases hf : es.getD n none with
        | none =>
          rw [preemptStep_free hf] at hj
          obtain ⟨hlt, hused⟩ := hahead (by omega) j hj
          exact ⟨by omega, hused⟩
        | some f =>
          rw [hk] at hj
          cases hj
          exact ⟨by omega, f, hf⟩

/-! ### A detection in the log (R472) -/

section
variable {l : ErrLog} {cls blk code inst detail : Nat} {tb : BitVec 64} {kpr : Option Nat}

/-- The log with the detection counted by its class. -/
def ErrLog.counted (l : ErrLog) (cls : Nat) : ErrLog := { l with cnt := upd l.cnt cls (fun c => satAdd 0xFFFFFFFF c 1) }

/-- Rule 1: an entry of the same source counts the detection. -/
theorem ErrLog.detect_again {i : Nat} (h : findEntry l.entries blk code inst = some i) :
    l.detect cls blk code inst detail tb kpr =
      { l.counted cls with entries := upd l.entries i (Option.map (fun e => e.again cls detail tb)) } := by
  simp only [ErrLog.detect, h]
  rfl

variable (h : findEntry l.entries blk code inst = none)
include h

/-- Rule 2: a Keeper source has an entry of its own. -/
theorem ErrLog.detect_keeper (src : Nat) :
    l.detect cls blk code inst detail tb (some src) = { l.counted cls with
      entries := l.entries.set (56 + src) (some { newEntry (l.seq + 1) cls blk code inst detail tb with keeper := true }), seq := l.seq + 1 } := by
  simp only [ErrLog.detect, h]
  rfl

/-- Rule 3: the first free general entry takes it. -/
theorem ErrLog.detect_free {i : Nat} (hf : (List.range 56).find? (fun i => (l.entries.getD i none).isNone) = some i) :
    l.detect cls blk code inst detail tb none = { l.counted cls with
      entries := l.entries.set i (some (newEntry (l.seq + 1) cls blk code inst detail tb)), seq := l.seq + 1 } := by
  simp only [ErrLog.detect, h, hf]
  rfl

variable (hfull : (List.range 56).find? (fun i => (l.entries.getD i none).isNone) = none)
include hfull

/-- Rule 4: with no entry free a detection overflows, but a FATAL one that finds an entry to take. -/
theorem ErrLog.detect_overflow (ho : cls ≠ 3 ∨ preemptIdx l.entries = none) :
    l.detect cls blk code inst detail tb none = { l.counted cls with overflow := satAdd 65535 l.overflow 1 } := by
  simp only [ErrLog.detect, h, hfull]
  split
  · rfl
  · rename_i hc
    rw [ho.resolve_left hc]
    rfl

/-- Rule 5: a FATAL detection takes the entry that gives way. -/
theorem ErrLog.detect_preempts {i : Nat} (hc : cls = 3) (hp : preemptIdx l.entries = some i) :
    l.detect cls blk code inst detail tb none = { l.counted cls with
      overflow := satAdd 65535 l.overflow 1,
      entries := l.entries.set i (some { newEntry (l.seq + 1) cls blk code inst detail tb with preempted := true }), seq := l.seq + 1 } := by
  simp only [ErrLog.detect, h, hfull, hc, hp]
  rfl

end

theorem ErrLog.detect_cnt (l : ErrLog) (cls blk code inst detail : Nat) (tb : BitVec 64) (kpr : Option Nat) :
    (l.detect cls blk code inst detail tb kpr).cnt = upd l.cnt cls (fun c => satAdd 0xFFFFFFFF c 1) := by
  unfold ErrLog.detect
  dsimp only
  repeat' split
  all_goals rfl

/-- A detection that no rule writes leaves the entries. -/
theorem ErrLog.detect_not_taken {l : ErrLog} {cls blk code inst : Nat} {kpr : Option Nat} (h : l.takes cls blk code inst kpr = false) (detail : Nat)
    (tb : BitVec 64) : (l.detect cls blk code inst detail tb kpr).entries = l.entries := by
  simp only [ErrLog.takes, Bool.or_eq_false_iff, Bool.and_eq_false_iff] at h
  obtain ⟨⟨⟨hfind, hkpr⟩, hfree⟩, hpre⟩ := h
  have hfind' : findEntry l.entries blk code inst = none := by simpa using hfind
  have hkpr' : kpr = none := by simpa using hkpr
  have hfull : (List.range 56).find? (fun i => (l.entries.getD i none).isNone) = none := by
    rw [List.find?_eq_none]
    intro i hi hn
    exact absurd (List.any_eq_true.2 ⟨i, hi, hn⟩) (by rw [hfree]; decide)
  subst hkpr'
  rw [ErrLog.detect_overflow hfind' hfull (hpre.imp (by simp) (by simp))]
  rfl

/-! ### A detection in the state -/

theorem State.logK_err (s : State) (cls blk code inst detail : Nat) (kpr : Option Nat) :
    (s.logK cls blk code inst detail kpr).err = s.err.detect cls blk code inst detail s.tb.count kpr := by rw [State.logK_frame]

theorem State.message_irqStat (s : State) (k : MsgKind) : (s.message k).pcie.irqStat = s.pcie.irqStat := by
  unfold State.message State.tlp
  split
  · dsimp only; rw [Pcie.wake_frame]
  · rfl

theorem State.message_aerStatus (s : State) (k : MsgKind) : (s.message k).pcie.cfg.aerStatus = s.pcie.cfg.aerStatus := by
  unfold State.message State.tlp
  split
  · dsimp only; rw [Pcie.wake_frame]
  · rfl

theorem State.uncReport_irqStat (s : State) (b : Nat) : (s.uncReport b false).pcie.irqStat = s.pcie.irqStat := by
  simp only [State.uncReport, Bool.false_and, Bool.false_eq_true, if_false]
  repeat' split
  all_goals simp [State.message_irqStat]

/-- The report of an uncorrectable error sets its status bit (R374). -/
theorem State.uncReport_status (s : State) (b : Nat) : bit (s.uncReport b false).pcie.cfg.aerStatus b = true := by
  have hset : bit (s.pcie.cfg.aerStatus ||| 2 ^ b) b = true := by simp [bit, Nat.testBit_or, Nat.testBit_two_pow_self]
  simp only [State.uncReport, Bool.false_and, Bool.false_eq_true, if_false]
  repeat' split
  all_goals simp [State.message_aerStatus, hset]

/-- A detection that a rule writes sets GLB_IRQ_STAT.ERR. -/
theorem State.logK_irq {s : State} {cls blk code inst : Nat} {kpr : Option Nat} (h : s.err.takes cls blk code inst kpr = true) (detail : Nat) :
    bit (s.logK cls blk code inst detail kpr).pcie.irqStat 0 = true := by
  simp only [State.logK, h, if_true]
  split
  · rw [State.uncReport_irqStat]
    exact (State.raiseGlb_frame _ 0).2
  · exact (State.raiseGlb_frame _ 0).2

/-- A FATAL detection signals Uncorrectable Internal Error (R374). -/
theorem State.logK_aer (s : State) (blk code inst detail : Nat) (kpr : Option Nat) :
    bit (s.logK 3 blk code inst detail kpr).pcie.cfg.aerStatus 22 = true := State.uncReport_status _ 22

/-! ### Free entries and entries in use -/

section
variable {es : List (Option ErrEntry)} (hlen : es.length = 64) {i : Nat}
include hlen

theorem free_iff (hi : i < 56) : (es.getD i none).isNone = true ↔ es[i]? = some none := by
  have h : i < es.length := by omega
  simp [List.getD, List.getElem?_eq_getElem h]

theorem used_iff {e : ErrEntry} (hi : i < 56) : es.getD i none = some e ↔ es[i]? = some (some e) := by
  have h : i < es.length := by omega
  simp [List.getD, List.getElem?_eq_getElem h]

theorem firstFree (hi : i < 56) (hf : es[i]? = some none) (hprev : ∀ j, j < i → es[j]? ≠ some none) :
    (List.range 56).find? (fun i => (es.getD i none).isNone) = some i := by
  rw [List.find?_range_eq_some]
  refine ⟨(free_iff hlen hi).2 hf, List.mem_range.2 hi, fun j hj => ?_⟩
  rw [Bool.not_eq_true', Bool.eq_false_iff]
  exact fun h => hprev j hj ((free_iff hlen (by omega)).1 h)

theorem noneFree (h : ∀ i, i < 56 → es[i]? ≠ some none) : (List.range 56).find? (fun i => (es.getD i none).isNone) = none := by
  rw [List.find?_eq_none]
  intro i hi hn
  exact h i (List.mem_range.1 hi) ((free_iff hlen (List.mem_range.1 hi)).1 hn)

end

/-! ### O50 -/

theorem upd_eq_set {α : Type} [Inhabited α] {xs : List α} {i : Nat} (hi : i < xs.length) (f : α → α) : upd xs i f = xs.set i (f (nth xs i)) := by
  simp [upd, nth, List.modify_eq_set_getElem?, List.getElem?_eq_getElem hi]

theorem upd_map_some {es : List (Option ErrEntry)} {i : Nat} {e : ErrEntry} (h : es[i]? = some (some e)) (f : ErrEntry → ErrEntry) :
    upd es i (Option.map f) = es.set i (some (f e)) := by
  rw [upd, List.modify_eq_set_getElem?, h]
  rfl

theorem ErrLog.fatal_iff (l : ErrLog) : l.fatal = true ↔ ∃ e, some e ∈ l.entries ∧ e.cls = 3 := by
  rw [ErrLog.fatal, List.any_eq_true]
  constructor
  · rintro ⟨_ | e, he, hc⟩
    · cases hc
    · exact ⟨e, he, by simpa using hc⟩
  · rintro ⟨e, he, hc⟩
    exact ⟨some e, he, by simpa using hc⟩

/-- An entry written FATAL is a FATAL entry of the log. -/
theorem fatal_of_set {l : ErrLog} {es : List (Option ErrEntry)} {i : Nat} {e : ErrEntry} (hl : l.entries = es.set i (some e)) (hi : i < es.length)
    (hc : e.cls = 3) : l.fatal = true :=
  l.fatal_iff.2 ⟨e, by rw [hl]; exact List.mem_set hi _, hc⟩

theorem findEntry_used {l : ErrLog} {blk code inst i : Nat} (h : findEntry l.entries blk code inst = some i) : ∃ e, l.entries[i]? = some (some e) := by
  obtain ⟨hi, hp, -⟩ := List.findIdx?_eq_some_iff_getElem.1 h
  cases he : l.entries[i] with
  | none => rw [he] at hp; cases hp
  | some e => exact ⟨e, by rw [List.getElem?_eq_getElem hi, he]⟩

section
variable {l : ErrLog} (hlen : l.entries.length = 64)
include hlen

/-- A general entry that is not free is in use. -/
theorem used_of_not_free (h : ∀ i, i < 56 → l.entries[i]? ≠ some none) {i : Nat} (hi : i < 56) : ∃ e, l.entries.getD i none = some e := by
  cases he : l.entries.getD i none with
  | none => exact absurd ((free_iff hlen hi).1 (by rw [he]; rfl)) (h i hi)
  | some e => exact ⟨e, rfl⟩

/-- After a FATAL detection the log holds a FATAL entry. -/
theorem ErrLog.detect_fatal (hcls : ∀ e, some e ∈ l.entries → e.cls < 4) (blk code inst detail : Nat) (tb : BitVec 64) :
    (l.detect 3 blk code inst detail tb none).fatal = true := by
  cases hfind : findEntry l.entries blk code inst with
  | some i =>
    obtain ⟨e, he⟩ := findEntry_used hfind
    have hlt := hcls e (List.mem_of_getElem? he)
    rw [ErrLog.detect_again hfind]
    exact fatal_of_set (upd_map_some he _) (List.getElem?_eq_some_iff.1 he).1 (show max e.cls 3 = 3 by omega)
  | none =>
    cases hfree : (List.range 56).find? (fun i => (l.entries.getD i none).isNone) with
    | some i =>
      rw [ErrLog.detect_free hfind hfree]
      have hi := List.mem_range.1 (List.mem_of_find?_eq_some hfree)
      exact fatal_of_set (i := i) rfl (by omega) rfl
    | none =>
      cases hp : preemptIdx l.entries with
      | some i =>
        have hi : i < 56 := preemptFold_lt hp
        rw [ErrLog.detect_preempts hfind hfree rfl hp]
        exact fatal_of_set (i := i) rfl (by omega) rfl
      | none =>
        have hused : ∀ i, i < 56 → l.entries[i]? ≠ some none := fun i hi hn =>
          (List.find?_eq_none.1 hfree) i (List.mem_range.2 hi) ((free_iff hlen hi).2 hn)
        obtain ⟨e, he⟩ := used_of_not_free hlen hused (i := 0) (by omega)
        have hc := (preemptFold_none l.entries 56).1 hp 0 (by omega) e he
        rw [ErrLog.detect_overflow hfind hfree (.inr hp)]
        exact (ErrLog.fatal_iff _).2 ⟨e, List.mem_of_getElem? ((used_iff hlen (by omega)).1 he), hc⟩

end

/-- Settles O50: by the rule that takes the detection; the state changes by the frame of `logK`. -/
theorem detectionsFollowTheFiveRules : Obligations.DetectionsFollowTheFiveRules := by
  unfold Obligations.DetectionsFollowTheFiveRules
  rintro s cls blk code inst detail kpr l t rfl rfl hlen hcnt hcls - hall
  rw [State.logK_err]
  refine ⟨?_, fun i e hfind he => ?_, fun hfind => ⟨?_, ?_, fun hkpr hfull => ?_⟩, fun hne => ?_, ?_, ?_⟩
  · rw [ErrLog.detect_cnt]
    exact upd_eq_set (by omega) _
  · rw [ErrLog.detect_again hfind]
    refine ⟨e.again cls detail s.tb.count, upd_map_some he _, rfl, rfl, rfl, rfl, ?_, rfl, rfl, rfl⟩
    simp [ErrEntry.again]
  · rintro src rfl
    rw [ErrLog.detect_keeper hfind]
    exact ⟨rfl, rfl, rfl⟩
  · rintro i rfl hi hf hprev
    rw [ErrLog.detect_free hfind (firstFree hlen hi hf hprev)]
    exact ⟨rfl, rfl, rfl⟩
  · subst hkpr
    have hnone := noneFree hlen hfull
    refine ⟨?_, fun hc => ?_, ?_, ?_⟩
    · by_cases ho : cls ≠ 3 ∨ preemptIdx s.err.entries = none
      · rw [ErrLog.detect_overflow hfind hnone ho]
        rfl
      · simp only [not_or, not_not, ← ne_eq] at ho
        obtain ⟨i, hi⟩ := Option.ne_none_iff_exists'.1 ho.2
        rw [ErrLog.detect_preempts hfind hnone ho.1 hi]
        rfl
    · rw [ErrLog.detect_overflow hfind hnone (.inl hc)]
      exact ⟨rfl, rfl⟩
    · rintro rfl hfatal
      have hp : preemptIdx s.err.entries = none :=
        (preemptFold_none _ 56).2 fun i hi e he => hfatal i e hi ((used_iff hlen hi).1 he)
      rw [ErrLog.detect_overflow hfind hnone (.inr hp)]
      exact ⟨rfl, rfl⟩
    · rintro i e rfl hi he hle hleast
      have hp : preemptIdx s.err.entries = some i :=
        (preemptFold_least ((used_iff hlen hi).2 he) hle fun j f hj hji hf => hleast j f hj hji ((used_iff hlen hj).1 hf)).1 hi
      rw [ErrLog.detect_preempts hfind hnone rfl hp]
      exact ⟨rfl, rfl⟩
  · refine State.logK_irq (Bool.not_eq_false _ ▸ fun ht => hne (ErrLog.detect_not_taken ht _ _)) detail
  · rintro rfl rfl
    exact ⟨ErrLog.detect_fatal hlen hall .., State.logK_aer ..⟩
  · rw [State.logK_frame]
    exact ⟨rfl, rfl, rfl, rfl, rfl, rfl, rfl⟩

/-! ### O51 -/

theorem Alarm.code_le_raise (a : Alarm) (lv : Nat) : a.code ≤ (a.raise lv).code := by
  unfold Alarm.raise
  split
  · rfl
  · cases a <;> decide

/-- The record of a source that is raised at a level (R464). -/
def SrcRec.raised (r : SrcRec) (lv : Nat) (tb : BitVec 64) : SrcRec :=
  { count := satAdd 0xFFFFFFFF r.count 1, level := lv, firstTb := if r.count = 0 then tb else r.firstTb, lastTb := tb }

theorem State.event_kpr (s : State) (type source : Nat) (tag : Option Nat) (tb : BitVec 64) (payload : List Byte) :
    (s.event type source tag tb payload).kpr = s.kpr := by rw [State.event_frame]

theorem State.raiseGlb_kpr (s : State) (b : Nat) : (s.raiseGlb b).kpr = s.kpr := by rw [(State.raiseGlb_frame s b).1]

/-- What a raise leaves in Keeper, whatever the log and the event did. -/
theorem State.raiseAlarm_kpr (s : State) (src d : Nat) :
    (s.raiseAlarm src d).kpr.src = upd s.kpr.src src (fun r => r.raised (s.kpr.level src) s.tb.count) ∧
      (s.raiseAlarm src d).kpr.srcSeen = s.kpr.srcSeen ||| 2 ^ src ∧ (s.raiseAlarm src d).kpr.alarm = s.kpr.alarm.raise (s.kpr.level src) ∧
      (s.raiseAlarm src d).kpr.dbg = (if s.kpr.level src = 0 then s.kpr.dbg else .closed) ∧ (s.raiseAlarm src d).kpr.slots = s.kpr.slots := by
  unfold State.raiseAlarm State.alarmEvent
  dsimp only
  rw [State.raiseGlb_kpr, State.event_kpr]
  dsimp only
  by_cases h2 : s.kpr.level src = 2
  · rw [if_pos h2]
    exact ⟨rfl, rfl, rfl, rfl, rfl⟩
  · rw [if_neg h2]
    exact ⟨rfl, rfl, rfl, rfl, rfl⟩

theorem State.raiseAlarm_rest (s : State) (src d : Nat) :
    (s.raiseAlarm src d).cfg = s.cfg ∧ (s.raiseAlarm src d).units = s.units ∧ (s.raiseAlarm src d).rsv = s.rsv := by
  unfold State.raiseAlarm State.alarmEvent
  dsimp only
  rw [(State.raiseGlb_frame _ 1).1, State.event_frame, State.logK_frame]
  exact ⟨rfl, rfl, rfl⟩

/-- Settles O51: from what a raise leaves in Keeper. -/
theorem alarmNeverFalls : Obligations.AlarmNeverFalls := by
  unfold Obligations.AlarmNeverFalls
  rintro s src d r t rfl hlt rfl
  obtain ⟨hsrc, hseen, halarm, hdbg, hslots⟩ := s.raiseAlarm_kpr src d
  obtain ⟨hcfg, hunits, hrsv⟩ := s.raiseAlarm_rest src d
  rw [halarm, hsrc, hseen, hdbg]
  refine ⟨Alarm.code_le_raise .., fun h => by rw [h]; rfl, fun h => ?_, nth_upd_self _ hlt, fun k hk => nth_upd_of_ne _ hk, ?_, fun h => if_neg h,
    fun h => if_pos h, ?_, hslots, hcfg, hunits, hrsv⟩
  · unfold Alarm.raise
    rw [if_neg h]
    cases s.kpr.alarm <;> rfl
  · simp [bit, Nat.testBit_or, Nat.testBit_two_pow_self]
  · exact (State.raiseGlb_frame _ 1).2

/-! ### O52 -/

/-- Settles O52: ERROR_READ through its report, ERROR_ACK through the entries of its mask. -/
theorem errorCommandsComplete : Obligations.ErrorCommandsComplete := by
  unfold Obligations.ErrorCommandsComplete
  intro s
  refine ⟨?_, ?_, fun i => rfl⟩
  · rintro q e first count res rfl rfl hrdy hgood rfl
    refine ⟨fun hlen w => ?_, ?_⟩
    · exact show execErrorRead q w s = _ from runCmd_done hrdy hgood (.inl rfl) (if_pos hlen) (.inl (by decide))
    · rintro bs hlen hbus rfl hbs
      refine ⟨?_, ?_⟩
      · exact show execErrorRead q true s = _ from
          runCmd_done hrdy hgood (.inl rfl) ((if_neg hlen).trans (withReport_written hbs hbus)) (.inl (by decide))
      · exact show execErrorRead q false s = _ from
          runCmd_done hrdy hgood (.inl rfl) ((if_neg hlen).trans (withReport_failed hbs hbus)) (.inl (by decide))
  · rintro q e is hrdy hgood rfl
    exact show execErrorAck q s = _ from runCmd_done hrdy hgood (.inl rfl) rfl (.inl (by decide))

end Sys2Proof.Machine
end


-- ==== Sys2Proof/Proofs/DmaChannels.lean ====
section
/-! PROOFS. The control of a DMA channel (R331, R340, R349, R351, R352) and the instructions of its program (R333 to R345). -/

namespace Sys2Proof.Machine

/-! ### A write of DMA_CTL with one bit set or cleared -/

theorem Word.bit_clear (v m : Word) (n : Nat) : bit (v &&& ~~~m).toNat n = (bit v.toNat n && !bit m.toNat n) := by
  simp only [bit, BitVec.testBit_toNat, BitVec.getLsbD_and, BitVec.getLsbD_not]
  by_cases h : n < 32
  · simp [h]
  · simp [BitVec.getLsbD_of_ge _ _ (Nat.le_of_not_lt h)]

theorem Word.fld_clear (v m : Word) {hi lo : Nat} (h : m.toNat < 2 ^ lo) : fld (v &&& ~~~m).toNat hi lo = fld v.toNat hi lo := by
  have hshift : (v &&& ~~~m).toNat >>> lo = v.toNat >>> lo := by
    apply Nat.eq_of_testBit_eq
    intro i
    have hm : bit m.toNat (lo + i) = false := Nat.testBit_lt_two_pow (h.trans_le (Nat.pow_le_pow_right (by decide) (by omega)))
    rw [Nat.testBit_shiftRight, Nat.testBit_shiftRight]
    exact (Word.bit_clear v m (lo + i)).trans (by rw [hm, Bool.not_false, Bool.and_true]; rfl)
  rw [fld, fld, hshift]

section
variable {x : DmaCh} {w : Nat}

/-- ENABLE on an IDLE channel starts it with the fields written (R331). -/
theorem DmaCh.ctl_of_idle (hst : x.st = .idle) (h0 : bit w 0 = true) :
    x.ctl w = { x with prio := fld w 3 2, pause := bit w 1, progSpace := fld w 4 4 }.start := by
  simp [DmaCh.ctl, DmaCh.runs, hst, h0]

/-- A running channel keeps PROG_SPACE; ENABLE 0 stops it (R351). -/
theorem DmaCh.ctl_of_running (hst : x.st = .running ∨ x.st = .waiting) :
    x.ctl w = if bit w 0 then { x with prio := fld w 3 2, pause := bit w 1 } else { x with prio := fld w 3 2, pause := bit w 1 }.stop := by
  rcases hst with hst | hst <;> simp [DmaCh.ctl, DmaCh.runs, hst]

/-- PAUSE 0 lets a paused channel go on as it was (R352). -/
theorem DmaCh.ctl_of_paused (hst : x.st = .paused) (h0 : bit w 0 = true) (h1 : bit w 1 = false) :
    x.ctl w = { x with prio := fld w 3 2, pause := false, st := if x.wasWaiting then .waiting else .running } := by
  cases hw : x.wasWaiting <;> simp [DmaCh.ctl, DmaCh.runs, hst, h0, h1, hw]

end

theorem State.dmaCtl_on {s : State} {c : Nat} (hon : s.domOn 45 = true) (hc : c < 32) {x : DmaCh} (hx : nth s.dma.ch c = x) {v : Word} {f : DmaCh → DmaCh}
    (hf : x.ctl v.toNat = f x) : s.tlp.dmaCtl c v = (s.tlp.updDma c f).dmaPump := by
  rw [State.dmaCtl, if_pos (by rw [show s.tlp.domOn 45 = true from hon]; simpa using hc), State.updDma_congr (s := s.tlp) hx hf]

theorem State.dmaCtl_off {s : State} (hoff : s.domOn 45 = false) (c : Nat) (v : Word) : s.tlp.dmaCtl c v = s.tlp := by
  rw [State.dmaCtl, if_neg (by rw [show s.tlp.domOn 45 = false from hoff]; simp)]

theorem execDmaStoppingEnd_stopped {s : State} {c : Nat} {x : DmaCh} (hx : nth s.dma.ch c = x) (hst : x.st = .stopping) {f : DmaCh → DmaCh}
    (hf : x.stopped = f x) : execDmaStoppingEnd c s = .next (s.updDma c f).dmaPump := by
  rw [execDmaStoppingEnd, hx, if_neg (by simp [hst]), State.updDma_congr hx hf]

/-! ### Responses -/

section
variable {s : State} {c : Nat} {x : DmaCh} (hx : nth s.dma.ch c = x) (hc : c < 32) (hon : s.domOn 45 = true) {r : DmaReq}
include hx hc hon

/-- The response of a request made before the channel stopped is dropped (R349, R351). -/
theorem State.dmaResponse_drained {host : Bool} {front rest : List (DmaReq × Bool)} (hd : x.drain = front ++ (r, host) :: rest) (hfront : ∀ d ∈ front, d.1 ≠ r)
    (st : RespStatus) : s.dmaResponse c r st = (s.updDma c (fun x => { x with drain := front ++ rest })).dmaPump := by
  have hidx : x.drain.findIdx? (fun d => d.1 == r) = some front.length := by
    rw [hd, List.findIdx?_append, List.findIdx?_eq_none_iff.2 (by simpa using hfront)]
    simp [List.findIdx?_cons]
  have herase : x.drain.eraseIdx front.length = front ++ rest := by
    rw [hd, List.eraseIdx_append_of_length_le (Nat.le_refl _)]
    simp
  unfold State.dmaResponse
  rw [if_neg (by simp [hon, hc]), hx, hidx]
  exact congrArg State.dmaPump (State.updDma_congr hx (by rw [herase]))

end

/-! ### O55 -/

/-- Settles O55: each write through what DMA_CTL makes of the channel, each response through the requests that drain. -/
theorem dmaControlCompletes : Obligations.DmaControlCompletes := by
  unfold Obligations.DmaControlCompletes
  refine ⟨fun s c v hoff => ?_, fun s c v x hx hc hlt hon => ⟨fun hst h1 => ?_, ?_, fun hst h0 => ?_, ?_, ?_, ?_, ?_, ?_⟩⟩
  · refine ⟨?_, ?_, ?_, ?_, ?_⟩
    · exact show execDmaEnable c v s = _ from congrArg _ (s.dmaCtl_off hoff c _)
    · exact show execDmaDisable c v s = _ from congrArg _ (s.dmaCtl_off hoff c _)
    · exact show execDmaPause c v s = _ from congrArg _ (s.dmaCtl_off hoff c _)
    · exact show execDmaUnpause c v s = _ from congrArg _ (s.dmaCtl_off hoff c _)
    · exact show execCreditAdd c v s = _ by rw [execCreditAdd, hoff]; rfl
  · refine show execDmaEnable c v s = _ from congrArg _ (State.dmaCtl_on hon hc hx ?_)
    rw [DmaCh.ctl_of_idle hst (by rw [Word.toNat_or_one]; exact bit_or_self ..), Word.toNat_or_one, fld_or_of_lt (by decide), fld_or_of_lt (by decide),
      bit_or_of_ne _ (by decide), h1]
  · rintro hst y rfl
    refine ⟨?_, fun h0 => ?_⟩
    · refine show execDmaDisable c v s = _ from congrArg _ (State.dmaCtl_on hon hc hx ?_)
      rw [DmaCh.ctl_of_running hst, Word.bit_clear, Word.fld_clear _ _ (by decide), Word.bit_clear]
      simp [show bit 1 0 = true by decide, show bit 1 1 = false by decide]
    · refine show execDmaPause c v s = _ from congrArg _ (State.dmaCtl_on hon hc hx ?_)
      rw [DmaCh.ctl_of_running hst, Word.toNat_or_two, fld_or_of_lt (by decide), bit_or_self, bit_or_of_ne _ (by decide), h0]
      rfl
  · refine show execDmaUnpause c v s = _ from congrArg _ (State.dmaCtl_on hon hc hx ?_)
    rw [DmaCh.ctl_of_paused hst, Word.fld_clear _ _ (by decide)]
    · rw [Word.bit_clear, h0]; decide
    · rw [Word.bit_clear]; exact Bool.and_false _
  · exact fun hst hrst => ⟨fun hh => show execDmaStoppingEnd c s = _ from execDmaStoppingEnd_stopped hx hst (by simp [DmaCh.stopped, hrst, hh]),
      fun hh => show execDmaStoppingEnd c s = _ from execDmaStoppingEnd_stopped hx hst (by simp [DmaCh.stopped, hrst, hh])⟩
  · exact fun hst hrst => ⟨fun hh => show execDmaStoppingEnd c s = _ from execDmaStoppingEnd_stopped hx hst (by simp [DmaCh.stopped, hrst, hh]),
      fun hh => show execDmaStoppingEnd c s = _ from execDmaStoppingEnd_stopped hx hst (by simp [DmaCh.stopped, hrst, hh])⟩
  · exact show execCreditAdd c v s = _ by rw [execCreditAdd, hon]; rfl
  · intro r st hd
    have hnone : x.drain.findIdx? (fun d => d.1 == r) = none := List.findIdx?_eq_none_iff.2 (by simpa using hd)
    refine show execDmaBurstResponse c r st s = _ from congrArg Host.Outcome.next ((if_neg (by simp [hon, hc])).trans ?_)
    split
    · next j hj =>
      rw [hx, hnone] at hj
      exact nomatch hj
    · rfl
  · intro r st host front rest hd hfront
    exact show execDmaBurstResponse c r st s = _ from congrArg _ (State.dmaResponse_drained hx hc hon hd hfront st)

/-! ### The instructions -/

section
variable {s : State} {c : Nat} {x : DmaCh} {i : DmaIns} (h : DmaReady s c x i)
include h

/-- The row of the instruction at PC does what its rule says. -/
theorem dmaRow_runs {p : DmaIns → Bool} {f : State → DmaCh → DmaIns → State} {t : State} (hp : p i = true) (hf : f s x i = t) :
    dmaRow s c p f = .next t.dmaPump := by
  rw [dmaRow_ready h hp, hf]

/-- A WAIT that is judged again is judged as it was first (R340). -/
theorem execDmaWaitResume_eq {t : State} (hst : x.st = .waiting) (hop : i.op = 3)
    (ht : (if i.a = 0 then s.waitSeg c x i else if i.a = 1 then s.waitCredit c x else s.waitTb c x i) = t) :
    execDmaWaitResume c s = .next t.dmaPump := by
  rw [execDmaWaitResume, h.chan, if_neg (by simp [hst])]
  exact dmaRow_runs h (by simp [hop]) ht

end

section
variable {s : State} {c : Nat} {x : DmaCh} {i : DmaIns}

theorem State.waitSeg_of_moves (hm : x.moves ≠ []) : s.waitSeg c x i = s.dmaHold c 0 := if_pos (by simpa using hm)

section
variable (hm : x.moves = [])
include hm

/-- The segment is stored: WAIT SEG goes on (R340). -/
theorem State.waitSeg_met (h : s.segMet i.c (x.g64 (fld i.b 2 0) % 2 ^ 32) (x.g64 (fld i.b 5 3) % 2 ^ 32) = some true) :
    s.waitSeg c x i = s.dmaGo c (x.pc + 1) := by
  rw [State.waitSeg, if_neg (by simp [hm]), h]

/-- The segment can never be stored: WAIT SEG halts or branches (R340). -/
theorem State.waitSeg_never (h : s.segMet i.c (x.g64 (fld i.b 2 0) % 2 ^ 32) (x.g64 (fld i.b 5 3) % 2 ^ 32) = some false) :
    s.waitSeg c x i = if i.d = 0xFFFFFFFF then s.dmaHalt c 9 0 x.pc 0 else s.dmaGo c i.d := by
  rw [State.waitSeg, if_neg (by simp [hm]), h]

/-- The segment is still to come: WAIT SEG waits (R340). -/
theorem State.waitSeg_notYet (h : s.segMet i.c (x.g64 (fld i.b 2 0) % 2 ^ 32) (x.g64 (fld i.b 5 3) % 2 ^ 32) = none) :
    s.waitSeg c x i = s.dmaHold c 0 := by
  rw [State.waitSeg, if_neg (by simp [hm]), h]

end

end

section
variable {s s1 : State} {c : Nat} {x : DmaCh} {i : DmaIns} (h : DmaReady s c x i) (hop : i.op = 1) {sr dr len : Nat} {g1 g2 : List (BitVec 64)}
  (hsr : sr = fld i.b 2 0) (hdr : dr = fld i.b 5 3) (hlen : len = if bit i.c 0 then x.g64 (fld i.c 3 1) % 2 ^ 32 else i.d)
  (hg1 : g1 = if bit i.a 4 then x.g.set sr (x.g.getD sr 0 + BitVec.ofNat 64 len) else x.g)
  (hg2 : g2 = if bit i.a 5 then g1.set dr (g1.getD dr 0 + BitVec.ofNat 64 len) else g1) (hs1 : s1 = s.updDma c (fun y => { y with g := g2 }))
include h hop hsr hdr hlen hg1 hg2 hs1

/-- A MOVE of no bytes advances its registers alone (R336). -/
theorem execDmaMove_empty (h0 : len = 0) : execDmaMove c s = .next (s1.dmaGo c (x.pc + 1)).dmaPump := by
  subst hsr hdr hlen hg1 hg2 hs1
  refine dmaRow_runs h (by simp [hop]) ?_
  dsimp only
  rw [if_pos h0]
  exact congrArg (fun t : State => t.dmaGo c _) (State.updDma_congr h.chan rfl)

section
variable (h0 : len ≠ 0)
include h0

/-- A MOVE whose ranges its spaces allow is queued (R335). -/
theorem execDmaMove_queued (hs : (spaceOf (fld i.a 1 0)).badAt false (x.g64 sr) len = none) (hd : (spaceOf (fld i.a 3 2)).badAt true (x.g64 dr) len = none) :
    execDmaMove c s = .next ((s1.updDma c (fun y => { y with moves := y.moves ++
      [{ index := x.pc, srcSp := spaceOf (fld i.a 1 0), dstSp := spaceOf (fld i.a 3 2), src := x.g64 sr, dst := x.g64 dr, len := len,
         desc := spaceOf (fld i.a 1 0) == .rsv && spaceOf (fld i.a 3 2) == .rsv && x.g64 sr < x.g64 dr && x.g64 dr < x.g64 sr + len }] })).dmaGo c (x.pc + 1)).dmaPump := by
  subst hsr hdr hlen hg1 hg2 hs1
  refine dmaRow_runs h (by simp [hop]) ?_
  dsimp only
  rw [if_neg h0, hs, hd]
  exact congrArg (fun t : State => (t.updDma c _).dmaGo c _) (State.updDma_congr h.chan rfl)

/-- A source outside what its space allows halts the channel (R333). -/
theorem execDmaMove_badSource {a : Nat} (hs : (spaceOf (fld i.a 1 0)).badAt false (x.g64 sr) len = some a) :
    execDmaMove c s = .next (s1.dmaHalt c 3 0 x.pc a).dmaPump := by
  subst hsr hdr hlen hg1 hg2 hs1
  refine dmaRow_runs h (by simp [hop]) ?_
  dsimp only
  rw [if_neg h0, hs]
  exact congrArg (fun t : State => t.dmaHalt c 3 0 x.pc a) (State.updDma_congr h.chan rfl)

/-- A destination outside what its space allows halts the channel (R333). -/
theorem execDmaMove_badDestination {a : Nat} (hs : (spaceOf (fld i.a 1 0)).badAt false (x.g64 sr) len = none)
    (hd : (spaceOf (fld i.a 3 2)).badAt true (x.g64 dr) len = some a) : execDmaMove c s = .next (s1.dmaHalt c 3 1 x.pc a).dmaPump := by
  subst hsr hdr hlen hg1 hg2 hs1
  refine dmaRow_runs h (by simp [hop]) ?_
  dsimp only
  rw [if_neg h0, hs, hd]
  exact congrArg (fun t : State => t.dmaHalt c 3 1 x.pc a) (State.updDma_congr h.chan rfl)

end
end

/-- A LOAD that sets G[RD] at once sets it from the registers the channel holds (R343). -/
theorem State.dmaSet_eq {s : State} {c : Nat} {x : DmaCh} (hx : nth s.dma.ch c = x) (i : DmaIns) (v : BitVec 64) :
    s.dmaSet c x i v = (s.updDma c (fun y => { y with g := x.g.set (fld i.b 2 0) v })).dmaGo c (x.pc + 1) :=
  congrArg (fun t : State => t.dmaGo c _) (State.updDma_congr hx rfl)

/-- Settles O56: each row through its rule, at the instruction the channel holds. -/
theorem dmaInstructionsComplete : Obligations.DmaInstructionsComplete := by
  unfold Obligations.DmaInstructionsComplete
  intro s c x i
  refine ⟨?_, ?_, ?_, ?_, ?_, ?_, ?_, ?_, ?_, ?_, ?_⟩
  · intro h hop sr dr len g1 g2 s1 hsr hdr hlen hg1 hg2 hs1
    exact ⟨fun h0 => show execDmaMove c s = _ from execDmaMove_empty h hop hsr hdr hlen hg1 hg2 hs1 h0,
      fun h0 hs hd => show execDmaMove c s = _ from execDmaMove_queued h hop hsr hdr hlen hg1 hg2 hs1 h0 hs hd,
      fun a h0 hs => show execDmaMove c s = _ from execDmaMove_badSource h hop hsr hdr hlen hg1 hg2 hs1 h0 hs,
      fun a h0 hs hd => show execDmaMove c s = _ from execDmaMove_badDestination h hop hsr hdr hlen hg1 hg2 hs1 h0 hs hd⟩
  · intro h hop ha hm
    exact show execDmaWaitSeg c s = _ from dmaRow_runs h (by simp [hop, ha]) (State.waitSeg_of_moves hm)
  · intro h hop hm
    have hm' : x.moves.isEmpty = false := by simpa using hm
    refine ⟨fun ha => ?_, fun ha => ?_, fun ha => ?_⟩
    · exact show execDmaSignalHalf c s = _ from dmaRow_runs h (by simp [hop, ha]) (if_pos (by rw [hm']; rfl))
    · exact show execDmaSignalFull c s = _ from dmaRow_runs h (by simp [hop, ha]) (if_pos (by rw [hm']; rfl))
    · exact show execDmaSignalRelease c s = _ from dmaRow_runs h (by simp [hop, ha]) (if_pos (by rw [hm']; rfl))
  · rintro h hop ha hm met hmet
    refine ⟨fun ht => ?_, fun hf hd => ?_, fun hf hd => ?_, fun hn => ?_⟩
    · have hgo := State.waitSeg_met (c := c) hm (hmet.symm.trans ht)
      exact ⟨show execDmaWaitSeg c s = _ from dmaRow_runs h (by simp [hop, ha]) hgo,
        fun hst => show execDmaWaitResume c s = _ from execDmaWaitResume_eq h hst hop ((if_pos ha).trans hgo)⟩
    · exact show execDmaWaitSeg c s = _ from
        dmaRow_runs h (by simp [hop, ha]) ((State.waitSeg_never hm (hmet.symm.trans hf)).trans (if_pos hd))
    · exact show execDmaWaitSeg c s = _ from
        dmaRow_runs h (by simp [hop, ha]) ((State.waitSeg_never hm (hmet.symm.trans hf)).trans (if_neg hd))
    · exact show execDmaWaitSeg c s = _ from dmaRow_runs h (by simp [hop, ha]) (State.waitSeg_notYet hm (hmet.symm.trans hn))
  · intro h hop ha
    refine ⟨fun hc => ?_, fun hc => ?_⟩
    · have hcredit : s.waitCredit c x = _ := if_pos hc
      exact ⟨show execDmaWaitCredit c s = _ from dmaRow_runs h (by simp [hop, ha]) hcredit,
        fun hst => show execDmaWaitResume c s = _ from execDmaWaitResume_eq h hst hop ((if_neg (by omega)).trans ((if_pos ha).trans hcredit))⟩
    · exact show execDmaWaitCredit c s = _ from dmaRow_runs h (by simp [hop, ha]) (if_neg (by omega))
  · intro h hop ha
    refine ⟨fun hle => ?_, fun hlt => ?_⟩
    · have htb : s.waitTb c x i = _ := if_pos hle
      exact ⟨show execDmaWaitTb c s = _ from dmaRow_runs h (by simp [hop, ha]) htb,
        fun hst => show execDmaWaitResume c s = _ from execDmaWaitResume_eq h hst hop ((if_neg (by omega)).trans ((if_neg (by omega)).trans htb))⟩
    · exact show execDmaWaitTb c s = _ from dmaRow_runs h (by simp [hop, ha]) (if_neg (Nat.not_le.2 hlt))
  · intro h hop hm
    have hm' : ¬ (!x.moves.isEmpty) = true := by simp [hm]
    refine ⟨fun ha => ?_, fun ha => ?_, ?_, fun ha hok => ?_⟩
    · exact show execDmaSignalHalf c s = _ from dmaRow_runs h (by simp [hop, ha]) (if_neg hm')
    · exact show execDmaSignalFull c s = _ from dmaRow_runs h (by simp [hop, ha]) (if_neg hm')
    · rintro r ha hok hr
      refine ⟨?_, ?_⟩
      · rintro t n rfl
        refine show execDmaSignalRelease c s = _ from dmaRow_runs h (by simp [hop, ha]) ((if_neg hm').trans ((if_neg (by simp [hok])).trans ?_))
        rw [← hr]
        rfl
      · rintro rfl
        refine show execDmaSignalRelease c s = _ from dmaRow_runs h (by simp [hop, ha]) ((if_neg hm').trans ((if_neg (by simp [hok])).trans ?_))
        rw [← hr]
    · exact show execDmaSignalRelease c s = _ from dmaRow_runs h (by simp [hop, ha]) ((if_neg hm').trans (if_pos (by simp [hok])))
  · intro h hop
    refine ⟨fun ha => ?_, fun ha => ?_, fun ha he => ?_, fun ha he => ?_, fun a ha haddr => ⟨fun hal hb => ?_, fun b hal hb => ?_, fun hal => ?_⟩⟩
    · exact show execDmaLoadImm c s = _ from dmaRow_runs h (by simp [hop, ha]) (State.dmaSet_eq h.chan ..)
    · exact show execDmaLoadAdd c s = _ from dmaRow_runs h (by simp [hop, ha]) (State.dmaSet_eq h.chan ..)
    · exact show execDmaLoadShl c s = _ from
        dmaRow_runs h (by simp [hop, ha]) ((if_neg (Nat.not_lt.2 he)).trans (State.dmaSet_eq h.chan ..))
    · refine show execDmaBadInstr c s = _ from ?_
      rw [execDmaBadInstr, h.at_pc]
      dsimp only
      rw [if_pos (by simp [hop, ha, he]), h.chan]
    all_goals
      subst haddr
      refine show execDmaLoadMem c s = _ from dmaRow_runs h (by simp [hop, ha]) ?_
    · refine (if_neg (not_not.2 hal)).trans ?_
      rw [hb]
    · refine (if_neg (not_not.2 hal)).trans ?_
      rw [hb]
    · exact if_pos hal
  · intro h hop
    refine ⟨fun hm => ?_, fun hm hor => ?_, fun hm ha hw => ?_⟩
    · exact show execDmaFence c s = _ from dmaRow_runs h (by simp [hop]) (if_pos (by simpa using hm))
    · exact show execDmaFence c s = _ from
        dmaRow_runs h (by simp [hop]) ((if_neg (by simp [hm])).trans (if_neg (by rcases hor with ha | hw <;> simp [*])))
    · exact show execDmaFence c s = _ from dmaRow_runs h (by simp [hop]) ((if_neg (by simp [hm])).trans (if_pos (by simp [ha, hw])))
  · intro h hop
    refine ⟨fun hm => ?_, fun hm => ?_⟩
    · exact show execDmaEnd c s = _ from dmaRow_runs h (by simp [hop]) (if_pos (by simpa using hm))
    · exact show execDmaEnd c s = _ from dmaRow_runs h (by simp [hop]) (if_neg (by simp [hm]))
  · intro hx hi hok
    refine show execDmaBadInstr c s = _ from ?_
    rw [execDmaBadInstr, hi]
    dsimp only
    rw [if_pos (by simp [hok]), hx]

end Sys2Proof.Machine
end


-- ==== Sys2Proof/Proofs/SecurityAndPins.lean ====
section
/-! PROOFS. Keeper's commands and events, the TAP (R327, R328, R454 to R465), and the outputs (R443 to R445, R461, R491). -/

namespace Sys2Proof.Machine

/-! ### The outputs -/

/-- An output of a domain is high-impedance without power, in reset and with its domain off, but for TDO (R444). -/
theorem State.pin_released {s : State} {o : Output}
    (h : s.pwr.aon = false ∨ o ≠ .tdo ∧ (s.pwr.resetN = false ∨ s.pwr.perstN = false ∨ s.domOn o.domain = false)) : s.pin o = .highZ := by
  unfold State.pin
  rcases h with h | ⟨hne, h⟩
  · rw [if_pos (by simp [h])]
  · by_cases ha : s.pwr.aon = true
    · rw [if_neg (by simp [ha]), if_neg hne, if_pos (by rcases h with h | h | h <;> simp [h])]
    · rw [if_pos (by simpa using ha)]

/-- An output that nothing holds does what its function says (R445). -/
theorem State.pin_acts {s : State} {o : Output} (ha : s.pwr.aon = true)
    (h : o = .tdo ∨ s.pwr.resetN = true ∧ s.pwr.perstN = true ∧ s.domOn o.domain = true ∧ s.kpr.tapPins = false) : s.pin o = s.pinOn o := by
  unfold State.pin
  rw [if_neg (by simp [ha])]
  rcases h with rfl | ⟨hr, hp, hd, ht⟩
  · exact if_pos rfl
  · split
    · rfl
    · rw [if_neg (by simp [hr, hp, hd]), if_neg (by simp [ht])]

theorem State.lineLevel_of_level {s : State} {o : Output} {b : Bool} (h : s.pin o = .ofLevel b) : s.lineLevel o = some b := by
  unfold State.lineLevel
  rw [h]
  cases b <;> rfl

/-- An open-drain output's line is low while it acts and otherwise at its pull-up. -/
theorem State.lineLevel_of_openDrain {s : State} {o : Output} {b : Bool} (h : s.pin o = if b then .highZ else .low) (hidle : o.idleLevel s.pwr.aon = some true) :
    s.lineLevel o = some b := by
  unfold State.lineLevel
  rw [h]
  cases b
  · rfl
  · exact hidle

/-- Settles O48: through what a pin shows. -/
theorem outputsAreReleased : Obligations.OutputsAreReleased := by
  unfold Obligations.OutputsAreReleased
  intro s o
  refine ⟨fun h => ?_, State.pin_acts, fun ha hr hp hd ht => ?_, fun ha hr hp hd ht => ?_⟩
  · have hz := State.pin_released h
    exact ⟨hz, by rw [State.lineLevel, hz]⟩
  · have hact : ∀ o : Output, o.domain = 49 → s.pin o = s.pinOn o := fun o ho => State.pin_acts ha (.inr ⟨hr, hp, by rw [ho]; exact hd, ht⟩)
    refine ⟨State.lineLevel_of_openDrain (hact _ rfl) (congrArg some ha), State.lineLevel_of_openDrain ?_ rfl, State.lineLevel_of_openDrain ?_ rfl⟩
    · rw [hact _ rfl, State.pinOn]
      cases s.kpr.alarm <;> rfl
    · rw [hact _ rfl, State.pinOn]
      cases s.pcie.wakeN <;> rfl
  · have hact : ∀ o : Output, o.domain = 43 → s.pin o = s.pinOn o := fun o ho => State.pin_acts ha (.inr ⟨hr, hp, by rw [ho]; exact hd, ht⟩)
    exact ⟨State.lineLevel_of_level (hact _ rfl), fun i => State.lineLevel_of_level (hact _ rfl)⟩

/-! ### The security commands -/

/-- In LOCKDOWN and ZEROISED a command that Keeper refuses ends with SECURITY_DENIED, whichever row of its opcode it is (R301). -/
theorem runCmdSel_denied {s : State} {q op : Nat} {e : JEntry} {mine pre : Packet → Bool} {spans : List (Nat × Nat)} {body : State → JEntry → CmdOut}
    (h : CmdReady s q op e) (hm : mine e.pkt = true) (hp : PktGood e spans pre) (hk : keeperRefuses op = true) (ha : s.kpr.alarm ≠ .clear) :
    runCmdSel s q op mine spans pre body = .next (s.finish e.idx SECURITY_DENIED []) := by
  obtain ⟨hcur, hop, hdup, hready, -⟩ := h
  obtain ⟨hok, hpre⟩ := hp
  have hconclude := State.conclude_refused (s := s) (t := s) (e := e) (st := SECURITY_DENIED) (r := []) (by decide)
  simp [runCmdSel, hcur, hop, hdup, hready, hok, hpre, hm, hk, ha, refuse, hconclude]

section
variable {s : State} {q : Nat} {e : JEntry}

/-- The row of ALARM_POLICY concludes as its outcome says. -/
theorem execAlarmPolicy_ready (h : CmdReady s q 0x6B e) : execAlarmPolicy q s = .next (s.conclude e (alarmPolicyOut s e)) := by
  obtain ⟨hcur, hop, hdup, hready, -⟩ := h
  simp [execAlarmPolicy, hcur, hop, hdup, hready]

theorem padTo_length (n : Nat) (bs : List Byte) : (padTo n bs).length = n := by
  simp only [padTo, zeros, List.length_take, List.length_append, List.length_replicate]
  omega

theorem attestReport_ne_nil (k : KeySlot) (p : Packet) (mode : Nat) (rec digest : List Byte) : (attestReport s k p mode rec digest).1 ≠ [] :=
  List.append_ne_nil_of_left_ne_nil (List.ne_nil_of_length_eq_add_one (n := 271) (padTo_length 272 _)) _

theorem attestReport_busOk (k : KeySlot) (p : Packet) (mode : Nat) (rec digest : List Byte) : (attestReport s k p mode rec digest).2.busOk = s.busOk := rfl

/-- A report that is written completes the command with its length (R328). -/
theorem attestFinish_written (k : KeySlot) (mode : Nat) (rec digest : List Byte) (hbus : s.busOk = true) :
    attestFinish s e true k mode rec digest =
      .done ((attestReport s k e.pkt mode rec digest).2.hostWrite (bulkAddr e.pkt) (attestReport s k e.pkt mode rec digest).1) OK (leBytes 4 368) := by
  have hne := attestReport_ne_nil (s := s) k e.pkt mode rec digest
  have hbus' := (attestReport_busOk k e.pkt mode rec digest).trans hbus
  unfold attestFinish
  revert hne hbus'
  generalize attestReport s k e.pkt mode rec digest = r
  intro hne hbus'
  exact withReport_written hne hbus'

/-- What KEY_PROVISION makes of a blob that has been unwrapped (R455, R456). -/
def provisioned (s : State) (slot : Nat) : Option KeySlot → CmdOut
  | none => refuse s SECURITY_DENIED
  | some k => .done (s.setSlot slot (some k)) OK (slotResult (s.setSlot slot (some k)) slot)

/-- A blob that unwraps fills its slot, one that does not is denied (R455, R456). -/
theorem execKeyProvisionWrite_unwraps {slot : Nat} {tbl b : List Byte} (hal : s.kpr.alarm = .clear) (hbus : s.busOk = true) (hslot : rd e.pkt 16 1 = slot)
    (hb : padTo (bulkLen e.pkt) tbl = b) (hmode : rd e.pkt 17 1 = 0) (hrdy : CmdReady s q 0x68 e)
    (hgood : PktGood e [(16, 1), (17, 1), (48, 16)]
      (fun p => pktIndex p == 0 && rd p 16 1 ≤ 2 && rd p 17 1 == 0 && bulkOk p && 64 ≤ bulkLen p && bulkLen p ≤ 1024))
    (hblob : blobOk slot (bulkLen e.pkt) b = true) (hdbg : s.kpr.dbg ≠ .openVendor) (hempty : s.kpr.slots.getD slot none = none)
    (hkek : slot = 2 ∨ (s.kpr.slots.getD 2 none).isSome = true) {t : State} {st : Nat} {r : List Byte} (hst : st ≠ STATE)
    (hu : provisioned s slot (unwrap s slot b) = .done t st r) : execKeyProvisionWrite q (some tbl) s = .next (t.finish e.idx st r) := by
  refine runCmdSel_done hrdy (by simp [hmode]) hgood (.inr hal) ?_ (.inl hst)
  refine (withTable_read e tbl _ hbus).trans ?_
  have hkek' : (decide (slot ≠ 2) && (s.kpr.slots.getD 2 none).isNone) = false := by
    rcases hkek with h | h
    · simp [h]
    · cases hs : s.kpr.slots.getD 2 none with
      | none => rw [hs] at h; cases h
      | some k => exact Bool.and_false _
  dsimp only
  rw [hb, hslot, if_neg (by simp [hblob]), if_neg (by rw [hempty]; simpa using hdbg), hkek', if_neg Bool.false_ne_true]
  revert hu
  cases unwrap s slot b <;> exact id

end

/-- Settles O49: each command through its body, each event by its row. -/
theorem securityCompletes : Obligations.SecurityCompletes := by
  unfold Obligations.SecurityCompletes
  intro s q e
  refine ⟨fun hal hbus => ⟨?_, ?_, ?_, ?_, ?_⟩, ?_, ?_, ?_, rfl, fun slot => rfl, rfl, ?_, ?_, rfl, ?_, ?_⟩
  · rintro slot tbl b rfl hb hmode hrdy hgood hblob hdbg hempty hkek
    have hrun := @execKeyProvisionWrite_unwraps s q e _ tbl _ hal hbus rfl hb hmode hrdy hgood hblob hdbg hempty hkek
    exact ⟨fun k hk => show execKeyProvisionWrite q (some tbl) s = _ from hrun (by decide) (by rw [hk, provisioned]),
      fun hk => show execKeyProvisionWrite q (some tbl) s = _ from hrun (by decide) (by rw [hk]; rfl)⟩
  · rintro slot rfl hmode hrdy hgood
    exact show execKeyProvisionErase q s = _ from
      runCmdSel_done hrdy (by simp [hmode]) hgood (.inr hal) rfl (.inl (by decide))
  · rintro lv nonce rfl hrdy hgood hlt hslot
    refine show execDebugChallenge q nonce s = _ from runCmd_done hrdy hgood (.inr hal) (if_neg ?_) (.inl (by decide))
    rw [decide_eq_false (Nat.not_le.2 hlt), Bool.false_or, Bool.and_eq_true]
    rintro ⟨hl, hn⟩
    have hsome := hslot (of_decide_eq_true hl)
    cases hs : s.kpr.slots.getD 1 none with
    | none => rw [hs] at hsome; cases hsome
    | some k => rw [hs] at hn; cases hn
  · rintro c sig ok hc hrdy hgood rfl
    obtain ⟨-, hpre⟩ := id hgood
    have hlen : bulkLen e.pkt = 96 := by simpa using Bool.and_elim_right hpre
    have hread : ∀ k, withTable s e (some sig) k = k (padTo 96 sig) := fun k => (withTable_read e sig k hbus).trans (by rw [hlen])
    refine ⟨fun hbad => ?_, ?_, fun hok hl => ?_⟩
    · refine show execDebugResponse q (some sig) s = _ from runCmd_done hrdy hgood (.inr hal) ((hread _).trans ?_) (.inl (by decide))
      rw [hc]
      exact if_pos (by rw [hbad]; rfl)
    · rintro t hok hl rfl
      refine show execDebugResponse q (some sig) s = _ from runCmd_done hrdy hgood (.inr hal) ((hread _).trans ?_) (.inl (by decide))
      rw [hc]
      exact (if_neg (by simp [hok])).trans (if_pos hl)
    · refine show execDebugResponse q (some sig) s = _ from runCmd_wait hrdy hgood (.inr hal) ((hread _).trans ?_)
      rw [hc]
      exact (if_neg (by simp [hok])).trans (if_neg hl)
  · intro k hk
    refine ⟨fun hmode hrdy hgood => ?_, ?_⟩
    · refine show execAttestDevice q true s = _ from runCmdSel_done hrdy (by simp [hmode]) hgood (.inr hal) ?_ (.inl (by decide))
      rw [hk]
      exact attestFinish_written k 0 [] [] hbus
    · rintro bs rec hmode hrdy hgood hdesc hself rfl
      refine show execAttestRecord q true s = _ from runCmdSel_done hrdy (by simp [hmode]) hgood (.inr hal) ?_ (.inl (by decide))
      dsimp only
      rw [hk, hdesc]
      exact (if_neg (by simp [hself])).trans (attestFinish_written k 1 _ _ hbus)
  · intro hrdy hok
    refine ⟨?_, fun hl => ?_⟩
    · rintro t hl rfl
      refine show execAlarmPolicy q s = _ from ?_
      rw [execAlarmPolicy_ready hrdy, alarmPolicyOut, hok, hl]
      exact congrArg _ (State.conclude_done hrdy.room)
    · refine show execAlarmPolicy q s = _ from ?_
      rw [execAlarmPolicy_ready hrdy, alarmPolicyOut, hok, hl]
      exact congrArg _ (State.conclude_done hrdy.room)
  · intro hrdy hok
    refine show execAlarmPolicy q s = _ from ?_
    rw [execAlarmPolicy_ready hrdy, alarmPolicyOut, hok]
    exact congrArg _ (State.conclude_done hrdy.room)
  · intro hal
    refine ⟨fun tbl hmode hrdy hgood => ?_, fun hmode hrdy hgood => ?_, fun nonce hrdy hgood => ?_, fun tbl hrdy hgood => ?_⟩
    · exact show execKeyProvisionWrite q tbl s = _ from runCmdSel_denied hrdy (by simp [hmode]) hgood rfl hal
    · exact show execKeyProvisionErase q s = _ from runCmdSel_denied hrdy (by simp [hmode]) hgood rfl hal
    · exact show execDebugChallenge q nonce s = _ from runCmd_denied hrdy hgood rfl hal
    · exact show execDebugResponse q tbl s = _ from runCmd_denied hrdy hgood rfl hal
  · intro v c src he
    refine show execZeroiseEraseDone s = _ from ?_
    rw [execZeroiseEraseDone, he]
  · rintro v c t he rfl
    refine show execVendorUnlockEraseDone s = _ from ?_
    rw [execVendorUnlockEraseDone, he]
    dsimp only
    by_cases hv : v = true ∧ s.kpr.alarm = .clear ∧ (s.pwr.st = .active ∨ s.pwr.st = .idle)
    · have hopen : (v && s.kpr.alarm == .clear && (s.pwr.st == .active || s.pwr.st == .idle)) = true := by simpa [and_assoc] using hv
      simp only [hopen, if_true, if_pos hv]
    · have hopen : (v && s.kpr.alarm == .clear && (s.pwr.st == .active || s.pwr.st == .idle)) = false := by simpa [and_assoc] using hv
      simp only [hopen, Bool.false_eq_true, if_false, if_neg hv]
  · intro i hi
    refine show execTapAccess (.update i) s = _ from ?_
    simp only [execTapAccess, hi, if_true]
  · intro i hi
    refine show execTapAccess (.update i) s = _ from ?_
    simp only [execTapAccess, hi]
    rfl

end Sys2Proof.Machine
end


-- ==== Sys2Proof/Proofs/HostAccesses.lean ====
section
/-! PROOFS. Host accesses: BAR0 and configuration writes, interrupt masks and BAR2 (R6, R348, R366 to R374). -/

namespace Sys2Proof.Machine

/-! ### A link that a TLP wakes -/

theorem Pcie.wake_up (p : Pcie) : p.wake.up = p.up := by
  unfold Pcie.wake Pcie.up
  split
  · rename_i h
    rcases (by simpa using h : p.link = .l1 ∨ p.link = .l11) with h | h <;> simp [h]
  · rfl

theorem Pcie.wake_cfg (p : Pcie) : p.wake.cfg = p.cfg := by rw [Pcie.wake_frame]

/-- The link that a TLP woke is awake. -/
theorem Pcie.wake_of_wake {p p' : Pcie} (h : p'.link = p.wake.link) : p'.wake = p' := by
  have hawake : (p.wake.link == .l1 || p.wake.link == .l11) = false := by
    unfold Pcie.wake
    split
    · rfl
    · rename_i h; simpa using h
  rw [Pcie.wake, h, if_neg (by rw [hawake]; decide)]

theorem State.tlp_busOk (s : State) : s.tlp.busOk = s.busOk := by
  rw [State.busOk, State.busOk, State.tlp, Pcie.wake_up, Pcie.wake_cfg]

/-! ### Interrupts -/

/-- A fold that acts on some elements is the fold over those, where its acts leave the choice. -/
theorem foldl_ite_eq_filter {α β : Type} {p : β → α → Bool} {q : α → Bool} {f : β → α → β} (hf : ∀ y a b, p (f y a) b = p y b) (l : List α) (y : β)
    (hp : ∀ a, p y a = q a) : l.foldl (fun y a => if p y a then f y a else y) y = (l.filter q).foldl f y := by
  induction l generalizing y with
  | nil => rfl
  | cons a r ih =>
    rw [List.foldl_cons, List.filter_cons, hp a]
    cases q a
    · exact ih y hp
    · exact ih (f y a) fun b => (hf y a b).trans (hp b)

theorem State.signal_irqStat (s : State) (v : Nat) : (s.signal v).pcie.irqStat = s.pcie.irqStat := by rw [State.signal_frame]

/-- A write of GLB_IRQ_MASK signals what its mask held back and no longer does (R373). -/
theorem State.glbMask_eq (s : State) (v : Nat) : s.glbMask v = (allBelow 4 (fun b => !bit s.pcie.irqMask b && bit v b && bit s.pcie.irqStat b)).foldl
    (fun x b => x.signal (44 + b)) (s.updPcie (fun p => { p with irqMask := fld v 3 0 })) :=
  foldl_ite_eq_filter (p := fun (x : State) b => raised s.pcie.irqMask v x.pcie.irqStat b) (f := fun x b => x.signal (44 + b))
    (fun y a b => by rw [State.signal_irqStat]) _ _ (fun _ => rfl)

theorem State.sendMsix_pba (s : State) (v : Nat) : (s.sendMsix v).pcie.pba = s.pcie.pba := by
  rw [State.sendMsix, State.tlp, Pcie.wake_frame]

/-- The one pending vector that may be sent is sent (R373). -/
theorem State.flushMsix_one {s : State} {v : Nat} (hv : v < 64) (hp : s.pcie.pba = 2 ^ v) (hen : s.pcie.cfg.msixEnable = true) (hf : s.pcie.cfg.funcMask = false)
    (hm : (nth s.pcie.msix v).masked = false) (hb : s.busOk = true) : s.flushMsix = { s with pcie := { s.pcie with pba := 0 } }.sendMsix v := by
  have hbit : ∀ w, bit (2 ^ v) w = decide (v = w) := fun w => Nat.testBit_two_pow
  refine (foldl_eq_of_once (a := v) (y := { s with pcie := { s.pcie with pba := 0 } }.sendMsix v) ?_ ?_ ?_ List.nodup_range).trans (if_pos (List.mem_range.2 hv))
  · intro w hw
    exact if_neg (by simp [hp, hbit, Ne.symm hw])
  · intro w hw
    refine if_neg ?_
    rw [State.sendMsix_pba]
    simp [bit]
  · refine (if_pos (by simp [hp, hbit, hen, hf, hm, hb])).trans ?_
    rw [hp, Nat.sub_self]

/-- Unmasking the one vector that pends sends its message (R373). -/
theorem execMsixUnmask_one {s : State} {v : Nat} (hp : s.pcie.pba = 2 ^ v) (hv : v < 64) (hlen : v < s.pcie.msix.length) (hen : s.pcie.cfg.msixEnable = true)
    (hf : s.pcie.cfg.funcMask = false) (hb : s.busOk = true) :
    execMsixUnmask v s = .next
      { s with pcie := { s.pcie.wake with msix := upd s.pcie.msix v (fun e => { e with masked := false }), pba := 0 },
               msixSent := s.msixSent ++ [{ vector := v, ecrc := s.pcie.cfg.ecrcGen }] } := by
  have hcfg : s.pcie.wake.cfg = s.pcie.cfg := Pcie.wake_cfg _
  have hmsix : s.pcie.wake.msix = s.pcie.msix := by rw [Pcie.wake_frame]
  have hpba : s.pcie.wake.pba = s.pcie.pba := by rw [Pcie.wake_frame]
  refine congrArg Host.Outcome.next ((State.flushMsix_one (s := s.tlp.updPcie fun p => { p with msix := upd p.msix v fun e => { e with masked := false } })
    hv (hpba.trans hp) ?_ ?_ ?_ (s.tlp_busOk.trans hb)).trans ?_)
  · exact (congrArg PciCfg.msixEnable hcfg).trans hen
  · exact (congrArg PciCfg.funcMask hcfg).trans hf
  · refine congrArg MsixEntry.masked (nth_upd_self (xs := s.pcie.wake.msix) _ ?_)
    rwa [hmsix]
  · have hawake : ∀ t : State, t.pcie.link = s.pcie.wake.link → t.tlp = t := fun t h => by rw [State.tlp, Pcie.wake_of_wake h]
    rw [State.sendMsix, hawake _ rfl]
    simp only [State.updPcie, State.tlp, hmsix, hcfg]

/-! ### BAR2 (R368 to R371) -/

theorem execBar2Read_data {s : State} {off len : Nat} {ecc : EccReport} (h0 : 0 < len) (hoff : off < 2 ^ 37) (hlen : off % 4096 + len ≤ 4096)
    (hf : s.spr.fallback = false) : execBar2Read off len ecc s = .next (s.tlp.bar2Data { off := off, len := len, ecc := ecc }) := by
  rw [execBar2Read, if_neg (by simp; omega)]
  exact if_neg (by rw [hf]; decide)

/-- The lost blocks a read does not touch leave its bytes as Reservoir gives them. -/
theorem State.bar2Data_reservoir {s : State} {off len : Nat} {ecc : EccReport} (h1 : off < 103079215104) (hi : s.pwr.st ≠ .idle) (hs : s.pwr.st ≠ .standby)
    (hr : s.selfRefresh = false) (hl : ecc.lost.filter (fun b => decide (off < 64 * b + 64 ∧ 64 * b < off + len)) = []) {s1 : State} (h : s1 = s.eccApply ecc) :
    s.bar2Data { off := off, len := len, ecc := ecc } =
      { s1 with freeCtr := s1.freeCtr + len + len,
                lastRead := { data := (List.range len).map (fun i => s1.rsvByte (s1.freeCtr + i) (off + i)),
                              poisoned := (blocksOf off len).map (fun _ => false), ecrc := s1.pcie.cfg.ecrcGen } } := by
  subst h
  unfold State.bar2Data
  dsimp only
  rw [if_neg (by omega), if_neg (by omega), if_neg (by simp [hi, hs, hr]), hl]
  have hnone : ([] : List Nat).contains = fun _ => false := rfl
  simp [forEach, State.rsvRead, State.draw, hnone, List.mapIdx_eq_zipIdx_map]

theorem execBar2Read_held {s : State} {off len : Nat} {ecc : EccReport} (h0 : 0 < len) (hoff : off < 2 ^ 37) (hlen : off % 4096 + len ≤ 4096)
    (hf : s.spr.fallback = true) {f : Pcie → Pcie}
    (hp : (if s.tlp.pcie.held.length < 64 then { s.tlp.pcie with held := s.tlp.pcie.held ++ [({ off := off, len := len, ecc := ecc } : Bar2Req)] }
      else { s.tlp.pcie with flow := s.tlp.pcie.flow ++ [({ off := off, len := len, ecc := ecc } : Bar2Req)] }) = f s.tlp.pcie) :
    execBar2Read off len ecc s = .next ({ s.tlp with lastRead := { held := true } }.updPcie f) := by
  rw [execBar2Read, if_neg (by simp; omega)]
  refine (if_pos hf).trans ?_
  simp only [State.updPcie, hp]

/-- A whole write of a BAR0 dword. -/
theorem execRegisterWrite_whole {s t : State} {a : Nat} {v : DWord} (h : s.tlp.bar0Write a (BitVec.ofNat 32 v.toNat) = t) :
    execRegisterWrite (.bar0 a) v 15 s = .next t := by
  subst h
  simp [execRegisterWrite]

/-! ### O53 -/

/-- Settles O53: each access by its row, the masks through the interrupts they let go, BAR2 through what a read finds. -/
theorem hostAccessesComplete : Obligations.HostAccessesComplete := by
  unfold Obligations.HostAccessesComplete
  intro s
  refine ⟨?_, ?_, ?_, ?_, ?_, ?_, ?_, ?_, ?_, ?_, ?_, ?_, ?_, ?_, ?_⟩
  · intro a v be hbe
    exact show execRegisterWrite (.bar0 a) v be s = _ from if_pos hbe
  · intro a v ha hlo hhi
    refine show execRegisterWrite (.bar0 a) v 15 s = _ from execRegisterWrite_whole ?_
    unfold State.bar0Write
    dsimp only
    rw [if_neg (by omega), if_neg (by omega)]
    rcases hhi with hhi | hhi
    · rw [if_pos hhi]
    · rw [if_neg (by omega), if_neg (by omega), if_neg (by omega), if_neg (by omega), if_neg (by omega), if_neg (by omega), if_neg (by omega),
        if_neg (by simp; omega)]
  · intro q v hq hon hst
    have hoff : 0x8000 + 0x80 * q - 0x8000 = 0x80 * q := by omega
    refine show execRegisterWrite (.bar0 (0x8000 + 0x80 * q)) v 15 s = _ from execRegisterWrite_whole ?_
    unfold State.bar0Write
    dsimp only
    rw [if_neg (by omega), if_neg (by omega), if_neg (by omega), if_pos (by omega), hoff, Nat.mul_div_cancel_left _ (by omega), Nat.mul_mod_right]
    have hopen : (((nth s.tlp.cp.queues q).st == .disabled || (nth s.tlp.cp.queues q).st == .suspended) && s.tlp.domOn 45) = true := by
      rw [show s.tlp.domOn 45 = true from hon, show s.tlp.cp = s.cp from rfl]
      rcases hst with hst | hst <;> simp [hst]
    unfold State.queueWrite
    dsimp only
    rw [hopen, if_pos (by decide), if_pos rfl]
  · intro v
    exact show execRegisterWrite (.bar0 0xC) v 15 s = _ from rfl
  · intro v be
    exact show execRegisterWrite (.cfg .busMaster) v be s = _ from rfl
  · intro v be
    refine show Host.Outcome.next (if s.tlp.pcie.up && s.tlp.pcie.cfg.d3hot then _ else _) = _ from congrArg _ ?_
    rw [show s.tlp.pcie.up = s.pcie.up from Pcie.wake_up _, show s.tlp.pcie.cfg = s.pcie.cfg from Pcie.wake_cfg _]
    simp
  · intro c v hon hc hno
    refine show Host.Outcome.next (s.tlp.dmaMask c v.toNat) = _ from congrArg _ ?_
    unfold State.dmaMask
    rw [if_neg (by rw [show s.tlp.domOn 45 = true from hon]; simpa using hc)]
    exact if_neg (by rw [show s.tlp.dma = s.dma from rfl, hno]; decide)
  · intro c v hon hc hyes
    refine show Host.Outcome.next (s.tlp.dmaMask c v.toNat) = _ from congrArg _ ?_
    unfold State.dmaMask
    rw [if_neg (by rw [show s.tlp.domOn 45 = true from hon]; simpa using hc)]
    exact if_pos hyes
  · intro v
    refine show execGlbIrqMaskWrite v s = _ from congrArg _ ((State.glbMask_eq ..).trans ?_)
    rw [show s.tlp.pcie.irqMask = s.pcie.irqMask by rw [State.tlp, Pcie.wake_frame], show s.tlp.pcie.irqStat = s.pcie.irqStat by rw [State.tlp, Pcie.wake_frame]]
  · exact fun v => rfl
  · intro v hp hv hlen hen hf hb
    exact show execMsixUnmask v s = _ from execMsixUnmask_one hp hv (by omega) hen hf hb
  · intro v hm
    rw [State.signal, if_pos (by rcases hm with hm | hm <;> simp [hm])]
  · exact fun v => rfl
  · exact fun off => rfl
  · intro off len ecc h0 hoff hlen
    have hheld : s.tlp.pcie.held = s.pcie.held := by rw [State.tlp, Pcie.wake_frame]
    refine ⟨?_, ?_, ?_, ?_, ?_, ?_, ?_⟩
    · intro hf hhi
      refine show execBar2Read off len ecc s = _ from (execBar2Read_data h0 hoff hlen hf).trans (congrArg _ ((if_pos hhi).trans ?_))
      rw [State.completes, show s.tlp.pcie.cfg = s.pcie.cfg from Pcie.wake_cfg _]
    · intro hf hlo hhi hst hon
      refine show execBar2Read off len ecc s = _ from (execBar2Read_data h0 hoff hlen hf).trans (congrArg _ ?_)
      unfold State.bar2Data
      dsimp only
      rw [if_neg (by omega), if_pos hlo, if_neg (by rw [show s.tlp.pwr = s.pwr from rfl]; simpa using hst),
        if_neg (by rw [show s.tlp.domOn 36 = true from hon]; decide)]
      have hcfg : s.tlp.pcie.cfg = s.pcie.cfg := Pcie.wake_cfg _
      simp only [State.completes, State.pondRead, State.draw, hcfg]
      rfl
    · intro hf hroom
      exact show execBar2Read off len ecc s = _ from execBar2Read_held h0 hoff hlen hf (if_pos (by rwa [hheld]))
    · intro hf hfull
      exact show execBar2Read off len ecc s = _ from execBar2Read_held h0 hoff hlen hf (if_neg (by rw [hheld]; omega))
    · intro hf hlo hi hst hself hl s1 h1
      exact show execBar2Read off len ecc s = _ from (execBar2Read_data h0 hoff hlen hf).trans (congrArg _ (State.bar2Data_reservoir (s := s.tlp) hlo hi hst hself hl h1))
    · intro hf hlo hor
      refine show execBar2Read off len ecc s = _ from (execBar2Read_data h0 hoff hlen hf).trans (congrArg _ ?_)
      unfold State.bar2Data
      dsimp only
      rw [if_neg (by omega), if_neg (by omega)]
      exact if_pos (by rcases hor with h | h | h <;> simp [show s.tlp.pwr = s.pwr from rfl, show s.tlp.selfRefresh = s.selfRefresh from rfl, h])
    · intro hf hlo hhi hst
      refine show execBar2Read off len ecc s = _ from (execBar2Read_data h0 hoff hlen hf).trans (congrArg _ ?_)
      unfold State.bar2Data
      dsimp only
      rw [if_neg (by omega), if_pos hlo]
      exact if_pos (by simp [show s.tlp.pwr = s.pwr from rfl, hst])

end Sys2Proof.Machine
end


-- ==== Sys2Proof/Proofs/LinkEvents.lean ====
section
/-! PROOFS. Errors of received TLPs, function resets, D3hot, lane faults and training (R294, R359, R363 to R365, R374 to R382). -/

namespace Sys2Proof.Machine

/-! ### The queues after a function reset (R294) -/

theorem State.pme_cp (s : State) : s.pme.cp = s.cp := by rw [State.pme_frame]

theorem State.askWake_cp (s : State) (door : Bool) : (s.askWake door).cp = s.cp := by rw [State.askWake_frame]

theorem State.event_queues (s : State) (type source : Nat) (tag : Option Nat) (tb : BitVec 64) (payload : List Byte) :
    (s.event type source tag tb payload).cp.queues = s.cp.queues := by
  unfold State.event State.eventW
  dsimp only
  repeat' split
  all_goals first
    | rfl
    | (rw [State.pme_cp]; rfl)
    | (rw [State.askWake_cp, State.pme_cp]; rfl)
    | (rw [State.askWake_cp]; rfl)

theorem State.recover_queues (s : State) (r : RecoveryIn) (lost : Nat) (ended : List EndedGroup) : (s.recover r lost ended).cp.queues = s.cp.queues := by
  unfold State.recover State.report
  dsimp only
  rw [forEach_proj (fun s : State => s.cp.queues) (f := fun s x => s.recoveryGroupEvent r x) (fun s x => State.event_queues ..), State.recoveryEvent, State.event_queues]
  rfl

theorem State.dropRolledBack_cp (s : State) : s.dropRolledBack.cp = s.cp := by
  unfold State.dropRolledBack
  split <;> rfl

/-- An FLR suspends every queue that is open (R294). -/
theorem State.flr_queues (s : State) : s.flr.cp.queues = s.cp.queues.map Queue.suspend := by
  unfold State.flr
  dsimp only
  rw [State.recover_queues]
  show (State.dropRolledBack _).cp.queues.map Queue.suspend = _
  rw [State.dropRolledBack_cp]
  split <;> rfl

theorem Queue.suspend_st (x : Queue) : x.suspend.st = if x.st = .disabled then .disabled else .suspended := by
  unfold Queue.suspend
  cases h : x.st <;> simp [h]

theorem State.flr_queue_st (s : State) (q : Nat) :
    (nth s.flr.cp.queues q).st = if (nth s.cp.queues q).st = .disabled then .disabled else .suspended := by
  rw [State.flr_queues, ← Queue.suspend_st]
  simp only [nth, List.getD, List.getElem?_map]
  cases s.cp.queues[q]? <;> rfl

/-! ### D3hot (R365) -/

/-- A message on a link that is up and awake is sent. -/
theorem State.message_sent {s : State} {p : Pcie} (hup : s.pcie.up = true) (hawake : s.pcie.link = p.wake.link) (k : MsgKind) :
    s.message k = { s with msgSent := s.msgSent ++ [{ kind := k, ecrc := s.pcie.cfg.ecrcGen }] } := by
  rw [State.message, hup, if_pos (by rfl), State.tlp, Pcie.wake_of_wake hawake]

/-- A message on a link that is neither up nor on its way there is not. -/
theorem State.message_lost {s : State} (hl : s.pcie.link = .l23) (k : MsgKind) : s.message k = s := by
  rw [State.message, Pcie.up, hl]
  rfl

/-- What a power management event of the function in D3hot leaves before its message. -/
theorem State.pme_of_d3hot {s : State} (hd : s.pcie.cfg.d3hot = true) (he : s.pcie.cfg.pmeEn = true) :
    s.pme = ({ s with pcie := { s.pcie with cfg := { s.pcie.cfg with pmeStatus := true }, wakeN := s.pcie.wakeN || s.pcie.link == LinkSt.l23 } } : State).message .pmPme := by
  rw [State.pme, if_neg (by simp [hd, he])]

/-- While the link is up, and awake, it sends PM_PME. -/
theorem State.pme_message {s : State} {p : Pcie} (hd : s.pcie.cfg.d3hot = true) (he : s.pcie.cfg.pmeEn = true) (hup : s.pcie.up = true)
    (hawake : s.pcie.link = p.wake.link) : s.pme =
      { s with pcie := { s.pcie with cfg := { s.pcie.cfg with pmeStatus := true } },
               msgSent := s.msgSent ++ [{ kind := .pmPme, ecrc := s.pcie.cfg.ecrcGen }] } := by
  have hl : (s.pcie.link == LinkSt.l23) = false := by
    have : s.pcie.link ≠ .l23 := fun h => by rw [Pcie.up, h] at hup; cases hup
    simpa using this
  rw [State.pme_of_d3hot hd he, hl, Bool.or_false]
  refine (State.message_sent (p := p) ?_ ?_ _).trans ?_
  · exact hup
  · exact hawake
  · rfl

/-- In L2/L3 Ready it asserts WAKE#. -/
theorem State.pme_wakes {s : State} (hd : s.pcie.cfg.d3hot = true) (he : s.pcie.cfg.pmeEn = true) (hl : s.pcie.link = .l23) : s.pme =
      s.updPcie (fun p => { p with cfg := { p.cfg with pmeStatus := true }, wakeN := true }) := by
  have hl' : (s.pcie.link == LinkSt.l23) = true := by simp [hl]
  rw [State.pme_of_d3hot hd he, hl', Bool.or_true]
  refine (State.message_lost ?_ _).trans ?_
  · exact hl
  · rfl

/-! ### Lane faults and training (R359, R379, R381) -/

theorem Pcie.recover_ite (p : Pcie) :
    p.recover = if p.link = LinkSt.recovery then p else { p with link := .recovery, retrainCnt := min 65535 (p.retrainCnt + 1) } := by
  simp [Pcie.recover, satAdd]

/-- The link in Recovery after a fault of a lane. -/
def Pcie.faulted (p : Pcie) (faults : Nat) : Pcie :=
  { p with laneFault := faults, link := .recovery, retrainCnt := if p.link = LinkSt.recovery then p.retrainCnt else min 65535 (p.retrainCnt + 1) }

theorem Pcie.recover_eq (p : Pcie) (faults : Nat) : { p.recover with laneFault := faults } = p.faulted faults := by
  unfold Pcie.recover Pcie.faulted
  by_cases h : p.link = .recovery
  · rw [if_pos (by simp [h]), if_pos h, ← h]
  · rw [if_neg (by simp [h]), if_neg h]
    rfl

section
variable {s s1 s2 : State} {lane cause faults : Nat} (hlane : lane < 4) (hnew : bit s.pcie.laneFault lane = false) (hup : s.pcie.up = true ∨ s.pcie.link = .recovery)
  (hcause : cause ≠ 0 ∨ s.laneWorn lane = true) (hf : faults = s.pcie.laneFault + 2 ^ lane)
  (h1 : s1 = s.updPcie (fun p => p.faulted faults))
  (h2 : s2 = if s.pcie.laneFault = 0 then s1.log DEGRADED bPCIE 1 lane cause else s1.log FATAL bPCIE 2 lane cause)
include hlane hnew hup hcause hf h1 h2

/-- A lane that fails sends the link into Recovery and is logged; with no lane left the link is lost. -/
theorem execLaneFault_judged : execLaneFault lane cause s = .next (if (laneWidth faults).isNone then s2.linkLost else s2) := by
  have hup' : (s.pcie.up || s.pcie.link == .recovery) = true := by rcases hup with h | h <;> simp [h]
  have hcause' : (decide (cause = 0) && !s.laneWorn lane) = false := by rcases hcause with h | h <;> simp [h]
  have hrec : s.updPcie (fun p => { p.recover with laneFault := s.pcie.laneFault + 2 ^ lane }) = s1 := by
    rw [h1, hf]
    exact congrArg (fun p => { s with pcie := p }) (Pcie.recover_eq ..)
  have hlog : (if (s.pcie.laneFault == 0) = true then s1.log DEGRADED bPCIE 1 lane cause else s1.log FATAL bPCIE 2 lane cause) = s2 := by
    rw [h2]
    simp
  unfold execLaneFault
  rw [if_neg (by rw [hnew, hup', hcause']; simpa using hlane)]
  dsimp only
  rw [hrec, hlog, ← hf]

end

/-! ### O54 -/

/-- Settles O54: each event by its row, D3hot through the power management event, training through the draw of its count. -/
theorem linkEventsComplete : Obligations.LinkEventsComplete := by
  unfold Obligations.LinkEventsComplete
  intro s
  refine ⟨fun hup => ?_, rfl, rfl, State.flr_queue_st s, ?_, rfl, ?_, ?_, ?_, ?_, ?_⟩
  · have hrow : ∀ e, execReceivedTlpError e s = _ := fun e => if_neg (by simp [hup])
    refine ⟨fun i lane hl hi => ?_, ?_, ?_, ?_, ?_, ?_, ?_, fun hchk => ?_, fun k => ?_⟩
    · exact show execReceivedTlpError (.correctable i lane) s = _ from (hrow _).trans ((if_pos hl).trans (congrArg Host.Outcome.next (if_neg hi)))
    · rintro lane s1 hl rfl
      refine show execReceivedTlpError (.correctable 4 lane) s = _ from (hrow _).trans ((if_pos hl).trans (congrArg Host.Outcome.next ((if_pos rfl).trans ?_)))
      exact congrArg (State.updPcie ((s.tlp.laneSecond lane).aerCor 8 lane)) (funext Pcie.recover_ite)
    · exact show execReceivedTlpError .poisonedWrite s = _ from hrow _
    · exact show execReceivedTlpError .poisonedCpl s = _ from hrow _
    · exact show execReceivedTlpError (.unsupported true) s = _ from hrow _
    · exact show execReceivedTlpError (.unsupported false) s = _ from hrow _
    · exact show execReceivedTlpError .unexpectedCpl s = _ from hrow _
    · refine show execReceivedTlpError .ecrc s = _ from (hrow _).trans (congrArg _ (if_pos ?_))
      rw [← hchk]
      exact congrArg PciCfg.ecrcChk (Pcie.wake_cfg _)
    · exact show execReceivedTlpError (.protocol k) s = _ from hrow _
  · rintro held rfl s1 rfl
    have hcfg : s.pcie.wake.cfg = s.pcie.cfg := Pcie.wake_cfg _
    refine ⟨fun hor => ?_, fun he hheld hup => ?_, fun he hheld hl => ?_⟩
    · refine show execD3hotEnter s = _ from congrArg Host.Outcome.next ?_
      rcases hor with he | hheld
      · split
        · rw [State.pme, if_pos (by simp [State.updPcie, State.tlp, hcfg, he])]
        · rfl
      · exact if_neg (by rw [show (!(nth (State.updPcie s.tlp _).cp.eqs 0).held.isEmpty || (State.updPcie s.tlp _).stby.any (fun x => x.1 == 0)) = false from hheld]; decide)
    · refine show execD3hotEnter s = _ from congrArg _ ((if_pos hheld).trans ((State.pme_message (p := s.pcie) rfl ?_ ?_ rfl).trans ?_))
      · exact (congrArg PciCfg.pmeEn hcfg).trans he
      · exact (Pcie.wake_up _).trans hup
      · simp only [State.updPcie, State.tlp, hcfg]
    · refine show execD3hotEnter s = _ from congrArg _ ((if_pos hheld).trans (State.pme_wakes rfl ?_ ?_))
      · exact (congrArg PciCfg.pmeEn hcfg).trans he
      · show s.pcie.wake.link = .l23
        rw [Pcie.wake, hl]
        exact hl
  · intro lane cause faults s1 s2 hlane hnew hup hcause hf h1 h2
    have hrow := execLaneFault_judged hlane hnew hup hcause hf h1 h2
    refine ⟨fun hw => ?_, fun hw => ?_⟩
    · exact show execLaneFault lane cause s = _ from hrow.trans (congrArg _ (if_neg (by simpa [Option.isSome_iff_ne_none] using hw)))
    · exact show execLaneFault lane cause s = _ from hrow.trans (congrArg _ (if_pos (by rw [hw]; rfl)))
  · intro gen width flit w r hw hle hdown h1 h6 hon hr hp
    refine show execPcieLinkUp gen width flit s = _ from ?_
    unfold execPcieLinkUp
    rw [hw]
    dsimp only
    rw [if_neg (by simp [hdown, hon, hr, hp]; omega)]
    refine congrArg (fun t : State => Host.Outcome.next t.flushMsix.dmaPump) ?_
    simp [State.updPcie, State.draw, State.linkUp, satAdd]
    exact if_congr (or_congr decide_eq_true_iff (and_congr decide_eq_true_iff decide_eq_true_iff)) rfl rfl
  · intro c d ht ho
    exact show execCompletionTimeout (.dma c d) s = _ from if_neg (by simp [ht, ho])
  · intro q ht ho
    exact show execCompletionTimeout (.fetch q) s = _ from if_neg (by simp [ht, ho])
  · intro q ht ho
    exact show execCompletionTimeout (.table q) s = _ from if_neg (by simp [ht, ho])

end Sys2Proof.Machine
end


-- ==== Sys2Proof/Proofs/Clocks.lean ====
section
/-! PROOFS. Relocks, phase comparisons, holdover and the returning reference (R213 to R235, R309, R310). -/

namespace Sys2Proof.Machine

/-! ### Phase comparisons (R216) -/

/-- A comparison moves the verdict and its counts alone. -/
theorem Spring.compare_frame (x : Spring) (c : PdRun) :
    x.compare c = { x with lock := (x.compare c).lock, good := (x.compare c).good, bad := (x.compare c).bad } := by
  unfold Spring.compare
  dsimp only
  repeat' split
  all_goals rfl

theorem Spring.compareAll_frame (cs : List PdRun) (x : Spring) : ∃ l g b, cs.foldl Spring.compare x = { x with lock := l, good := g, bad := b } := by
  induction cs generalizing x with
  | nil => exact ⟨x.lock, x.good, x.bad, rfl⟩
  | cons c r ih =>
    obtain ⟨l, g, b, h⟩ := ih (x.compare c)
    exact ⟨l, g, b, by rw [List.foldl_cons, h, Spring.compare_frame x c]⟩

section
variable (s : State) (cs : List PdRun)

theorem State.compareAll_frame : ∃ l g b, s.compareAll cs = s.updSpr (fun x => { x with lock := l, good := g, bad := b }) := by
  obtain ⟨l, g, b, h⟩ := Spring.compareAll_frame cs s.spr
  exact ⟨l, g, b, congrArg (fun x => { s with spr := x }) h⟩

theorem State.compareAll_ret : (s.compareAll cs).spr.ret = s.spr.ret := by
  obtain ⟨l, g, b, h⟩ := s.compareAll_frame cs
  rw [h]
  rfl

theorem State.compareAll_lossAt : (s.compareAll cs).spr.lossAt = s.spr.lossAt := by
  obtain ⟨l, g, b, h⟩ := s.compareAll_frame cs
  rw [h]
  rfl

theorem State.compareAll_fsQ : (s.compareAll cs).fsQ = s.fsQ := by
  obtain ⟨l, g, b, h⟩ := s.compareAll_frame cs
  rw [h]
  rfl

end

/-! ### The state after a measurement of the reference -/

theorem State.measureRef_st (s : State) : s.measureRef.spr.st = s.spr.st := rfl

theorem State.log_spr (s : State) (cls blk code inst detail : Nat) : (s.log cls blk code inst detail).spr = s.spr := by rw [State.log, State.logK_frame]

/-! ### O39 -/

/-- LOCK_DECLARED with the clocks on and a lock looked for: the row's comparisons decide (R216). -/
theorem execLockDeclared_judged {s s1 : State} {g : Nat} {cmps : List PdRun} (hon : s.domOn 42 = true) (h1 : s1 = s.compareAll cmps)
    (hlook : s.spr.st = .start ∨ s.spr.relock = some .gated ∧ s.spr.refOk = true ∨ s.spr.ret.isSome = true) :
    execLockDeclared { periods := g, cmps := cmps } s = .next (if !s1.spr.lock then s1 else if s.spr.st == .start then s1.firstLock
      else if s.spr.relock == some .gated && s.spr.refOk then (s1.release g).resumed else s1.returned) := by
  subst h1
  refine if_neg ?_
  rcases hlook with h | ⟨h, h'⟩ | h <;> simp [*]

/-- Settles O39: the commands through their bodies, the gate by its row, the release through the comparisons. -/
theorem relocksComplete : Obligations.RelocksComplete := by
  unfold Obligations.RelocksComplete
  intro s
  refine ⟨?_, ?_, ?_, ?_, ?_⟩
  · rintro q e n f rfl rfl hrdy hgood
    refine ⟨fun hpll hbusy hon => ?_, fun hpll => ?_, fun hpll hor hst => ?_⟩
    · exact show execSetSampleRate q s = _ from
        runCmd_wait hrdy hgood (.inl rfl) ((if_neg (by simp [hpll])).trans (if_neg (by simp [hbusy, hon])))
    · exact show execSetSampleRate q s = _ from runCmd_done hrdy hgood (.inl rfl) (if_pos (by simp [hpll])) (.inl (by decide))
    · exact show execSetSampleRate q s = _ from runCmd_done hrdy hgood (.inl rfl)
        ((if_neg (by simp [hpll])).trans (if_pos (by rcases hor with h | h <;> simp [h]))) (.inr hst)
  · rintro q e j p action good rfl rfl hrdy hgood rfl
    have hreturn : ∀ a, a = 0 ∨ s.returnOk a = true → ¬ (a ≠ 0 && !s.returnOk a) = true := fun a h => by rcases h with h | h <;> simp [h]
    refine ⟨fun h0 hon hact => ?_, fun h0 hg hbusy hon hact => ?_, fun h0 hg => ?_, fun hor hst => ?_⟩
    · exact show execSetReference q j s = _ from runCmd_done hrdy hgood (.inl rfl)
        ((if_neg (by simp [h0])).trans ((if_neg (by simp [h0])).trans ((if_neg (hreturn _ hact)).trans ((if_neg (by simp [hon])).trans (if_neg (by simp [h0]))))))
        (.inl (by decide))
    · exact show execSetReference q j s = _ from runCmd_wait hrdy hgood (.inl rfl)
        ((if_neg (by rw [hg]; simp)).trans ((if_neg (by simp [hbusy])).trans ((if_neg (hreturn _ hact)).trans ((if_neg (by simp [hon])).trans (if_pos h0)))))
    · exact show execSetReference q j s = _ from runCmd_done hrdy hgood (.inl rfl) (if_pos (by rw [hg, h0]; rfl)) (.inl (by decide))
    · rcases hor with ⟨h0, hg, hbusy⟩ | ⟨h0, hact, hno⟩
      · exact show execSetReference q j s = _ from runCmd_done hrdy hgood (.inl rfl)
          ((if_neg (by rw [hg]; simp)).trans (if_pos (by simp [h0, hbusy]))) (.inr hst)
      · exact show execSetReference q j s = _ from runCmd_done hrdy hgood (.inl rfl)
          ((if_neg (by simp [h0])).trans ((if_neg (by simp [h0])).trans (if_pos (by rw [hno]; simpa using hact)))) (.inr hst)
  · intro fmt rdiv n f hz hrel hnext
    refine show execSpringGate s = _ from ?_
    rw [execSpringGate, if_neg (by simp [hrel]), hnext]
    rfl
  · intro g cmps s1 hon h1
    refine ⟨fun hst hl => ?_, fun hst hrel hok hl => ?_, fun hor hl => ?_, fun a j s2 hst hrel hret h2 => ?_⟩
    · refine show execLockDeclared _ s = _ from (execLockDeclared_judged hon h1 (.inl hst)).trans (congrArg _ ?_)
      rw [if_neg (by simp [hl]), if_pos (by simp [hst])]
    · refine show execLockDeclared _ s = _ from (execLockDeclared_judged hon h1 (.inr (.inl ⟨hrel, hok⟩))).trans (congrArg _ ?_)
      rw [if_neg (by simp [hl]), if_neg (by simpa using hst), if_pos (by simp [hrel, hok])]
    · have hlook := hor.imp_right (Or.inl (b := s.spr.ret.isSome = true))
      exact show execLockDeclared _ s = _ from (execLockDeclared_judged hon h1 hlook).trans (congrArg _ (if_pos (by simp [hl])))
    · have hrow := execLockDeclared_judged (g := g) hon h1 (.inr (.inr (by rw [hret]; rfl)))
      have hnot : ¬ (s.spr.relock == some .gated && s.spr.refOk) = true := by rcases hrel with h | h <;> simp [h]
      have hret1 : s1.spr.ret = some (a, j) := by rw [h1, State.compareAll_ret, hret]
      have hback : s1.spr.lock = true → execLockDeclared { periods := g, cmps := cmps } s = .next s1.returned := fun hl =>
        hrow.trans (congrArg _ (by rw [if_neg (by simp [hl]), if_neg (by simpa using hst), if_neg hnot]))
      refine ⟨fun hl => ?_, fun hl ha => ?_, fun hl ha => ?_⟩
      · exact show execLockDeclared _ s = _ from hrow.trans (congrArg _ (if_pos (by simp [hl])))
      · refine show execLockDeclared _ s = _ from (hback hl).trans (congrArg _ ?_)
        rw [State.returned, hret1, h2, ha]
      · refine show execLockDeclared _ s = _ from (hback hl).trans (congrArg _ ?_)
        rw [State.returned, hret1, h2, ha]
  · rintro s1 hst rfl
    have hrow : execFreeRunRelock s = _ := if_neg (by simp [hst])
    refine ⟨fun ha => ?_, fun ha => ?_⟩
    · refine show execFreeRunRelock s = _ from hrow.trans (congrArg _ (if_neg ?_))
      rw [show (s.updSpr _).anyArmed = false from ha]; decide
    · exact show execFreeRunRelock s = _ from hrow.trans (congrArg _ (if_pos ha))

/-! ### O40 -/

/-- LOSS_OF_LOCK once the comparisons have lost lock (R216, R218). -/
theorem execLossOfLock_lost {s s1 : State} {cmps : List PdRun} (hl : s.spr.lock = true) (hr : s.spr.relock = none) (h1 : s1 = s.compareAll cmps)
    (hlost : s1.spr.lock = false) {again : Bool}
    (ha : again = match s.spr.lossAt with | some t => decide (((s.now - t : Nat) : Rat) ≤ 60 * s.fsQ) | none => false) :
    execLossOfLock cmps s = .next
      ((((s1.updSpr (fun x => { x with lossAt := some s.now, stuck := again })).log (if again then FATAL else DEGRADED) bSPRING (if again then 2 else 1) 0
        (unsgn 64 ((cmps.getLast?.map PdRun.err).getD 0).floor)).lockEvent false 0 none).holdover 2) := by
  have hnow : s1.now = s.now := by rw [h1]; rfl
  have hat : s1.spr.lossAt = s.spr.lossAt := by rw [h1, State.compareAll_lossAt]
  have hfs : s1.fsQ = s.fsQ := by rw [h1, State.compareAll_fsQ]
  unfold execLossOfLock
  rw [if_neg (by simp [hl, hr]), ← h1]
  dsimp only
  rw [if_neg (by simp [hlost]), hnow, hat, hfs]
  subst ha
  cases s.spr.lossAt <;> rfl

/-- Settles O40: loss of lock through its comparisons, the reference's loss and return by the loop's state. -/
theorem referenceAndClockEventsComplete : Obligations.ReferenceAndClockEventsComplete := by
  unfold Obligations.ReferenceAndClockEventsComplete
  intro s
  refine ⟨?_, ?_, ?_, ?_, ?_, ?_, ?_, ?_⟩
  · rintro cmps s1 err hl hr h1 rfl
    refine ⟨fun hkeep => ?_, fun hlost hnew => ?_, fun t hlost ht hle => ?_⟩
    · refine show execLossOfLock cmps s = _ from (if_neg (by simp [hl, hr])).trans ?_
      rw [← h1]
      exact if_pos hkeep
    · refine show execLossOfLock cmps s = _ from execLossOfLock_lost (again := false) hl hr h1 hlost ?_
      cases hat : s.spr.lossAt with
      | none => rfl
      | some t => exact (decide_eq_false (not_le.2 (hnew t hat))).symm
    · refine show execLossOfLock cmps s = _ from execLossOfLock_lost (again := true) hl hr h1 hlost ?_
      rw [ht]
      exact (decide_eq_true hle).symm
  · rintro cause s' hok rfl
    have hrow : execRefLost cause s = _ := if_neg (by simp [hok])
    have hst : ((s.updSpr (fun x => { x with refOk := false, refLostCnt := satAdd 65535 x.refLostCnt 1 })).log DEGRADED bSPRING 3 0 cause).measureRef.spr.st = s.spr.st := by
      rw [State.measureRef_st, State.log_spr]
      rfl
    refine ⟨fun hor => ?_, fun hor => ?_⟩
    · refine show execRefLost cause s = _ from hrow.trans (if_neg ?_)
      rw [hst]
      rcases hor with h | h | h | h <;> simp [h]
    · refine show execRefLost cause s = _ from hrow.trans (if_pos ?_)
      rw [hst]
      rcases hor with h | h | h <;> simp [h]
  · intro jump hor
    exact show execRefReturn jump s = _ from if_pos (by rcases hor with h | h | h <;> simp [h])
  · rintro jump j s1 s' hst rfl rfl h'
    have hrow : execRefReturn jump s = _ := (if_neg (by simp [hst])).trans (if_neg (by simp [hst]))
    refine ⟨fun hor => ?_, fun hs hm => ?_, fun hs hm => ?_⟩
    · refine show execRefReturn jump s = _ from hrow.trans (congrArg _ ?_)
      rw [← h']
      rcases hor with h | h
      · exact if_pos h
      · split
        · rfl
        · rw [if_neg (by omega), if_neg (by omega)]
    · refine show execRefReturn jump s = _ from hrow.trans (congrArg _ ?_)
      rw [← h', if_neg (by simp [hs]), if_pos hm]
    · refine show execRefReturn jump s = _ from hrow.trans (congrArg _ ?_)
      rw [← h', if_neg (by simp [hs]), if_neg (by omega), if_pos hm]
  · rintro s1 hst rfl
    exact ⟨fun h0 => show execSlewDone s = _ from if_neg (by simp [hst, h0]), fun h0 => show execSlewDone s = _ from if_pos (by simp [hst, h0])⟩
  · intro what h0 h2
    refine show execClockMonitorAlarm what s = _ from if_neg ?_
    rw [Bool.or_eq_true, Bool.and_eq_true, Bool.and_eq_true, not_or, not_and, not_and]
    exact ⟨fun h => by simp [h0 (of_decide_eq_true h)], fun h => by simp [h2 (of_decide_eq_true h)]⟩
  · intro hdue hl hr hon
    refine ⟨?_, fun gen rest hp hno => ?_⟩
    · exact show execDividerBoundary s = _ from if_neg (by simp [hdue, hl, hr, hon])
    · rw [State.applyDivider, hno, if_neg Bool.false_ne_true]
      exact if_neg (by rw [hp]; exact Bool.false_ne_true)
  · intro hc hw
    exact show execTbWrap s = _ from (if_pos (by rw [hc, decide_eq_true hw]; rfl)).trans (congrArg _ (State.tick_of_wrapping rfl hc hw))

end Sys2Proof.Machine
end


-- ==== Sys2Proof/Proofs/SiteTime.lean ====
section
/-! PROOFS. TIME_SET, PPS_IN, PPS_OUT, PTM and reads of TB_NOW_LO (R239 to R244, R313). -/

namespace Sys2Proof.Machine

/-! ### TB_COUNT at a read (R239) -/

section
variable (s : State) (k : Nat)

/-- While TB_COUNT counts, a read sees it within 64 Ts, never below 0 but just after a wrap. -/
theorem State.tbNear_of_counting (h : s.tb.counting = true) :
    ((s.tb.count.toNat : Int) - 64 ≤ s.tbNear k ∧ s.tbNear k ≤ s.tb.count.toNat + 64 ∨ s.tbNear k = 0 ∧ s.tb.count.toNat < 64) ∧
      (s.tb.wrapAt = none → 0 ≤ s.tbNear k) := by
  have hfree : Config.freeNat k % 129 < 129 := Nat.mod_lt _ (by decide)
  unfold State.tbNear
  rw [if_pos h]
  dsimp only
  split
  · rename_i hwrap
    exact ⟨by omega, fun hn => by rw [hn] at hwrap; cases hwrap⟩
  · exact ⟨by omega, fun _ => by omega⟩

/-- While it does not, a read sees what stands there, between gate and release plus a free count. -/
theorem State.tbNear_of_stopped (h : s.tb.counting = false) :
    (s.tb.count.toNat : Int) ≤ s.tbNear k ∧ (s.spr.relock ≠ some .gated → s.tbNear k = s.tb.count.toNat) := by
  unfold State.tbNear
  rw [if_neg (by simp [h])]
  split
  · rename_i hg
    exact ⟨by omega, fun hn => absurd (by simpa using hg) hn⟩
  · exact ⟨le_rfl, fun _ => rfl⟩

end

/-! ### O41 -/

/-- Settles O41: TIME_SET through its bodies, the events by their rows, the read through TB_COUNT near it. -/
theorem siteTimeCompletes : Obligations.SiteTimeCompletes := by
  unfold Obligations.SiteTimeCompletes
  intro s
  refine ⟨fun q e hrdy => ⟨fun hmode hgood => ⟨fun hon hrole hpps => ?_, fun hor hst => ?_⟩, fun hmode hgood => ⟨fun hon hrole hpps harm => ?_, fun hor hst => ?_⟩, ?_⟩,
    fun q e hcur hw => ?_, ?_, fun hon hpps => ?_, fun base gap hon hgrid hgap => ?_, fun ns ago hon hptm hcfg hbus => ?_, ?_⟩
  · exact show execTimeSetMap q s = _ from runCmdSel_wait hrdy (by simp [hmode]) hgood (.inl rfl) (if_neg (by simp [hrole, hpps, hon]))
  · exact show execTimeSetMap q s = _ from
      runCmdSel_done hrdy (by simp [hmode]) hgood (.inl rfl) (if_pos (by rcases hor with h | h <;> simp [h])) (.inr hst)
  · exact show execTimeSetLoad q s = _ from
      runCmdSel_wait hrdy (by simp [hmode]) hgood (.inl rfl) (if_neg (by simp [hrole, hpps, hon, harm]))
  · exact show execTimeSetLoad q s = _ from
      runCmdSel_done hrdy (by simp [hmode]) hgood (.inl rfl) (if_pos (by rcases hor with h | h | h <;> simp [h])) (.inr hst)
  · rintro t hmode hgood rfl
    refine ⟨fun hon hrole => ?_, fun hrole hst => ?_⟩
    · exact show execTimeSetManual q s = _ from
        runCmdSel_done hrdy (by simp [hmode]) hgood (.inl rfl) (if_neg (by simp [hrole, hon])) (.inl (by decide))
    · exact show execTimeSetManual q s = _ from
        runCmdSel_done hrdy (by simp [hmode]) hgood (.inl rfl) (if_pos (by simp [hrole])) (.inr hst)
  · refine show execTimeSetTimeout q s = _ from ?_
    rw [execTimeSetTimeout, hcur]
    exact if_pos (by rcases hw with h | h <;> simp [h])
  · rintro stamp rise t u s' hon hpps rfl rfl rfl rfl
    exact show execPpsInEdge stamp (s.tb.ppsEdge == 0) s = _ from if_neg (by simp [hon, hpps])
  · exact show execPpsMissing s = _ from if_pos (by simp [hon, hpps])
  · refine show execPpsOutPulse s = _ from ?_
    rw [execPpsOutPulse, hgrid]
    exact if_neg (by simp [hon, hgap])
  · exact show execPtmDialog ns ago s = _ from if_neg (by simp [hon, hptm, hcfg, hbus])
  · exact ⟨({ s with freeCtr := s.freeCtr + 1 } : State).tbNear s.freeCtr, fun h => State.tbNear_of_counting _ _ h, fun h => State.tbNear_of_stopped _ _ h,
      rfl⟩

end Sys2Proof.Machine
end


-- ==== Sys2Proof/Proofs/BeaconPorts.lean ====
section
/-! PROOFS. Beacon's commands, frames, link changes and measurements (R243 to R260, R311, R312). -/

namespace Sys2Proof.Machine

/-! ### A change of a port -/

section
variable {s : State} {p : Nat} {x : BcnPort} (hx : nth s.bcn.ports p = x)
include hx

/-- A change of a port depends on the port alone. -/
theorem State.updPort_congr {f g : BcnPort → BcnPort} (hfg : f x = g x) : s.updPort p f = s.updPort p g := by
  rw [State.updPort, State.updPort, upd_nth_congr hx hfg]

theorem State.updPort_id {f : BcnPort → BcnPort} (hf : f x = x) : s.updPort p f = s := by
  rw [State.updPort, upd_nth_id hx hf]

end

theorem State.nth_updPort {s : State} {p : Nat} (hp : p < s.bcn.ports.length) (f : BcnPort → BcnPort) :
    nth (s.updPort p f).bcn.ports p = f (nth s.bcn.ports p) := nth_upd_self f hp

/-! ### The report of a measurement (R250, R312) -/

/-- A measurement that ended, its report written or empty, completes its command. -/
theorem execBeaconMeasureDone_reported {s s2 : State} {m : BcnMeas} {e : JEntry} {ps : List Nat} {bs : List Byte} {k : Int} (hm : s.bcn.meas = some m)
    (hleft : m.left = 0) (he : s.jget m.cmd = some e) (hps : ps = allBelow 4 (bit m.mask))
    (hbs : bs = ((ps.map (fun p => (nth s.bcn.ports p).entry)).take (bulkLen e.pkt / 32)).flatten) (hbus : bs = [] ∨ s.busOk = true)
    (hk : (if (m.action = 1 && s.bcn.upPort.isSome) = true then
        ((s.updBcn (fun b => { b with meas := none })).hostWrite (bulkAddr e.pkt) bs).correctFor (if m.action = 1 then s.bcn.upPort.getD (ps.headD 0) else ps.headD 0)
      else ((s.updBcn (fun b => { b with meas := none })).hostWrite (bulkAddr e.pkt) bs, 0)) = (s2, k)) :
    execBeaconMeasureDone true s = .next (s2.rechoose.finish m.cmd OK
      (leBytes 8 (unsgn 64 (nth s.bcn.ports (if m.action = 1 then s.bcn.upPort.getD (ps.headD 0) else ps.headD 0)).theta) ++
        leBytes 4 (unsgn 32 (clampI (-2147483647) 2147483647 k)) ++ leBytes 2 s2.tb.epoch)) := by
  unfold execBeaconMeasureDone
  rw [hm]
  dsimp only
  rw [he]
  dsimp only
  rw [if_neg (not_not.2 hleft), ← hps, ← hbs, if_neg (by rcases hbus with h | h <;> simp [h]), if_neg (by simp), hk]

/-- A report that cannot be written ends the command with PARAM_RANGE (R299). -/
theorem execBeaconMeasureDone_unwritten {s : State} {m : BcnMeas} {e : JEntry} {ps : List Nat} {bs : List Byte} (hm : s.bcn.meas = some m)
    (hleft : m.left = 0) (he : s.jget m.cmd = some e) (hps : ps = allBelow 4 (bit m.mask))
    (hbs : bs = ((ps.map (fun p => (nth s.bcn.ports p).entry)).take (bulkLen e.pkt / 32)).flatten) (hne : bs ≠ []) (hbus : s.busOk = true) :
    execBeaconMeasureDone false s = .next (((s.updBcn (fun b => { b with meas := none })).logCp7 e).finish m.cmd PARAM_RANGE []) := by
  unfold execBeaconMeasureDone
  rw [hm]
  dsimp only
  rw [he]
  dsimp only
  rw [if_neg (not_not.2 hleft), ← hps, ← hbs, if_neg (by simp [hbus]), if_pos (by simpa using hne)]

/-! ### Frames received (R245, R246, R257) -/

theorem State.linkLogged_same {s s0 : State} {p : Nat} (h : (nth s.bcn.ports p).link = (nth s0.bcn.ports p).link) : s.linkLogged s0 p = s := by
  rw [State.linkLogged, h]
  simp

theorem State.linkLogged_up {s s0 : State} {p : Nat} (h : (nth s.bcn.ports p).link = .up) (h0 : (nth s0.bcn.ports p).link ≠ .up) :
    s.linkLogged s0 p = s.linkLog p := by
  rw [State.linkLogged, h]
  exact if_pos (by simpa using fun h => h0 h.symm)

theorem BcnPort.take_link (x : BcnPort) (f : List Byte) (edge : Nat) : (x.take f edge).link = x.link := by
  unfold BcnPort.take
  dsimp only
  split <;> rfl

theorem BcnPort.take_validRun (x : BcnPort) (f : List Byte) (edge : Nat) : (x.take f edge).validRun = x.validRun + 1 := by
  unfold BcnPort.take
  dsimp only
  split <;> rfl

/-- A port that a good frame sets UP. -/
def BcnPort.cameUp (x : BcnPort) : BcnPort := { x with link := .up, accSum := 0, accN := 0, arrTb := none, overRun := 0, underRun := 0 }

/-- The 64th good frame in a row sets a training or lost port UP, which is logged (R246). -/
theorem State.portUp_logged {s s1 : State} {p : Nat} {f : List Byte} {edge : Nat} (hp : p < s.bcn.ports.length) (h1 : s1 = s.updPort p (fun x => x.take f edge))
    {ups : Bool} (hups : ups = (63 ≤ (nth s.bcn.ports p).validRun && ((nth s.bcn.ports p).link == .training || (nth s.bcn.ports p).link == .down))) :
    (s1.updPort p (fun x => if 64 ≤ x.validRun && (x.link == .training || x.link == .down) then x.cameUp else x)).linkLogged s1 p =
      if ups then (s1.updPort p BcnPort.cameUp).linkLog p else s1 := by
  have hx : nth s1.bcn.ports p = (nth s.bcn.ports p).take f edge := by rw [h1, State.nth_updPort hp]
  have hlen : p < s1.bcn.ports.length := by
    rw [h1]
    exact (upd_length ..).symm ▸ hp
  have hcond : (decide (64 ≤ (nth s1.bcn.ports p).validRun) && ((nth s1.bcn.ports p).link == .training || (nth s1.bcn.ports p).link == .down)) = ups := by
    rw [hx, BcnPort.take_link, BcnPort.take_validRun, hups]
    congr 1
    exact decide_eq_decide.2 (by omega)
  cases hu : ups with
  | false =>
    rw [hu] at hcond
    rw [State.updPort_id rfl (by rw [hcond]; rfl), State.linkLogged_same rfl]
    rfl
  | true =>
    rw [hu] at hcond
    rw [State.updPort_congr rfl (g := BcnPort.cameUp) (by rw [hcond]; rfl), State.linkLogged_up]
    · rfl
    · rw [State.nth_updPort hlen]
      rfl
    · intro h
      rw [h] at hcond
      simp at hcond

/-- A good frame that ends no payload message is taken, may set its port UP, and its events act (R245, R246, R257). -/
theorem execBeaconFrameReceive_taken {s s1 : State} {p edge : Nat} {f : List Byte} (hp : p < 4) (hon : s.domOn 43 = true) (hen : (nth s.bcn.ports p).en = true)
    (hfail : (nth s.bcn.ports p).failed = false) (hfb : s.spr.fallback = false) (hok : frameOk f = true) (hcrc : frameCrcOk f = true)
    (hword : fld (rd f 1 1) 3 0 ≠ 15) (h1 : s1 = s.updPort p (fun x => x.take f edge)) {s2 : State}
    (h2 : s2 = ((s1.updPort p (fun x => if 64 ≤ x.validRun && (x.link == .training || x.link == .down) then x.cameUp else x)).linkLogged s1 p).reselect s.bcn.hold) :
    execBeaconFrameReceive p f edge s = .next
      (([parseEvent (nth s2.bcn.ports p).rxTb (f.drop 12), parseEvent (nth s2.bcn.ports p).rxTb (f.drop 19)].filterMap id).foldl (fun s e => s.bevReceive p e) s2) := by
  unfold execBeaconFrameReceive
  dsimp only
  rw [if_neg (by simp [hon, hen, hfail, hfb]; omega), if_neg (by simp [hok]), if_neg (by simp [hcrc]), ← h1]
  simp only [decide_eq_false hword, Bool.false_and, Bool.false_eq_true, if_false]
  rw [h2]
  rfl

/-! ### O42 -/

/-- Settles O42: the commands through their bodies, each event by its row, a frame through what it makes of the port. -/
theorem beaconCompletes : Obligations.BeaconCompletes := by
  unfold Obligations.BeaconCompletes
  intro s
  refine ⟨?_, ?_, ?_, ?_, ?_, ?_, ?_, ?_, ?_⟩
  · rintro q e b w ok rfl hbus hrdy hgood rfl
    refine ⟨?_, ?_⟩
    · rintro tbl rfl
      refine ⟨fun hok hon => ?_, fun hok => ?_⟩
      · exact show execBeaconConfig q (some tbl) s = _ from runCmd_done hrdy hgood (.inl rfl)
          ((withTable_read e tbl _ hbus).trans ((if_neg (by rw [hok]; decide)).trans (if_neg (by simp [hon])))) (.inl (by decide))
      · exact show execBeaconConfig q (some tbl) s = _ from runCmd_done hrdy hgood (.inl rfl)
          ((withTable_read e tbl _ hbus).trans (if_pos (by rw [hok]; rfl))) (.inl (by decide))
    · exact show execBeaconConfig q none s = _ from
        runCmd_done hrdy hgood (.inl rfl) (by simp [withTable, hbus]) (.inl (by decide))
  · rintro q e mask action bad rfl rfl hrdy hgood hbad
    refine ⟨fun hb hon hm => ?_, fun hb hon hm => ?_, fun hb hst => ?_⟩
    · exact show execBeaconMeasure q s = _ from runCmd_wait hrdy hgood (.inl rfl)
        ((if_neg (by rw [← hbad, hb, hon]; decide)).trans (if_neg (by rw [hm]; decide)))
    · exact show execBeaconMeasure q s = _ from runCmd_hold hrdy hgood (.inl rfl) ((if_neg (by rw [← hbad, hb, hon]; decide)).trans (if_pos hm))
    · exact show execBeaconMeasure q s = _ from runCmd_done hrdy hgood (.inl rfl) (if_pos (by rw [← hbad, hb]; rfl)) (.inr hst)
  · rintro m e ps bs s0 s1 hm hleft he hps hbs rfl rfl
    refine ⟨fun ha hbus => ?_, fun u s2 k ha hu hbus hk => ?_, fun hne hbus => ?_⟩
    · refine show execBeaconMeasureDone true s = _ from (execBeaconMeasureDone_reported hm hleft he hps hbs hbus (if_neg (by simp [ha]))).trans ?_
      rw [if_neg (by omega)]
      rfl
    · refine show execBeaconMeasureDone true s = _ from
        (execBeaconMeasureDone_reported (s2 := s2) (k := k) hm hleft he hps hbs hbus ((if_pos (by simp [ha, hu])).trans ?_)).trans ?_
      · rw [if_pos ha, hu]
        exact hk
      · rw [if_pos ha, hu]
        rfl
    · exact show execBeaconMeasureDone false s = _ from execBeaconMeasureDone_unwritten hm hleft he hps hbs hne hbus
  · rintro p x slot hp rfl hon hen hf hc rfl
    have hrow : execBeaconFrameSend p s = _ := if_neg (by simp [hon, hen, hf, hc]; omega)
    refine ⟨fun hg hal hq => ?_, fun hor => ?_⟩
    · exact show execBeaconFrameSend p s = _ from hrow.trans (if_pos (by rcases hal with h | h <;> simp [hg, h, hq]))
    · have hno : ¬ ((nth s.bcn.ports p).qwGate && (s.bcn.aligned || s.bcn.role = 1) && s.tb.inQuiet (s.tb.count.toNat - s.tb.count.toNat % 1280)) = true := by
        rcases hor with h | h | ⟨h, h'⟩ <;> simp [*]
      refine ⟨fun hr => ?_, ?_⟩
      · exact show execBeaconFrameSend p s = _ from hrow.trans ((if_neg hno).trans (if_pos hr))
      · rintro words evs hr rfl rfl
        refine show execBeaconFrameSend p s = _ from hrow.trans ((if_neg hno).trans ((if_neg (by simp [hr])).trans ?_))
        simp
  · intro p f edge hp hlen hon hen hfail hfb
    have hrow : execBeaconFrameReceive p f edge s = _ := if_neg (by simp [hon, hen, hfail, hfb]; omega)
    refine ⟨fun hok => ?_, fun hok hcrc => ?_, fun s1 ups s2 hok hcrc hword h1 hups h2 => ?_⟩
    · exact show execBeaconFrameReceive p f edge s = _ from hrow.trans (if_pos (by simp [hok]))
    · exact show execBeaconFrameReceive p f edge s = _ from hrow.trans ((if_neg (by simp [hok])).trans (if_pos (by simp [hcrc])))
    · exact show execBeaconFrameReceive p f edge s = _ from
        execBeaconFrameReceive_taken hp hon hen hfail hfb hok hcrc hword h1 (by rw [State.portUp_logged hlen h1 hups, h2]; rfl)
  · rintro p x hp rfl hon hor
    exact show execPortDown p s = _ from if_neg (by rcases hor with h | h | h <;> simp [hon, h] <;> omega)
  · rintro p x r s1 hp rfl hon hf hor rfl
    have hrow : ∀ pass, execPortSelfTest p pass r s = _ := fun pass => if_neg (by rcases hor with ⟨h, h'⟩ | ⟨h, h'⟩ <;> simp [hon, hf, h, h'] <;> omega)
    have hport : s.updPort p (fun y => { y with link := if y.en then .failed else y.link, failed := true, validRun := 0 }) =
        s.updPort p (fun y => { y with link := if (nth s.bcn.ports p).en then .failed else (nth s.bcn.ports p).link, failed := true, validRun := 0 }) :=
      State.updPort_congr rfl rfl
    refine ⟨fun hen => ?_, fun hen => ?_, fun hfirst => ?_, fun hsecond => ?_⟩
    · exact show execPortSelfTest p true r s = _ from (hrow true).trans (congrArg Host.Outcome.next (if_pos hen))
    · exact show execPortSelfTest p true r s = _ from (hrow true).trans (congrArg Host.Outcome.next (if_neg (by simp [hen])))
    · exact show execPortSelfTest p false r s = _ from (hrow false).trans (by rw [hfirst, ← hport]; rfl)
    · exact show execPortSelfTest p false r s = _ from (hrow false).trans (by rw [hsecond, ← hport]; rfl)
  · intro p hp hl
    exact show execReceiverLosesAlignment p s = _ from if_neg (by simp [hl]; omega)
  · rintro p x slot s1 hp rfl hon hor hacc rfl rfl
    have hfew : ¬ (nth s.bcn.ports p).accN < s.bcn.frames p := Nat.not_lt.2 hacc
    have hrow : execArrMeasured p s = _ := if_neg (by rcases hor with h | h <;> simp [hon, h, hfew] <;> omega)
    refine ⟨fun hn => ?_, fun prev hprev => ?_⟩
    · exact show execArrMeasured p s = _ from hrow.trans (by rw [hn])
    · exact show execArrMeasured p s = _ from hrow.trans (by rw [hprev])

end Sys2Proof.Machine
end


-- ==== Sys2Proof/Proofs/Monitoring.lean ====
section
/-! PROOFS. Buoy and the comparators that judge while PD48 is off (O45). -/

namespace Sys2Proof.Machine

/-- What a scan that is due does is a change of Buoy alone, by what it converts (R417, R418). -/
theorem execBuoyScanStart_eq {s : State} (hon : s.domOn 48 = true) :
    (s.buoy.st = .idle → execBuoyScanStart s = .next (s.updBuoy (fun b => b.startScan))) ∧
    (s.buoy.st = .scanning → execBuoyScanStart s = .next (s.updBuoy (fun b => { b with due := true, scanLate := min 65535 (b.scanLate + 1) }))) ∧
    (s.buoy.st = .urgent → execBuoyScanStart s = .next (s.updBuoy (fun b => { b with due := true }))) := by
  refine ⟨fun hst => ?_, fun hst => ?_, fun hst => ?_⟩ <;> simp [execBuoyScanStart, hon, hst, State.updBuoy, satAdd]

/-- MONITOR_READ with PD48 on, by its mode (R324, R418). -/
theorem execMonitorReadUrgent_waits {s : State} {q : Nat} {e : JEntry} {f : Buoy → Buoy} (hon : s.domOn 48 = true) (hrdy : CmdReady s q 0x59 e)
    (hgood : PktGood e [(16, 1), (17, 1)] monitorOk) (hmode : rd e.pkt 17 1 = 1) (hst : s.buoy.st ≠ .scanning)
    (hf : { s.buoy with urgents := s.buoy.urgents ++ [(rd e.pkt 16 1, e.idx)], st := .urgent, input := if s.buoy.st == .urgent then s.buoy.input else rd e.pkt 16 1 } =
      f s.buoy) :
    execMonitorReadUrgent q s = .next ((s.updBuoy f).waitsFor e (.convert (rd e.pkt 16 1)) none) :=
  runCmdSel_wait hrdy (by simp [hmode]) hgood (.inl rfl)
    ((if_neg (by simp [hon])).trans ((if_neg (by simp [hst])).trans
      (congrArg (fun b => CmdOut.wait { s with buoy := b } (.convert (rd e.pkt 16 1)) none) hf)))

/-! ### O45 -/

/-- Settles O45: the events by Buoy's state, the commands through their bodies, the comparators by their conditions. -/
theorem monitoringCompletes : Obligations.MonitoringCompletes := by
  unfold Obligations.MonitoringCompletes
  intro s
  refine ⟨fun hon => ?_, ?_, ?_⟩
  · obtain ⟨hidle, hscanning, hurgent⟩ := execBuoyScanStart_eq hon
    refine ⟨hidle, hscanning, hurgent, ?_, ?_, ?_, ?_⟩
    · rintro code i c rfl rfl
      refine ⟨fun hst => ?_, fun hst => ?_⟩
      · exact show execBuoyConversionDone code s = _ from (if_neg (by simp [hst, hon])).trans (by rw [hst]; rfl)
      · exact show execBuoyConversionDone code s = _ from (if_neg (by simp [hst, hon])).trans (by rw [hst]; rfl)
    · intro i count hi
      exact show execAgeingGate i count s = _ from if_neg (by simp [hon]; omega)
    · intro q e hrdy hgood
      refine ⟨fun hlen tbl => ?_, fun tbl hlen hbus hall => ?_⟩
      · exact show execMonitorScanConfig q tbl s = _ from runCmd_done hrdy hgood (.inl rfl) ((if_pos hlen).trans (if_pos hon)) (.inl (by decide))
      · exact show execMonitorScanConfig q (some tbl) s = _ from runCmd_done hrdy hgood (.inl rfl)
          ((if_neg (by simp [hlen])).trans ((withTable_read e tbl _ hbus).trans
            (by rw [hlen]; exact (if_neg (by simp only [hall]; decide)).trans (if_neg (by simp [hon]))))) (.inl (by decide))
    · rintro q e i rfl hrdy hgood
      refine ⟨fun hmode => ?_, fun hmode hst => ?_, fun hmode hst => ?_, fun hmode hst => ?_⟩
      · exact show execMonitorReadLast q s = _ from
          runCmdSel_done hrdy (by simp [hmode]) hgood (.inl rfl) (if_neg (by simp [hon])) (.inl (by decide))
      · exact show execMonitorReadUrgent q s = _ from
          runCmdSel_done hrdy (by simp [hmode]) hgood (.inl rfl) ((if_neg (by simp [hon])).trans (if_pos (by simp [hst]))) (.inl (by decide))
      · exact show execMonitorReadUrgent q s = _ from
          execMonitorReadUrgent_waits hon hrdy hgood hmode (by rw [hst]; decide) (by rw [hst]; rfl)
      · exact show execMonitorReadUrgent q s = _ from
          execMonitorReadUrgent_waits hon hrdy hgood hmode (by rw [hst]; decide) (by rw [hst]; rfl)
  · intro d hoff hd
    exact show execRailComparatorTrip d s = _ from if_neg (by simp [hoff, hd])
  · intro hst
    have hrow : ∀ out, execTempComparatorCheck out s = _ := fun out => if_neg (by rcases hst with h | h <;> simp [h])
    refine ⟨fun hwas => ?_, fun hwas => ?_, ?_⟩
    · exact show execTempComparatorCheck true s = _ from (hrow true).trans (congrArg Host.Outcome.next (if_pos (by simp [hwas])))
    · exact show execTempComparatorCheck true s = _ from (hrow true).trans (congrArg Host.Outcome.next (if_neg (by simp [hwas])))
    · exact show execTempComparatorCheck false s = _ from (hrow false).trans (congrArg Host.Outcome.next (if_neg (by simp)))

end Sys2Proof.Machine
end


-- ==== Sys2Proof/Proofs/LampMatrix.lean ====
section
/-! PROOFS. The lamp matrix: its slots, its frames and LAMP_SYNC (O44). -/

namespace Sys2Proof.Machine

/-! ### Quiet windows (R260, R409) -/

theorem State.lampSlot_runs {s : State} {ticks : Nat} {run : State → State} (hq : s.qwStarves = false)
    (hfit : (s.updLamp (fun l => { l with starved := false })).slotFits ticks = true) :
    s.lampSlot ticks run = run (s.updLamp (fun l => { l with starved := false })) :=
  (if_neg (by simp [hq])).trans (if_pos hfit)

theorem State.lampSlot_waits {s : State} {ticks : Nat} {run : State → State} (hq : s.qwStarves = false)
    (hfit : (s.updLamp (fun l => { l with starved := false })).slotFits ticks = false) (hst : s.lamp.st ≠ .waitQw) :
    s.lampSlot ticks run = (s.updLamp (fun l => { l with starved := false })).updLamp (fun l => { l.dark with st := .waitQw, qwWait := min 65535 (l.qwWait + 1) }) :=
  (if_neg (by simp [hq])).trans ((if_neg (by simp [hfit])).trans (if_neg (by simp [State.updLamp, hst])))

theorem State.lampSlot_starves {s : State} {ticks : Nat} {run : State → State} (hq : s.qwStarves = true) (hst : s.lamp.starved = false) :
    s.lampSlot ticks run =
      ((s.updLamp (fun l => { l.dark with st := .qwStarved })).event 0x41 0 none s.tb.count [1]).updLamp (fun l => { l with starved := true }) :=
  (if_pos hq).trans (if_neg (by simp [State.updLamp, Lamp.dark, hst]))

/-! ### Slots (R404, R405, R408 to R411) -/

/-- Row slot r, where no quiet window keeps it. -/
def State.lampRow (s : State) (r : Nat) (fs : List Nat) : State :=
  (rowColours r).foldl (fun x i =>
    if 100 ≤ (if s.driven i then s.duty i else 0) * x.tickDiv then x.lampFind i (LampDiag.ofCode (fs.getD (i % 24) 0)) else x)
    (s.updLamp (fun l =>
      { l with st := .rows, row := r, slot := some (r + 1), begun := some (s.now, 256 + 2 * s.rowGuard),
               drive := (rowColours r).map (fun i => if s.driven i then s.duty i else 0),
               current := (rowColours r).map (fun i => nth l.iEff (i % 3)) }))

theorem execLampRowSlot_eq {s : State} {r : Nat} (fs : List Nat) (hon : s.domOn 47 = true) (hslot : s.lamp.slot = some r) (hr : r < 16) :
    execLampRowSlot fs s = .next (s.lampSlot (256 + 2 * s.rowGuard) (fun s => s.lampRow r fs)) := by
  rw [execLampRowSlot, hslot]
  exact if_neg (by simp [hon]; omega)

/-- Diagnostic slot r, where no quiet window keeps it. -/
def State.lampDiagRow (s : State) (r : Nat) (fs : List Nat) : State :=
  (rowColours r).foldl (fun x i =>
    if ((rowColours r).map s.needsDiag).getD (i % 24) false then x.lampFind i (LampDiag.ofCode (fs.getD (i % 24) 0)) else x)
    (s.updLamp (fun l =>
      { l with st := .diag, row := r, begun := some (s.now, s.pulseTicks + 2 * s.rowGuard),
               drive := (rowColours r).map (fun i => if s.needsDiag i then s.pulseTicks else 0),
               current := (rowColours r).map (fun i => max 1 ((2 * nth l.iEff (i % 3) + 8) / 16)) }))

theorem execLampDiagSubframe_eq {s : State} {r : Nat} (fs : List Nat) (hon : s.domOn 47 = true) (hslot : s.lamp.diagSlot = some r) :
    execLampDiagSubframe fs s = .next (s.lampSlot (s.pulseTicks + 2 * s.rowGuard) (fun s =>
      if r < 15 then (s.lampDiagRow r fs).updLamp (fun l => { l with diagSlot := some (r + 1) })
      else (s.lampDiagRow r fs).updLamp (fun l => { l with diagSlot := none, slot := some 0, diagCnt := min 0xFFFFFFFF (l.diagCnt + 1) }))) := by
  rw [execLampDiagSubframe, hslot]
  refine (if_neg (by simp [hon])).trans ?_
  simp only [List.map_map]
  rfl

/-! ### Frames (R405 to R407) -/

/-- The state at a frame boundary before the next frame begins: findings age, the pending generation applies with the frame's number,
what is unverified is forgotten, and the currents are set. -/
def State.lampFrameEnd (s : State) (num : Nat) : State :=
  let s1 := if s.lamp.st = .stopped then s else (List.range 384).foldl State.lampAge s
  let s2 := if (nth s1.units 34).pend = [] then s1 else s1.applyGen 34 (BitVec.ofNat 64 num)
  ((List.range 384).foldl State.lampBlind s2).lampCurrent

/-- LAMP_FRAME_BOUNDARY while the matrix is powered, through the frame's end. -/
theorem execLampFrameBoundary_eq {s : State} {num : Nat} (hon : s.domOn 47 = true) (hdue : s.lamp.st = .stopped ∨ s.lamp.slot = some 16)
    (hnum : num = if s.lamp.st = .stopped then 0 else min 0xFFFFFFFF (s.lamp.frameNum + 1)) :
    execLampFrameBoundary s =
      if s.lamp.st = .stopped ∧ (s.lampFrameEnd num).lampRun = false then .next (s.lampFrameEnd num)
      else .next (((s.lampFrameEnd num).updLamp (fun l => { l with frameNum := num })).lampNext) := by
  have hrow : execLampFrameBoundary s = _ := (if_neg (by simp [hon])).trans (if_neg (by rcases hdue with h | h <;> simp [h]))
  rw [hrow, hnum]
  simp only [State.lampFrameEnd, beq_iff_eq, List.isEmpty_iff, forEach, satAdd, Bool.and_eq_true, Bool.not_eq_true']
  rfl

/-! ### O44 -/

/-- Settles O44: a slot through the three things a quiet window lets it do, the frame boundary through the frame's end. -/
theorem lampCompletes : Obligations.LampCompletes := by
  unfold Obligations.LampCompletes
  intro s
  refine ⟨fun hoff => ?_, fun fs hon => ⟨?_, ?_, ?_, ?_, fun hext hst => ?_, fun hext hsync hstop => ?_⟩⟩
  · refine show execLampFrameBoundary s = _ from (if_pos (by simp [hoff])).trans (congrArg Host.Outcome.next ?_)
    simp only [List.isEmpty_iff]
  · rintro r s0 s1 hslot hr rfl hq rfl
    have hrow := execLampRowSlot_eq fs hon hslot hr
    refine ⟨fun hfit => ?_, fun hfit hst => ?_⟩
    · exact show execLampRowSlot fs s = _ from hrow.trans (congrArg Host.Outcome.next (State.lampSlot_runs hq hfit))
    · exact show execLampRowSlot fs s = _ from hrow.trans (congrArg Host.Outcome.next (State.lampSlot_waits hq hfit hst))
  · intro r hslot hr hq hst
    exact show execLampRowSlot fs s = _ from
      (execLampRowSlot_eq fs hon hslot hr).trans (congrArg Host.Outcome.next (State.lampSlot_starves hq hst))
  · rintro r s1 s2 hslot hq hfit rfl rfl
    have hrow := (execLampDiagSubframe_eq fs hon hslot).trans (congrArg Host.Outcome.next (State.lampSlot_runs hq hfit))
    refine ⟨fun hr => ?_, fun hr => ?_⟩
    · exact show execLampDiagSubframe fs s = _ from hrow.trans (congrArg Host.Outcome.next (if_pos hr))
    · exact show execLampDiagSubframe fs s = _ from hrow.trans (congrArg Host.Outcome.next (if_neg (Nat.not_lt.2 hr)))
  · rintro num s1 s2 s3 hdue hnum rfl rfl rfl
    have hrow := execLampFrameBoundary_eq hon hdue hnum
    refine ⟨fun hgo => ?_, fun hst hrun => ?_⟩
    · refine show execLampFrameBoundary s = _ from hrow.trans (if_neg ?_)
      rintro ⟨hst, hrun⟩
      rcases hgo with hne | hgo
      · exact hne hst
      · exact Bool.false_ne_true (hrun.symm.trans hgo)
    · exact show execLampFrameBoundary s = _ from hrow.trans (if_pos ⟨hst, hrun⟩)
  · exact show execLampSyncEdge s = _ from (if_neg (by simp [hon, hext, hst])).trans (if_pos (by simp [hst]))
  · exact show execLampSyncEdge s = _ from (if_neg (by simp [hon, hext, hstop])).trans (if_neg (by simp [hsync]))

end Sys2Proof.Machine
end


-- ==== Sys2Proof/Proofs/DisplayOutputs.lean ====
section
/-! PROOFS. Lantern's frames, passes and DisplayPort outputs, and EDID_READ (O43). -/

namespace Sys2Proof.Machine

/-- Line 0 of the next frame refits both outputs, output 0 first (R387, R398). -/
theorem State.newFrame_eq (s : State) : s.newFrame = (s.line0.dpRefit 0).dpRefit 1 := by
  simp only [State.newFrame, forEach, List.foldl]

/-! ### Link training (R398) -/

/-- Training walks from the widest and fastest configuration. -/
theorem head?_trainOrder (lanes rate : Nat) : (trainOrder lanes rate).head? = some (lanes, rate) := by
  simp [trainOrder, List.range_succ]

/-- DP_TRAIN_END of an output in training, by whether the first configuration carries the pixels. -/
theorem execDpTrainEnd_eq {s : State} {k lanes rate l r : Nat} {tries : List Bool} (hon : s.domOn 46 = true) (hst : (nth s.ltn.dp k).st = .training)
    (hl : l = min lanes (s.regF (ltnA 0) 7 6)) (hr : r = min rate (s.regF (ltnA 0) 9 8)) :
    (s.linkFits l r = false → execDpTrainEnd k { lanes := lanes, rate := rate } tries s = .next (s.dpTo k .noBw)) ∧
    (s.linkFits l r = true →
      (∀ c, (((trainOrder l r).filter (fun c => s.linkFits c.1 c.2)).zip tries).find? Prod.snd = some (c, true) →
        execDpTrainEnd k { lanes := lanes, rate := rate } tries s = .next ((s.updDp k (fun d => { d with lanes := c.1, rate := c.2 })).dpTo k .up)) ∧
      ((((trainOrder l r).filter (fun c => s.linkFits c.1 c.2)).zip tries).find? Prod.snd = none →
        execDpTrainEnd k { lanes := lanes, rate := rate } tries s = .next (s.dpTo k .lost))) := by
  have hwalk : s.trainWalk lanes rate = trainOrder l r := by rw [hl, hr, State.trainWalk]
  have hrow : execDpTrainEnd k { lanes := lanes, rate := rate } tries s = _ := if_neg (by simp [hst, hon])
  rw [hrow]
  dsimp only
  rw [hwalk, head?_trainOrder, Option.any_some]
  refine ⟨fun hno => if_pos (by rw [hno]; rfl), fun hfit => ⟨fun c hc => ?_, fun hnone => ?_⟩⟩
  · rw [if_neg (by rw [hfit]; decide), hc]
  · rw [if_neg (by rw [hfit]; decide), hnone]

/-- With no try that succeeds the walk finds nothing. -/
theorem find?_zip_of_all_false {α : Type} {xs : List α} {tries : List Bool} (h : ∀ b ∈ tries, b = false) : (xs.zip tries).find? Prod.snd = none := by
  rw [List.find?_eq_none]
  rintro ⟨x, b⟩ hmem
  simp [h b (List.of_mem_zip hmem).2]

/-! ### HPD (R399) -/

/-- HPD_LOW of a powered Lantern, by the state of the output. -/
theorem execHpdLow_eq {s s' : State} {k : Nat} (hon : s.domOn 46 = true) (hs' : s' = s.updDp k (fun d => { d with hpd := false })) :
    ((nth s'.ltn.dp k).st = .up → execHpdLow k s = .next (s'.dpTo k .lost)) ∧
    ((nth s'.ltn.dp k).st = .training ∨ (nth s'.ltn.dp k).st = .noBw → execHpdLow k s = .next (s'.dpTo k .waitHpd)) := by
  have hon' : s'.domOn 46 = true := by rw [hs']; exact hon
  unfold execHpdLow
  dsimp only
  rw [← hs', if_neg (by simp [hon'])]
  refine ⟨fun h => ?_, fun h => ?_⟩
  · rw [h]
  · rcases h with h | h <;> rw [h]

/-! ### Passes (R388 to R393) -/

/-- A finished pass writes its picture into t and is recorded in u; a pass that is owed begins at once. -/
theorem execRasterPassDone_eq {s t u : State} (hon : s.domOn 46 = true) (hrun : s.ltn.passRun = true) (hfb : s.spr.fallback = false)
    (ht : t = s.putBytes (s.fbBase s.ltn.passBuf) s.raster)
    (hu : u = t.updLtn (fun l =>
      { l with passRun := false, passReady := t.scanSrc = 0, passHeld := t.scanSrc ≠ 0, needPass := false, passCnt := min 0xFFFFFFFF (l.passCnt + 1),
               traceSkip := min 65535 (l.traceSkip + (List.range 16).countP (fun t => (s.trace t).en && s.traceSkips (s.trace t))),
               bufGen := l.bufGen.set l.passBuf l.passGen, owed := false })) :
    execRasterPassDone s = if s.ltn.owed = true ∧ u.scanSrc ≠ 0 ∧ u.rasterEn = true then .next (u.startPass u.drawBuf) else .next u := by
  unfold execRasterPassDone
  dsimp only
  rw [if_neg (by simp [hon, hrun, hfb]), ← ht]
  simp only [satAdd, ← hu, Bool.and_eq_true, decide_eq_true_eq, and_assoc]
  exact apply_ite Host.Outcome.next _ _ _

/-! ### EDID_READ (R322) -/

section
variable {s : State} {q k : Nat} {e : JEntry} {w : Bool} (hon : s.domOn 46 = true) (hk : pktIndex e.pkt = k) (hrdy : CmdReady s q 0x4A e)
  (hgood : PktGood e [(16, 1), (17, 1), (48, 16)]
    (fun p => pktIndex p ≤ 1 && 1 ≤ rd p 17 1 && rd p 17 1 ≤ 4 && bulkOk p && (bulkLen p == 0 || 128 * rd p 17 1 ≤ bulkLen p)))
include hon hk hrdy hgood

theorem execEdidRead_failed {aux : Option (List Byte)} {code : Nat} (hstart : s.pwr.starting = false)
    (hcode : (nth s.ltn.dp k).hpd = false ∧ code = 1 ∨ (nth s.ltn.dp k).hpd = true ∧ aux = none ∧ code = 2) :
    execEdidRead q aux w s = .next (s.finish e.idx STATE (edidResult 0 0 code)) := by
  subst hk
  refine runCmd_done hrdy hgood (.inl rfl) ((if_neg (by simp [hon])).trans ?_) (.inr hstart)
  rcases hcode with ⟨h, rfl⟩ | ⟨h, rfl, rfl⟩
  · exact if_pos (by rw [h]; rfl)
  · exact if_neg (by simp [h])

variable {n ext : Nat} {bs : List Byte} (hhpd : (nth s.ltn.dp k).hpd = true) (hn : n = 128 * rd e.pkt 17 1)
  (hext : ext = if rd e.pkt 16 1 = 0 then rd (padTo n bs) 126 1 else 0)
include hhpd hn hext

theorem execEdidRead_inline (hlen : bulkLen e.pkt = 0) : execEdidRead q (some bs) w s = .next (s.finish e.idx OK (edidResult 0 ext 0)) := by
  subst hk hn hext
  exact runCmd_done hrdy hgood (.inl rfl) ((if_neg (by simp [hon])).trans ((if_neg (by simp [hhpd])).trans (if_pos hlen))) (.inl (by decide))

theorem execEdidRead_written (hlen : bulkLen e.pkt ≠ 0) (hbs : padTo n bs ≠ []) (hbus : s.busOk = true) :
    execEdidRead q (some bs) true s = .next ((s.hostWrite (bulkAddr e.pkt) (padTo n bs)).finish e.idx OK (edidResult n ext 0)) ∧
    execEdidRead q (some bs) false s = .next ((s.logCp7 e).finish e.idx PARAM_RANGE []) := by
  subst hk hn hext
  refine ⟨?_, ?_⟩
  · exact runCmd_done hrdy hgood (.inl rfl)
      ((if_neg (by simp [hon])).trans ((if_neg (by simp [hhpd])).trans ((if_neg hlen).trans (withReport_written hbs hbus)))) (.inl (by decide))
  · exact runCmd_done hrdy hgood (.inl rfl)
      ((if_neg (by simp [hon])).trans ((if_neg (by simp [hhpd])).trans ((if_neg hlen).trans (withReport_failed hbs hbus)))) (.inl (by decide))

end

/-! ### O43 -/

/-- Settles O43: each event by its row, training through the head of its walk, EDID_READ through its body. -/
theorem displayCompletes : Obligations.DisplayCompletes := by
  unfold Obligations.DisplayCompletes
  intro s
  refine ⟨fun hg hscan hstop hvb => ?_, fun hg hscan => ?_, fun hg => ?_, fun k hon hk => ⟨?_, ?_, ?_, ?_, ?_, ?_, ?_, ?_, ?_, ?_, ?_, ?_⟩⟩
  · exact show execFrameBoundary s = _ from (if_neg (by simp [hg])).trans ((if_neg (by simp [hscan])).trans (if_neg (by simp [hstop, hvb])))
  · exact show execFrameBoundary s = _ from (if_neg (by simp [hg])).trans (if_pos (by simp [hscan]))
  · exact show execFrameBoundary s = _ from if_pos (by simp [hg])
  · rintro q e aux w n rfl hidx hrdy hgood
    refine ⟨fun hhpd hst => ?_, fun hhpd hst => ?_, fun bs ext hhpd hext => ⟨fun hlen => ?_, fun hlen hbs hbus => ?_⟩⟩
    · exact show execEdidRead q aux w s = _ from execEdidRead_failed hon hidx hrdy hgood hst (.inl ⟨hhpd, rfl⟩)
    · exact show execEdidRead q none w s = _ from execEdidRead_failed hon hidx hrdy hgood hst (.inr ⟨hhpd, rfl, rfl⟩)
    · exact show execEdidRead q (some bs) w s = _ from execEdidRead_inline hon hidx hrdy hgood hhpd rfl hext hlen
    · exact execEdidRead_written hon hidx hrdy hgood hhpd rfl hext hlen hbs hbus
  · intro hscan hstop hvb
    exact show execLine0Flip s = _ from (if_neg (by simp [hon, hscan, hstop, hvb])).trans (congrArg Host.Outcome.next s.newFrame_eq)
  · intro t u hrun hfb ht hu
    have hrow := execRasterPassDone_eq hon hrun hfb ht hu
    refine ⟨fun hno => ?_, fun how hsrc hen => ?_⟩
    · exact show execRasterPassDone s = _ from hrow.trans (if_neg (by rcases hno with h | h | h <;> simp [h]))
    · exact show execRasterPassDone s = _ from hrow.trans (if_pos ⟨how, hsrc, hen⟩)
  · rintro ls line x rfl rfl rfl
    refine ⟨fun hf hne => ?_, fun hno => ?_⟩
    · exact show execLineUnderrun s = _ from if_neg (by simp [hf, hne])
    · exact show execLineUnderrun s = _ from if_pos (by rcases hno with h | h <;> simp [h])
  · intro hf hu hw
    exact show execFetchUrgent true s = _ from (if_neg (by decide)).trans (if_pos (by simp [hf, hu, hw]))
  · exact show execFetchUrgent false s = _ from if_pos rfl
  · rintro d rfl hlen hen hfail hup htr
    have hdp : nth (s.updDp k (fun d => { d with hpd := true })).ltn.dp k = { nth s.ltn.dp k with hpd := true } := nth_upd_self _ hlen
    refine show execDpTrain k s = _ from (if_neg (by omega)).trans (congrArg Host.Outcome.next (if_pos ?_))
    rw [hdp]
    simp [hfail, hup, htr]
    exact ⟨hon, hen⟩
  · rintro d lanes rate tries walk fits rfl hst rfl rfl
    obtain ⟨hno, hyes⟩ := execDpTrainEnd_eq (tries := tries) hon hst rfl rfl
    refine ⟨hno, fun hfit => ?_⟩
    obtain ⟨hup, hlost⟩ := hyes hfit
    exact ⟨hup, fun hall => hlost (find?_zip_of_all_false hall)⟩
  · exact fun s' hs' => execHpdLow_eq hon hs'
  · intro hup
    exact show execHpdIrq k s = _ from congrArg Host.Outcome.next (if_pos (by simp [hon, hup]))
  · intro hl hh hen
    exact show execDpRetry k s = _ from congrArg Host.Outcome.next (if_pos (by simp [hon, hl, hh, hen]))
  · rintro r d rfl hfail hup htr
    have hrow : execDpSelfTest k false r s = _ := if_neg (by simp [hon, hfail, hup, htr]; omega)
    refine ⟨?_, fun ho => ?_, fun ho => ?_⟩
    · exact show execDpSelfTest k true r s = _ from if_pos (by simp)
    · exact show execDpSelfTest k false r s = _ from hrow.trans (by rw [ho]; rfl)
    · exact show execDpSelfTest k false r s = _ from hrow.trans (by rw [ho]; rfl)

end Sys2Proof.Machine
end


-- ==== Sys2Proof/Proofs/PowerSequences.lean ====
section
/-! PROOFS. POWER_STATE, DOMAIN_CONTROL, the ends of ramps and domain restarts (O46). -/

namespace Sys2Proof.Machine

/-! ### Commands after which the sequencer goes on -/

/-- POWER_STATE is its command, and the sequencer goes on (R434). -/
theorem execPowerState_next {s t : State} {q : Nat}
    (h : runCmd s q 0x60 [(16, 1)] (fun p => pktIndex p == 0 && rd p 16 1 ≤ 3)
      (fun s e => if s.pwr.trans.isSome || s.pwr.starting then .wait s (.power false) none else powerAct s e) = .next t) :
    execPowerState q s = .next t.sequencer := by
  rw [execPowerState, h]

/-- POWER_STATE acts: it is refused, names the present state, or begins the sequence of R428. -/
theorem powerAct_eq {s : State} {e : JEntry} {target : Nat} (htarget : rd e.pkt 16 1 = target) :
    (s.powerBusy target = true → powerAct s e = .done s STATE []) ∧
    (s.powerBusy target = false → PowerSt.ofCode target = s.pwr.st → powerAct s e = .done s OK (powerResult s.pwr.st.code s.pwr.st.code 0)) ∧
    (s.powerBusy target = false → PowerSt.ofCode target ≠ s.pwr.st →
      ∀ steps, powerSteps s.pwr.activeMask s.pwr.st (PowerSt.ofCode target) = some steps →
      ∀ s1, s1 = (if PowerSt.ofCode target = .standby ∨ PowerSt.ofCode target = .off then (s.updPwr (fun p => { p with ready := false })).closeDebug else s) →
      powerAct s e = .wait (s1.updPwr (fun p =>
        { p with trans := some { target := some (PowerSt.ofCode target), old := s.pwr.st, steps := steps, start := s1.now, cmd := some e.idx } }))
          (.power true) (some [])) := by
  subst htarget
  refine ⟨fun hb => ?_, fun hb hst => ?_, fun hb hst steps hsteps s1 hs1 => ?_⟩
  · exact if_pos hb
  · exact (if_neg (by simp [hb])).trans (if_pos (by simp [hst]))
  · refine (if_neg (by simp [hb])).trans ((if_neg (by simp [hst])).trans ?_)
    rw [hsteps]
    simp only [Bool.or_eq_true, beq_iff_eq, ← hs1]

/-- DOMAIN_CONTROL that has its turn, by what its checks find. -/
theorem execDomainControl_next {s t : State} {q : Nat}
    (h : runCmd s q 0x61 [(16, 8), (24, 8)]
      (fun p =>
        let both := rd p 16 8 ||| rd p 24 8
        pktIndex p == 0 && both < 2 ^ 50 && rd p 16 8 &&& rd p 24 8 == 0 && both &&& (maskOf 45 42 ||| maskOf 49 48) == 0)
      (fun s e =>
        let on := rd e.pkt 16 8
        let off := rd e.pkt 24 8
        if s.domainBusy on off then refuse s STATE
        else if s.pwr.trans.isSome then .hold
        else
          let steps := (allBelow 49 (bit on)).map PStep.on ++ ((allBelow 49 (bit off)).reverse).map PStep.off
          let t : Trans := { old := s.pwr.st, steps := steps, cause := 0, start := s.now }
          .wait (s.updPwr (fun p => { p with trans := some t, activeMask := (p.activeMask ||| on) - (p.activeMask &&& off) })) .domains (some [])) = .next t) :
    execDomainControl q s = .next t.sequencer := by
  rw [execDomainControl, h]

/-! ### Restarts (R447, R449) -/

section
variable {s : State} {d : Nat} (cause : Nat) (hd : d < 49) (hon : s.domOn d = true)
include hd hon

/-- A domain that must restart does so at once where no sequence runs. -/
theorem State.restartDomain_begins (ht : s.pwr.trans = none) : s.restartDomain d cause = s.beginRestart d cause :=
  (if_neg (by simp [hon]; omega)).trans (if_neg (by simp [ht]))

/-- It waits for the sequence that runs, once. -/
theorem State.restartDomain_waits (ht : s.pwr.trans.isSome = true) (hno : ∀ x ∈ s.pwr.restartDue, x.1 ≠ d) :
    s.restartDomain d cause = s.updPwr (fun p => { p with restartDue := p.restartDue ++ [(d, cause)] }) := by
  refine (if_neg (by simp [hon]; omega)).trans ((if_pos ht).trans (if_neg ?_))
  rw [List.any_eq_true]
  rintro ⟨x, hx, heq⟩
  exact hno x hx (beq_iff_eq.1 heq)

theorem State.restartDomain_again (ht : s.pwr.trans.isSome = true) (hin : ∃ x ∈ s.pwr.restartDue, x.1 = d) : s.restartDomain d cause = s := by
  refine (if_neg (by simp [hon]; omega)).trans ((if_pos ht).trans (if_pos ?_))
  obtain ⟨x, hx, heq⟩ := hin
  exact List.any_eq_true.2 ⟨x, hx, beq_iff_eq.2 heq⟩

end

/-- A missed heartbeat and an uncorrectable state error restart their domain, and the sequencer goes on. -/
theorem restartEvents_next {s t2 t1 : State} {d : Nat} (h2 : s.restartDomain d 2 = t2) (h1 : s.restartDomain d 1 = t1) :
    execHeartbeatTimeout d s = .next t2.sequencer ∧ execUncorrectableStateError d s = .next t1.sequencer := by
  rw [execHeartbeatTimeout, execUncorrectableStateError, h2, h1]
  exact ⟨rfl, rfl⟩

/-! ### The ends of ramps (R425, R426, R429) -/

/-- A rail that rose, or that waited out its time off and then rose. -/
theorem execDomainRampDone_on {s s0 s1 : State} {t : Trans} {d : Nat} {rest : List PStep} (ht : s.pwr.trans = some t) (hsteps : t.steps = .on d :: rest)
    (hs0 : (nth s.pwr.doms d).st = .ramp ∧ s0 = s ∨
      (nth s.pwr.doms d).st = .off ∧ (nth s.pwr.doms d).restarting = false ∧ s.cooling d = false ∧ s0 = s.ramp d true)
    (hs1 : s1 = s0.updDom d (fun x => { x with st := .on, cause := t.cause, offAt := none })) :
    execDomainRampDone s =
      .next ((((((if d = 45 then s1.flushStby else s1).domainEvent d).gainDomain d t.cause).updPwr Pwr.popStep).sequencer)) := by
  rw [execDomainRampDone, ht]
  dsimp only
  rw [hsteps]
  rcases hs0 with ⟨hst, rfl⟩ | ⟨hst, hrest, hcool, rfl⟩
  · refine (if_neg (by simp [hst])).trans ?_
    rw [hs1, hst]
    rfl
  · refine (if_neg (by simp [hst, hrest, hcool])).trans ?_
    rw [hs1, hst]
    rfl

theorem execDomainRampDone_off {s : State} {t : Trans} {d : Nat} {rest : List PStep} (ht : s.pwr.trans = some t) (hsteps : t.steps = .off d :: rest)
    (hst : (nth s.pwr.doms d).st = .ramp) :
    execDomainRampDone s = .next (((s.rampedOff d t.cause (!rest.isEmpty)).updPwr Pwr.popStep).sequencer) := by
  rw [execDomainRampDone, ht]
  dsimp only
  rw [hsteps]
  exact if_neg (by simp [hst])

theorem execDomainRampDone_stacksOff {s : State} {t : Trans} {rest : List PStep} (ht : s.pwr.trans = some t) (hsteps : t.steps = .stacksOff :: rest)
    (hne : stackDoms.filter (fun d => (nth s.pwr.doms d).st == .ramp) ≠ []) :
    execDomainRampDone s = .next
      (((forEach (stackDoms.filter (fun d => (nth s.pwr.doms d).st == .ramp)) s (fun s d => s.rampedOff d t.cause false)).updPwr Pwr.popStep).sequencer) := by
  rw [execDomainRampDone, ht]
  dsimp only
  rw [hsteps]
  exact if_neg (by rw [List.isEmpty_iff]; exact hne)

/-! ### O46 -/

/-- Settles O46: the commands through what they do before the sequencer goes on, the ends of ramps by the step that runs. -/
theorem powerCompletes : Obligations.PowerCompletes := by
  unfold Obligations.PowerCompletes
  intro s
  refine ⟨?_, ?_, ?_, ?_, ?_, ?_, ?_, ?_⟩
  · intro q e target htarget hrdy hgood
    obtain ⟨hbusy, hsame, hbegins⟩ := powerAct_eq (s := s) htarget
    have hacts : s.pwr.trans = none → s.pwr.starting = false →
        (if s.pwr.trans.isSome || s.pwr.starting then CmdOut.wait s (.power false) none else powerAct s e) = powerAct s e :=
      fun ht hst => if_neg (by simp [ht, hst])
    refine ⟨fun hor => ?_, fun ht hst hb => ?_, fun ht hst hb heq => ?_, fun steps ht hst hb hne hsteps s1 hs1 => ?_⟩
    · exact show execPowerState q s = _ from execPowerState_next (runCmd_wait hrdy hgood (.inl rfl) (if_pos (by simpa using hor)))
    · exact show execPowerState q s = _ from execPowerState_next (runCmd_done hrdy hgood (.inl rfl) ((hacts ht hst).trans (hbusy hb)) (.inr hst))
    · exact show execPowerState q s = _ from execPowerState_next (runCmd_done hrdy hgood (.inl rfl) ((hacts ht hst).trans (hsame hb heq)) (.inr hst))
    · exact show execPowerState q s = _ from
        execPowerState_next (runCmd_wait hrdy hgood (.inl rfl) ((hacts ht hst).trans (hbegins hb hne steps hsteps s1 hs1)))
  · rintro q e on off rfl rfl hrdy hgood
    refine ⟨fun hb ht => ?_, fun hb hst => ?_, fun hb ht => ?_⟩
    · exact show execDomainControl q s = _ from execDomainControl_next
        (runCmd_wait hrdy hgood (.inl rfl) ((if_neg (by simp [hb])).trans (if_neg (by simp [ht]))))
    · exact show execDomainControl q s = _ from execDomainControl_next (runCmd_done hrdy hgood (.inl rfl) (if_pos hb) (.inr hst))
    · exact show execDomainControl q s = _ from execDomainControl_next
        (runCmd_hold hrdy hgood (.inl rfl) ((if_neg (by simp [hb])).trans (if_pos ht)))
  · intro t d rest s0 s1 ht hsteps hs0 hs1
    exact show execDomainRampDone s = _ from execDomainRampDone_on ht hsteps hs0 hs1
  · intro t d rest ht hsteps hst
    exact show execDomainRampDone s = _ from execDomainRampDone_off ht hsteps hst
  · rintro t rest ds ht hsteps rfl hne
    exact show execDomainRampDone s = _ from execDomainRampDone_stacksOff ht hsteps hne
  · intro d hor
    exact show execDomainRestartOn d s = _ from if_pos (by simpa using hor)
  · intro d hd hon ht
    exact restartEvents_next (State.restartDomain_begins 2 hd hon ht) (State.restartDomain_begins 1 hd hon ht)
  · intro d hd hon ht
    refine ⟨fun hno => ?_, fun hin => ?_⟩
    · exact restartEvents_next (State.restartDomain_waits 2 hd hon ht hno) (State.restartDomain_waits 1 hd hon ht hno)
    · exact restartEvents_next (State.restartDomain_again 2 hd hon ht hin) (State.restartDomain_again 1 hd hon ht hin)

end Sys2Proof.Machine
end


-- ==== Sys2Proof/Proofs/ResetsAndStartUp.lean ====
section
/-! PROOFS. The reset pins, the control-store image, the phases of start-up, and the fall and return of VDD_AON (O47). -/

namespace Sys2Proof.Machine

/-! ### Reset pins (R440, R442, R446) -/

/-- A pin that is released while the other is low leaves the reset standing. -/
theorem execResetRelease_held {s : State} {fl : Option Sfdp} {a b : List Byte} (haon : s.pwr.aon = true) (hr : s.pwr.resetN = false) (hp : s.pwr.perstN = false) :
    execResetRelease true fl (a, b) s = .next (s.updPwr (fun p => { p with resetN := true })) ∧
    execResetRelease false fl (a, b) s = .next (s.updPwr (fun p => { p with perstN := true })) := by
  refine ⟨?_, ?_⟩ <;> simp [execResetRelease, State.inReset, State.updPwr, haon, hr, hp]

/-- The last pin that is released begins start-up: the flash is asked for its SFDP and read in the mode that chooses (R436). -/
theorem execResetRelease_last {s : State} {fl : Option Sfdp} {a b : List Byte} (haon : s.pwr.aon = true) :
    (s.pwr.resetN = false → s.pwr.perstN = true →
      execResetRelease true fl (a, b) s = .next ((s.updPwr (fun p => { p with resetN := true, flash := [sfdpRead, flashMode fl] })).startUp a b)) ∧
    (s.pwr.resetN = true → s.pwr.perstN = false →
      execResetRelease false fl (a, b) s = .next ((s.updPwr (fun p => { p with perstN := true, flash := [sfdpRead, flashMode fl] })).startUp a b)) := by
  refine ⟨fun hr hp => ?_, fun hr hp => ?_⟩ <;> simp [execResetRelease, State.inReset, State.updPwr, haon, hr, hp]

/-! ### The control-store image (R441, R451, R452) -/

/-- Why an image that has come is refused; 0 where it is not. -/
def State.imageReason (s : State) (b : List Byte) : Nat := if s.kpr.imgSource = 1 ∧ b.length ≠ s.kpr.imgLen then 1 else imageCheck s.kpr.svnFloor b

theorem State.imageReason_of_whole {s : State} {b : List Byte} (h : s.kpr.imgSource ≠ 1 ∨ b.length = s.kpr.imgLen) : s.imageReason b = imageCheck s.kpr.svnFloor b :=
  if_neg (by rintro ⟨h1, h2⟩; exact h.elim (· h1) h2)

/-- A refused image fails start-up, names the reason and raises IMAGE. -/
def State.imageRefused (s : State) (reason : Nat) : State :=
  (((s.updKpr (fun k => { k with img := .failed, failReason := reason })).setNow 3 true).updPwr (fun p => { p with phase := .failed, starting := false })).raiseAlarm 3 reason

section
variable {s : State} (himg : s.kpr.img = .loading) (hon : s.domOn 45 = true)
include himg hon

theorem execImageVerified_missing : execImageVerified none s = .next (s.imageRefused 5) :=
  (if_neg (by simp [himg, hon])).trans (if_pos (by simp))

/-- The reason the row computes from an image is `State.imageReason`. -/
theorem execImageVerified_eq (b : List Byte) :
    execImageVerified (some b) s =
      if s.imageReason b ≠ 0 then .next (s.imageRefused (s.imageReason b))
      else
        let s1 := (((s.setNow 3 false).updKpr (fun k => { k with img := .verified, failReason := 0, svn := rd b 12 1, advance := bit (rd b 13 1) 0 })).updCp
          (fun c => { c with image := some (imageOf s.kpr.imgSource b) }))
        if s.pwr.reloading then .next (s1.raiseFloor.updPwr (fun p => { p with phase := .done })).sequencer
        else .next (s1.updPwr (fun p => { p with starting := true, phase := .imageLoad })).startSequencers := by
  have hreason : (if (s.kpr.imgSource == 1 && b.length != s.kpr.imgLen) then 1 else imageCheck s.kpr.svnFloor b) = s.imageReason b := by
    simp only [State.imageReason, Bool.and_eq_true, beq_iff_eq, bne_iff_ne]
  refine (if_neg (by simp [himg, hon])).trans ?_
  simp only [Option.getD_some, Option.isNone_some, Bool.false_eq_true, if_false, hreason]
  rfl

end

/-! ### Phases (R441) -/

theorem State.log_pwr (s : State) (cls blk code inst detail : Nat) : (s.log cls blk code inst detail).pwr = s.pwr := by rw [State.log, State.logK_frame]

theorem State.log_kpr (s : State) (cls blk code inst detail : Nat) : (s.log cls blk code inst detail).kpr = s.kpr := by rw [State.log, State.logK_frame]

/-- A phase that overruns is logged, and IMAGE_LOAD alone stays until its image is verified. -/
theorem execStartupPhaseOverrun_eq {s : State} (ms : Nat) (hst : s.pwr.starting = true) (himg : s.kpr.img ≠ .waitHost) :
    execStartupPhaseOverrun ms s = .next
      (if s.pwr.phase = .imageLoad ∧ s.kpr.img ≠ .verified then s.log CONTAINED bPWR 3 s.pwr.phase.code ms
       else ((s.log CONTAINED bPWR 3 s.pwr.phase.code ms).phaseEnd ms).nextPhase) := by
  refine (if_neg (by simp [hst, himg])).trans ?_
  simp only [State.log_pwr, State.log_kpr, Bool.and_eq_true, beq_iff_eq, decide_eq_true_eq]

/-! ### O47 -/

/-- Settles O47: the pins by their levels, the image by its reason, the phases by what they wait for. -/
theorem resetsAndStartUpComplete : Obligations.ResetsAndStartUpComplete := by
  unfold Obligations.ResetsAndStartUpComplete
  intro s
  refine ⟨fun haon hr hp => ⟨?_, ?_⟩, fun haon hr hp => ?_, fun haon hr hp => ?_, fun fl a b haon hr hp => ?_, fun fl a b haon hr hp => ?_,
    fun fl a b haon hr hp => ?_, fun himg hon => ⟨fun b s1 hlen hok hs1 => ⟨fun hre => ?_, fun hre => ?_⟩, fun b reason hreason hne => ?_, ?_⟩,
    fun ms hst hmet => ?_, fun ms hst himg hor => ?_, fun ms hst himg hver hph => ?_, ?_, fun haon => ?_, fun he => ?_⟩
  · exact show execResetNAssert s = _ from (if_neg (by simp [haon, hr])).trans (if_neg (by simp [hp]))
  · exact show execPerstNAssert s = _ from (if_neg (by simp [haon, hp])).trans (if_neg (by simp [hr]))
  · exact show execPerstNAssert s = _ from (if_neg (by simp [haon, hp])).trans (if_pos (by simp [hr]))
  · exact show execResetNAssert s = _ from (if_neg (by simp [haon, hr])).trans (if_pos (by simp [hp]))
  · exact show execResetRelease true fl (a, b) s = _ from (execResetRelease_last haon).1 hr hp
  · exact show execResetRelease false fl (a, b) s = _ from (execResetRelease_last haon).2 hr hp
  · exact execResetRelease_held haon hr hp
  · have h0 : s.imageReason b = 0 := (State.imageReason_of_whole hlen).trans hok
    exact show execImageVerified (some b) s = _ from
      (execImageVerified_eq himg hon b).trans ((if_neg (not_not.2 h0)).trans (by rw [hs1]; exact if_neg (by simp [hre])))
  · have h0 : s.imageReason b = 0 := (State.imageReason_of_whole hlen).trans hok
    exact show execImageVerified (some b) s = _ from
      (execImageVerified_eq himg hon b).trans ((if_neg (not_not.2 h0)).trans (by rw [hs1]; exact if_pos hre))
  · have hr : s.imageReason b = reason := hreason.symm
    exact show execImageVerified (some b) s = _ from (execImageVerified_eq himg hon b).trans (by rw [hr]; exact if_pos hne)
  · exact show execImageVerified none s = _ from execImageVerified_missing himg hon
  · exact show execStartupPhaseDone ms s = _ from congrArg Host.Outcome.next (if_pos (by simp [hst, hmet]))
  · refine show execStartupPhaseOverrun ms s = _ from (execStartupPhaseOverrun_eq ms hst himg).trans (congrArg Host.Outcome.next (if_neg ?_))
    rintro ⟨hph, hver⟩
    exact hor.elim (· hph) hver
  · exact show execStartupPhaseOverrun ms s = _ from
      (execStartupPhaseOverrun_eq ms hst himg).trans (congrArg Host.Outcome.next (if_pos ⟨hph, hver⟩))
  · rfl
  · exact show execVddAonReturn s = _ from if_neg (by simp [haon])
  · rw [State.finishErase, he]

end Sys2Proof.Machine
end
